-- ==== Sys2Proof/Word.lean ====
section
/-! DEFINITION. The word types and the plainest arithmetic. -/

namespace Sys2Proof

/-- One byte of a bench, a slice, a frame or a record. -/
abbrev Byte := BitVec 8

/-- The payload of one flit of a bridge or hub link, 64 bytes (R24). -/
abbrev Flit := Vector Byte 64

/-- One 32-bit register (R549) or FP32 word (R40). -/
abbrev Word := BitVec 32

/-- The exact number m × 2^e. -/
structure Dy where
  m : Int
  e : Int
  deriving DecidableEq, Repr

/-- A decoded operand: a number, an infinity or a NaN (R73). -/
inductive Val where
  | num (d : Dy)
  | inf (neg : Bool)
  | nan
  deriving DecidableEq, Repr

/-- A value and whether the units it was read from were bad (R219). -/
structure Operand where
  val : Val
  bad : Bool
  deriving DecidableEq, Repr

/-- Ceiling of a quotient, as the formulas of R11 write it. -/
def ceilDiv (a b : Nat) : Nat := (a + b - 1) / b

/-- The ceiling of the base-two logarithm; 0 for 0 and 1. -/
def clog2 (n : Nat) : Nat := if n ≤ 1 then 0 else Nat.log2 (n - 1) + 1

/-- A counter that stops at its largest value ("saturating" in the register tables). -/
def sat (top n : Nat) : Nat := min top n

end Sys2Proof
end

