-- ==== Sys2Proof/Syntax.lean ====
section
/-! DEFINITION. The commands and events of spec/opcode_table.json with their operands, and the types the operands
are made of: status codes, formats, stage descriptors, program images, packets and frames. -/

namespace Sys2Proof

/-- The status codes of R569, in the order of their code values. -/
inductive Status where
  | ok | busy | badDesc | auth | sealed | noResource | pageExhausted | timeout | fenced | peerFenced
  | scribeStale | uncorrectable | poison | dmaUe | fetchUe | datumOvf | nanSeen | tempRange
  | throttledTrip | topology | epoch | reset | failed
  deriving DecidableEq, Repr

/-- The number formats of R34 with the format codes of R380. -/
inductive Fmt where
  | nofmt | e4m3 | e5m2 | e2m3 | e3m2 | e2m1 | mxint8 | bf16 | fp32 | int32 | int8
  deriving DecidableEq, Repr

/-- The closing rounding modes RMODE of R51; 0b11 is reserved. -/
inductive RMode where
  | rne | rtz | stoch | reserved
  deriving DecidableEq, Repr

/-- The numeric control field of R51 and the rounding seed (R71). -/
structure NumCtl where
  datum : Int := 0
  replay : Bool := false
  rmode : RMode := .rne
  e5m2Inf : Bool := false
  scaleCeil : Bool := false
  reservedBit : Bool := false
  seed : BitVec 32 := 0
  deriving DecidableEq, Repr

/-- One tap of a CONV stage: the mesh offset of the joist whose bench holds the data (halo), and the element offset. -/
structure Tap where
  dx : Int
  dy : Int
  off : Nat
  deriving DecidableEq, Repr

/-- The work of a GEMM, GEMV_STREAM or CONV stage, by tensor index (R380): activations, weights, result, vectors,
output columns of a joist, reduction length, whether a split of the reduction cuts a 32-element block (R46; the descriptor's word for it
is the toolchain's, DESIGN CHOICE, log entry 39), the groups left open for a later REDUCE, the taps of a CONV, and the 64-byte bench
slots through which weights that lie in the slice are staged (R97). -/
structure MatDesc where
  act : Nat
  wgt : Nat
  out : Nat
  vectors : Nat
  cols : Nat
  red : Nat
  splitBlock : Bool := false
  leaveOpen : Bool := false
  group : Nat := 0
  taps : List Tap := []
  stageAt : Nat := 0
  stageSlots : Nat := 0
  deriving DecidableEq, Repr

/-- The vector unit operations of R108 to R110 that an ELTWISE stage can apply to its operands. -/
inductive VecOp where
  | add | mul | fma | min | max | exp2 | log2 | recip | rsqrt | sin | cos
  | iadd | isub | imul | ishl | ishr | iand | ior | ixor | ilt | ieq
  deriving DecidableEq, Repr

/-- An ELTWISE stage: an operation on up to three tensors, and the group that takes the results as contributions (R112). -/
structure EltDesc where
  op : VecOp
  a : Nat
  b : Nat
  c : Nat
  out : Nat
  count : Nat
  into : Option Nat := none
  deriving DecidableEq, Repr

/-- A NORM stage: an input tensor, gain and offset tensors, the result, and the group that takes it as contributions (R112). -/
structure NormDesc where
  src : Nat
  gain : Nat
  bias : Nat
  out : Nat
  count : Nat
  into : Option Nat := none
  deriving DecidableEq, Repr

/-- A CONVERT stage: the source and result tensors. -/
structure CvtDesc where
  src : Nat
  out : Nat
  count : Nat
  deriving DecidableEq, Repr

/-- The stripe fields that attention stages share (R270 to R273). -/
structure Stripe where
  s : Nat
  first : Nat
  regionOff : Nat
  recBytes : Nat
  deriving DecidableEq, Repr

/-- An ATTEND or ATTEND_BWD descriptor with its parameter block (R278, R279). -/
structure AttDesc where
  vision : Bool
  causal : Bool := false
  windowed : Bool := false
  bitmask : Bool := false
  expand : Bool := false
  saveStats : Bool := false
  includeNew : Bool := false
  halves : Bool := false
  cacheFmt : Fmt
  qFmt : Fmt
  outFmt : Fmt
  heads : Nat
  kGroups : Nat := 0
  stripe : Stripe
  latent : Nat
  headDim : Nat := 0
  ropeDim : Nat := 0
  win : Nat := 0
  span : Nat := 0
  maskStride : Nat := 0
  scale : BitVec 32
  maxRows : Nat
  kexpDatum : Int := 0
  entryFirst : Nat := 0
  entryCount : Nat := 0
  wFmt : Fmt := .nofmt
  qSrc : Nat := 0
  outDst : Nat := 0
  wuk : Nat := 0
  wuv : Nat := 0
  posTab : Nat := 0
  mask : Nat := 0
  stateOff : Nat := 0
  statsOff : Nat := 0
  doSrc : Nat := 0
  oSrc : Nat := 0
  dqDst : Nat := 0
  dcDst : Nat := 0
  gradFmt : Fmt := .nofmt
  dcRecs : Nat := 0
  deriving DecidableEq, Repr

/-- A SCATTER_KV descriptor (R293). -/
structure ScatDesc where
  stripe : Stripe
  src : Nat
  deriving DecidableEq, Repr

/-- The peg operations of R187; a reserved code is kept so that PROGRAM_LOAD can refuse it. -/
inductive PegOp where
  | add | mul | scale | fma | resid | conv | quant | dequant | stat | napply | copy | fill | zero | bload | reserved
  deriving DecidableEq, Repr

/-- One peg instruction (R186). -/
structure PegInstr where
  op : PegOp
  fmtIn : Fmt := .nofmt
  fmtOut : Fmt := .nofmt
  breg : Nat := 0
  rmode : RMode := .rne
  e5m2Inf : Bool := false
  scaleCeil : Bool := false
  statOut : Bool := false
  rowA : Nat := 0
  rowB : Nat := 0
  rowC : Nat := 0
  rowD : Nat := 0
  col : Nat := 0
  slot : Nat := 0
  vlen : Nat := 0
  count : Nat := 0
  deriving DecidableEq, Repr

/-- A PEG_SEQ descriptor with its instruction list (R192). -/
structure PegDesc where
  list : List PegInstr
  statGroups : List Nat := []
  overlap : Bool := false
  banks : List Nat
  join : Nat := 0
  bcast : List (BitVec 32) := []
  deriving DecidableEq, Repr

/-- The exchange fields that REDUCE and CULL share (R129, R135). -/
structure Exch where
  count : Nat := 0
  pos : Nat := 0
  list : List Nat := []
  landing : Nat := 0
  peerBay : Nat := 0
  awaitTimeout : Nat := 0
  deriving DecidableEq, Repr

/-- The operations of a REDUCE stage (R129). -/
inductive RedOp where
  | sumDatum | sumFp32 | maxFp32 | minFp32 | reserved
  deriving DecidableEq, Repr

/-- A REDUCE descriptor (R129). -/
structure RedDesc where
  op : RedOp
  toAll : Bool := false
  modeReserved : Bool := false
  groups : List Nat := []
  outFmt : Fmt := .nofmt
  elements : Nat := 0
  src : Nat := 0
  dst : Nat := 0
  exch : Exch := {}
  deriving DecidableEq, Repr

/-- A CULL descriptor (R135). -/
structure CullDesc where
  k : Nat
  smallest : Bool := false
  sample : Bool := false
  inBf16 : Bool := false
  toAll : Bool := false
  rows : Nat := 1
  segLen : Nat
  src : Nat := 0
  dst : Nat := 0
  posBase : Nat := 0
  invTemp : BitVec 32 := 0
  exch : Exch := {}
  deriving DecidableEq, Repr

/-- A STATS descriptor (R140). -/
structure StatsDesc where
  source : Nat
  histGroups : Bool := false
  accum : Bool := false
  tensor : Nat
  histBase : Int := 0
  channels : Nat
  window : Nat
  offset : Nat
  deriving DecidableEq, Repr

/-- An EXCHANGE descriptor (R381). -/
structure ExchangeDesc where
  peer : Nat
  window : Nat
  imm : Bool
  first : Nat
  count : Nat
  src : Nat
  length : Nat
  dst : Nat
  stride : Nat
  senderPos : Nat
  peerBay : Nat
  deriving DecidableEq, Repr

/-- An AWAIT descriptor (R382). -/
structure AwaitDesc where
  window : Nat
  count : Nat
  timeout : Nat
  deriving DecidableEq, Repr

/-- The work of one stage: the operation codes of R380 with the descriptor fields from byte 16 on. -/
inductive StageWork where
  | gemm (d : MatDesc)
  | gemvStream (d : MatDesc)
  | conv (d : MatDesc)
  | attend (d : AttDesc)
  | attendBwd (d : AttDesc)
  | scatterKv (d : ScatDesc)
  | norm (d : NormDesc)
  | eltwise (d : EltDesc)
  | pegSeq (d : PegDesc)
  | reduce (d : RedDesc)
  | cull (d : CullDesc)
  | convert (d : CvtDesc)
  | stats (d : StatsDesc)
  | exchange (d : ExchangeDesc)
  | await (d : AwaitDesc)
  deriving DecidableEq, Repr

/-- How a stage reaches a tensor in the slice: with a hint of R160 through the port, or over the narrow path (R158). -/
inductive PortPath where
  | normal | stream | keep | lastUse | narrow
  deriving DecidableEq, Repr

/-- Where the parts of an attention region lie, by the region's byte in the parameter block (R279): for element plane, scale plane and
positional part the offset of the first part and the step to the next. -/
structure Planes where
  region : Nat
  elem : Nat × Nat
  scale : Nat × Nat
  rope : Nat × Nat := (0, 0)
  deriving DecidableEq, Repr

/-- What a stage's layout map says (DESIGN CHOICE of form, log entry 39). Of its result: the position in the logical tensor at which each
joist's share starts, the share's columns (0: one row), and the logical row length (R71). Of its tensors in the slice: the path of each
that does not take the normal one. Of an attention stage's regions: the planes of each whose parts do not simply follow one another. -/
structure StageMap where
  starts : List Nat := []
  cols : Nat := 0
  rowLen : Nat := 0
  paths : List (Nat × PortPath) := []
  planes : List Planes := []
  deriving DecidableEq, Repr

/-- What the toolchain's own bytes say of a stage (DESIGN CHOICE, log entry 39): the work of a GEMM, GEMV_STREAM, CONV, NORM, ELTWISE or
CONVERT descriptor, whose bytes 16 to 63 R380 leaves to it, and the layout map of these and of ATTEND and ATTEND_BWD. -/
structure Named where
  work : Option StageWork := none
  map : StageMap := {}
  deriving DecidableEq, Repr

/-- One stage descriptor: the common header of R379 and the work. -/
structure Stage where
  num : NumCtl := {}
  datumTab : Option (List Int) := none
  energy : Nat := 0
  map : StageMap := {}
  work : StageWork
  deriving DecidableEq, Repr

/-- One tensor table entry with its extents (R378). -/
structure Tensor where
  fmt : Fmt
  inSlice : Bool
  extents : List (Nat × Nat)
  scales : Option Nat := none
  bytes : Nat := 0
  deriving DecidableEq, Repr

/-- One landing window table entry (R577). -/
structure LandingDef where
  window : Nat
  benchOff : Nat
  extent : Nat
  deriving DecidableEq, Repr

/-- A program image as the framer reads it through hub DMA (R377): its header, stages and tables, and the digest of
its bytes. -/
structure Image where
  stages : List Stage
  ltOff : Nat := 0
  tensors : List Tensor := []
  landing : List LandingDef := []
  sha : BitVec 256 := 0
  bytes : Nat := 64
  deriving DecidableEq, Repr

/-- One length-table entry (R274). -/
structure LtEntry where
  seqId : Nat
  start : Nat
  qlen : Nat
  append : Nat
  deriving DecidableEq, Repr

/-- Who submitted a taken command: session, SEQ, TAG, the port it arrived on and its DEADLINE in µs (R359). -/
structure Cmd where
  session : Nat
  seq : Nat
  tag : Nat := 0
  port : Nat := 0
  deadline : Nat := 0
  deriving DecidableEq, Repr

/-- A reply buffer in host memory (R370). -/
structure Reply where
  va : Nat
  key : Nat
  len : Nat
  deriving DecidableEq, Repr

/-- The body of SESSION_OPEN, bytes 0 to 167 and 236 to 251 (R373, R401); hostEph is X and Y of the ephemeral public key, whose first byte
is ephForm. -/
structure OpenBody where
  mailbox : Nat
  slotCount : Nat
  portMask : BitVec 12
  hostQpn : Nat
  hostPsn : Nat
  hostIp : Nat
  ringEntries : Nat
  ringVa : Nat
  ringKey : Nat
  hostEph : BitVec 512
  hostNonce : BitVec 256
  reply : Reply
  ephForm : Nat := 4
  /-- the first byte of ENROLL_KEY -/
  keyForm : Nat := 4
  deriving DecidableEq, Repr

/-- The body of BAY_DEFINE (R373, R237). -/
structure BayBody where
  bay : Nat
  bentMask : Nat
  c0 : Nat
  r0 : Nat
  w : Nat
  h : Nat
  reserved : Bool
  pageTokens : Nat
  pageFirst : Nat
  pageCount : Nat
  ptBase : Nat
  seqSlots : Nat
  tableLen : Nat
  deriving DecidableEq, Repr

/-- One peer table entry (R375). -/
structure PeerEntry where
  serial : Nat
  port : Nat
  ipv6 : Bool := true
  expSubtype : Nat := 7
  grant : Nat
  ip : Nat
  qpn : Nat
  psn : Nat
  expChassis : Nat
  expPort : Nat
  deriving DecidableEq, Repr

/-- The attestation report (R416). -/
structure Report where
  openMode : Bool
  operatorKey : Bool
  updateOpen : Bool
  afterRecovery : Bool
  cfgDefaulted : Bool
  fwVersion : Nat
  serial : BitVec 64
  devId : Nat
  fwCounter : Nat
  cfgEpoch : Nat
  tenancy : Nat
  session : Nat
  settingsSeq : Nat
  nonce : BitVec 256
  mRom : BitVec 256
  mFw : BitVec 256
  mUcode : BitVec 256
  mFuse : BitVec 256
  mSettings : BitVec 256
  mProgram : BitVec 256
  mOwner : BitVec 256
  signature : BitVec 512
  deriving DecidableEq, Repr

/-- What the keeper reads of a peer's certificate chain (R395): whether each certificate verifies under the next, the serial and the public
key that the device certificate binds, and SHA-256 of the root. -/
structure Chain where
  linked : Bool
  serial : BitVec 64
  key : BitVec 512
  root : BitVec 256
  deriving DecidableEq, Repr

/-- A PH2 message (R413). -/
structure Ph2 where
  report : Report
  chain : Chain
  deriving DecidableEq, Repr

/-- A setting in TLV form (R386): block, instance, number and the value's fields as numbers. -/
structure Setting where
  block : Nat
  inst : Nat
  num : Nat
  value : List Nat
  /-- the value's bytes, where they are no value of a known setting's size -/
  raw : Option (List Byte) := none
  deriving DecidableEq, Repr

/-- The wake frame of R540 as the keeper checks it. -/
structure WakeFrame where
  port : Nat
  tenancy : Nat
  session : Nat
  counter : Nat
  tag : BitVec 128 := 0
  deriving DecidableEq, Repr

/-- A keeper management frame (R471), with its source MAC address, to which the reply goes (R472). -/
structure MgmtFrame where
  port : Nat
  src : BitVec 48 := 0
  session : Nat
  counter : Nat
  action : Nat
  arg : Nat
  tag : BitVec 128 := 0
  deriving DecidableEq, Repr

/-- The RoCEv2 operations that a received packet can carry (R328); other means an unsupported one. -/
inductive PktOp where
  | write | writeImm | read | send | other
  deriving DecidableEq, Repr

/-- A received RoCEv2 packet (R329, R407, R409): the fields of its seal header, its data as it came, sealed on a sealed queue pair, and its
tag. -/
structure Pkt where
  port : Nat
  qpn : Nat
  psn : Nat
  op : PktOp
  headersOk : Bool := true
  rkey : Nat := 0
  va : Nat := 0
  len : Nat := 0
  data : List Byte := []
  imm : Nat := 0
  keyGen : Nat := 0
  counter : Nat := 0
  scribe : Nat := 0
  tag : BitVec 128 := 0
  ecnCe : Bool := false
  priority : Nat := 0
  srcIp : Nat := 0
  /-- the first and the last packet of its message -/
  first : Bool := true
  last : Bool := true
  deriving DecidableEq, Repr

/-- A group image (R124): the tag's stage, level and step fields, and the sums. -/
structure GroupImage where
  stage : Nat
  level : Nat
  step : Nat
  group : Nat
  datum : Int
  ovf : Bool := false
  nan : Bool := false
  poison : Bool := false
  realign : Bool := false
  discard : Nat := 0
  amax : Option Int := none
  acc : List Int
  deriving DecidableEq, Repr

/-- A device-level arrival: a group image, or a vector of an FP32 reduction, or cull lists. -/
inductive Arrival where
  | group (img : GroupImage)
  | vector (stage level step : Nat) (v : List (BitVec 32))
  | lists (stage level step : Nat) (rows : List (Nat × List (BitVec 32 × Nat)))
  deriving DecidableEq, Repr

/-- The classes of a decoder (R214). -/
inductive EccKind where
  | ce1 | ce2 | ue
  deriving DecidableEq, Repr

/-- An error that a read of a stored unit meets: the joist key, the unit of R224, row, codeword and class. -/
structure Finding where
  joist : Nat
  unit : Nat
  row : Nat
  cw : Nat
  kind : EccKind
  /-- the source field of KIND (R224) -/
  src : Nat := 0
  deriving DecidableEq, Repr

/-- A stage of a bay's running step, and the stored-data errors its reads meet. -/
structure StageRef where
  bay : Nat
  ix : Nat
  found : List Finding := []
  deriving DecidableEq, Repr

/-- A write of bytes into a slot of a mailbox (R359, R361) on a port. If the framer takes the slot: the stored-data errors that the command's
reads meet, and what the toolchain's bytes say of a program that it loads. -/
structure SlotWrite where
  mailbox : Nat
  slot : Nat
  port : Nat
  offset : Nat
  data : List Byte
  found : List Finding := []
  named : List Named := []
  deriving DecidableEq, Repr

/-- The outcome of a margin run for one bank of one joist: its window of timing, in eighths of an MCLK cycle, and of voltage, in
5 mV steps from 1.00 V, and the spare rows that fail at nominal settings (R170, R172, R173). -/
structure MarginOutcome where
  pjoist : Nat
  bank : Nat
  tLow : Int
  tHigh : Int
  vLow : Int
  vHigh : Int
  badSpares : List Nat := []
  deriving DecidableEq, Repr

/-- What a margin sweep brings: the measured VDD_LAM in mV, which sets its ceiling (R170), and the outcomes. -/
structure Sweep (α : Type) where
  vddLam : Nat
  outcomes : List α
  deriving DecidableEq, Repr

/-- The hub's self-test (R433): whether it passed, and the SRAM rows that it replaced. -/
structure SelfTest where
  passed : Bool
  repaired : List Nat := []
  deriving DecidableEq, Repr

/-- A row that is read, and the stored-data errors that the read meets. -/
structure RowRead where
  row : Nat
  found : List Finding := []
  deriving DecidableEq, Repr

/-- A page set that is read, and the stored-data errors that the read meets. -/
structure PageRead where
  page : Nat
  found : List Finding := []
  deriving DecidableEq, Repr

/-- A packet that the hub has in packet SRAM, and the errors of the words that its transfer reads. -/
structure PktRead where
  id : Nat
  found : List Finding := []
  deriving DecidableEq, Repr

/-- A count of what hub DMA reads in a slice window, and the stored-data errors that the read meets. -/
structure HubRead where
  count : Nat
  found : List Finding := []
  deriving DecidableEq, Repr

/-- The raw readings of one sensor pair in 1/16 °C (R491), with the rail power that R493 compares. -/
structure SiteReading where
  site : Nat
  a : Int
  b : Int
  power : Nat := 0
  deriving DecidableEq, Repr

/-- An LLDP frame (R325): chassis ID and port ID. -/
structure LldpFrame where
  /-- the subtype of its chassis ID (R325, R375) -/
  subtype : Nat := 7
  chassis : Nat
  portId : Nat
  deriving DecidableEq, Repr

/-- What the hub reads of a laser module (R317): its identity, temperature, bias, output power and alarms as the ELSFP agreement's own
numbers. -/
structure LaserReading where
  engine : Nat
  identity : Nat := 0
  temperature : Int := 0
  bias : Nat := 0
  power : Nat := 0
  alarms : Nat := 0
  deriving DecidableEq, Repr

/-- A received frame's EtherType, and for an IP packet whether it has options or extension headers, its protocol, and its UDP
destination port or its ICMP type (R323, R324). -/
structure EthBody where
  etherType : Nat
  options : Bool := false
  protocol : Nat := 17
  udpPort : Nat := 4791
  /-- the type of an ICMP or ICMPv6 message -/
  icmpType : Nat := 8
  deriving DecidableEq, Repr

/-- A flit that arrives over a link (R24): in the direction back or not; the flit that the sender has just been given, if any, which goes
behind those it holds; and whether the arriving one passes its check. -/
structure FlitRx where
  back : Bool := false
  given : Option Flit := none
  crcOk : Bool := true
  deriving DecidableEq, Repr

/-- The commands and events of spec/opcode_table.json, one constructor for each row. -/
inductive Instr where
  -- session and identity
  | hello (cx : Cmd) (ringVa ringKey ringEntries : Nat)
  | attest (cx : Cmd) (nonce : BitVec 256) (chain : Bool) (reply : Reply)
  | sessionOpen (cx : Cmd) (body : OpenBody) (sig : BitVec 512)
  | sessionOpenEnroll (cx : Cmd) (body : OpenBody) (key : BitVec 512) (sig : BitVec 512)
  | sessionOpenUnenroll (cx : Cmd) (body : OpenBody) (sig : BitVec 512)
  | sessionClose (cx : Cmd) (session : Nat)
  -- tenancies
  | tenancyCreate (cx : Cmd) (tenancy hangMode bentMask maxBays : Nat) (keyForm : Nat) (key : BitVec 512)
  | tenancyDestroy (cx : Cmd) (tenancy : Nat)
  | tenancyZeroise (tenancy : Nat)
  -- bays and programs
  | bayDefine (cx : Cmd) (body : BayBody)
  | bayRelease (cx : Cmd) (bay : Nat)
  | bayArm (cx : Cmd) (bay on window : Nat)
  | programLoad (cx : Cmd) (bay window offset : Nat) (read : HubRead) (digest : BitVec 256) (named : List Named) (reply : Reply)
  | programUnload (cx : Cmd) (bay : Nat)
  | weightsBind (cx : Cmd) (window bay access addr extent : Nat)
  | stepRun (cx : Cmd) (bay prio : Nat) (arm : Bool) (armTag admitTimeout : Nat) (table : List LtEntry)
  -- sequences
  | seqOpen (cx : Cmd) (bay : Nat)
  | seqFork (cx : Cmd) (parent position : Nat)
  | seqClose (cx : Cmd) (seqId : Nat)
  | seqReserve (cx : Cmd) (seqId pages : Nat)
  -- jobs
  | jobBind (cx : Cmd) (fenceMode window offset jobSize : Nat) (read : HubRead)
  | jobBindLldpTimeout (tenancy : Nat)
  | ph1Rx (tenancy peer serial grant epoch : Nat) (eph : BitVec 512) (nonce : BitVec 256)
  | ph2Rx (tenancy peer : Nat) (msg : Ph2)
  | ph2Timeout (tenancy : Nat)
  -- configuration
  | configStage (cx : Cmd) (clear : Bool) (entries : List Setting)
  | configApply (cx : Cmd) (baseEpoch timeout : Nat)
  | configApplyDrained
  | configApplyTimeout
  | configCommit (cx : Cmd)
  | configRead (cx : Cmd) (which : Nat) (reply : Reply)
  -- RETAIN
  | powerRetain (cx : Cmd) (timeout : Nat)
  | retainDrainDone
  | retainDrainTimeout
  | retainClose
  | retainStop
  | retainSelfRefresh
  | retainRetention
  | lightWake (port : Nat)
  | frameWake (port : Nat)
  | wakeFrameRx (f : WakeFrame)
  | retainExitHub
  | retainExitBent (bent : Nat)
  -- resets and firmware
  | resetPartition (cx : Cmd) (mask : BitVec 4)
  | resetDevice (cx : Cmd) (fullTests : Bool)
  | fwBegin (cx : Cmd) (length version : Nat) (digest : BitVec 256)
  | fwChunk (cx : Cmd) (offset : Nat) (data : List Byte)
  | fwFinish (cx : Cmd) (v : Unit)
  -- thermal commands
  | thermalHint (cx : Cmd) (inlet : Int) (flow lifetime : Nat)
  | hintExpiry
  | coolingBaseline (cx : Cmd) (mode value : Nat)
  -- reading and register commands
  | statusRead (cx : Cmd) (reply : Reply)
  | logRead (cx : Cmd) (log first count : Nat) (reply : Reply)
  | regRead (cx : Cmd) (addrs : List Nat)
  | regWrite (cx : Cmd) (addr : Nat) (value mask : Word)
  | forceHotWrite (cx : Cmd) (bent : Nat) (on : Bool)
  | peakClr (cx : Cmd) (bent : Nat)
  | scrubRateWrite (cx : Cmd) (bent rate : Nat)
  | pegMaxWrite (cx : Cmd) (bent pegMax : Nat)
  | bayTrigClr (cx : Cmd) (bay : Nat)
  | laserFaultClear (cx : Cmd) (port : Nat)
  | linkDegradedClear (cx : Cmd) (port : Nat)
  | neighMismatchClear (cx : Cmd) (port : Nat)
  | sensorDisagreeClear (cx : Cmd)
  | inletDisagreeClear (cx : Cmd)
  | pllLossClear (cx : Cmd)
  | marginRun (cx : Cmd) (bent : Nat)
  | marginRunDone (bent : Nat) (sweep : Sweep MarginOutcome)
  -- mailbox and window
  | slotCommitWrite (w : SlotWrite)
  | statusWindowRead (port mailbox session va len : Nat)
  | statusWindowSnapshot
  -- jig
  | stepAdmit (bay : Nat)
  | cowCopyDone (bay : Nat) (target : PageRead)
  | admissionTimeout (step : Nat)
  | stepBoundary (bay : Nat)
  | armedTrigger (bay window : Nat) (imm : BitVec 32)
  -- stages
  | gemm (r : StageRef)
  | gemvStream (r : StageRef)
  | conv (r : StageRef)
  | attend (r : StageRef)
  | attendBwd (r : StageRef)
  | scatterKv (r : StageRef)
  | norm (r : StageRef)
  | eltwise (r : StageRef)
  | convert (r : StageRef)
  | pegSeq (r : StageRef)
  | pegSegmentEnd (joist bank : Nat) (found : List Finding)
  | reduce (r : StageRef)
  | braceImageArrival (bay : Nat) (a : Arrival)
  | cull (r : StageRef)
  | stats (r : StageRef)
  | exchange (r : StageRef)
  | await (r : StageRef)
  | awaitTimeout (bay ix : Nat)
  | deviceLevelTimeout (bay ix : Nat)
  | stageEnd (bay ix : Nat)
  | deadlineExpiry (session seq : Nat)
  | bayGate (bay : Nat)
  | bayUngated (bay : Nat)
  -- partition reset
  | partitionFence (r : Nat)
  | partitionDrain (r : Nat)
  | partitionStop (r : Nat)
  | partitionQuiesce (r : Nat)
  | partitionClear (r : Nat)
  | partitionReclaim (r : Nat)
  | partitionSlices (r : Nat)
  | partitionRaise (r : Nat)
  | partitionReload (r : Nat) (missed : List (Nat × BitVec 32))
  | partitionDone (r : Nat)
  | partitionResetOvertime (r : Nat)
  -- keeper management frames
  | mgmtFrameRx (f : MgmtFrame)
  | mgmtStatus
  | mgmtResetPartition
  | mgmtResetDevice
  -- bring-up
  | bringupKeeper (fw : Unit)
  | bringupHub (linkOk framerOk : Bool) (selfTest : SelfTest)
  | hubStageRetry
  | bringupLinks (failed : List Nat) (failedLanes : List Nat)
  | bringupEngines (calFailed openPorts noModule : List Nat)
  | bringupTopology (absent : List Nat)
  | bringupRaising
  | bringupSlices
  | bringupTests (selfTestFailed sliceFailed absentLams : List Nat) (margin : Sweep (Nat × MarginOutcome))
  | bringupZero
  | bringupBroadcast (missed : List (Nat × BitVec 32))
  | ucodePacketRx (joist packet : Nat) (imageId : BitVec 32) (crcOk : Bool)
  | repairRoundEnd (missed : List (Nat × BitVec 32))
  | bringupReady
  | joistReload (joist : Nat) (missing : BitVec 32)
  -- recovery
  | rHello (port addr : Nat)
  | rBegin (port addr : Nat) (challenge : BitVec 128) (length version : Nat) (digest : BitVec 256) (sig : BitVec 512)
  | rData (port addr offset : Nat) (data : List Byte)
  | rEnd (port addr : Nat) (v : Unit)
  | recoverySilence
  | recoveryDatagramRefused (port addr : Nat)
  -- RoCEv2
  | rocePacketRx (p : Pkt)
  | rdmaWriteRx (id : Nat) (found : List Finding)
  | rdmaReadRx (id : Nat) (found : List Finding)
  | packetDelivered (id : Nat)
  | landingArrival (id : Nat)
  | tallyReturnTimer (tenancy peer : Nat)
  | tallyReturnRx (id : PktRead)
  | ackRx (qpn psn : Nat)
  | nakRx (qpn psn kind : Nat)
  | ackTimeout (qpn : Nat)
  | ackCoalesceTimer (qpn : Nat)
  | cnpRx (qpn : Nat)
  | cnpRateStep (qpn : Nat)
  | pfcXoffRx (port priority quanta : Nat)
  | pfcPauseExpiry (port priority : Nat)
  -- Ethernet
  | arpRequestRx (port ip mac srcIp : Nat)
  | arpReplyRx (port ip mac : Nat)
  | icmpEchoRx (port ip srcIp id : Nat)
  | frameDiscard (port bytes : Nat) (body : EthBody) (fcsOk : Bool)
  | lldpSend
  | lldpRx (port : Nat) (f : LldpFrame)
  | portLinkUp (port : Nat)
  | portLinkDown (port : Nat) (laneSignal : BitVec 4)
  | portTrainRetry (port : Nat) (laneSignal : BitVec 4)
  | fecRateCheck (port corrected uncorrected : Nat)
  | laserPoll (modules : List LaserReading) (faults : List Nat)
  | laserModuleFault (engine cause : Nat)
  | laserRetry (engine : Nat) (works : Bool)
  | reflectionOpen (port : Nat)
  | reflectionProbe (port : Nat) (mated : Bool)
  | linkFlitRx (link : Nat) (rx : FlitRx)
  | keeperLinkMessage (authOk : Bool)
  -- slices
  | refreshDue (joist bank : Nat)
  | refreshIssue (joist bank : Nat)
  | scrubVisit (joist bank : Nat) (found : List Finding)
  | sramCe1Writeback (joist unit word : Nat)
  | ce2CandidateExpiry (bent : Nat)
  | remapMramRetry
  | remapCopy (joist bank : Nat) (read : RowRead)
  -- temperature and power
  | sensorSample (readings : List SiteReading)
  | bentTripClear (bent : Nat)
  | hubTripClear
  | engineTripClear (engine : Nat) (calOk : Bool)
  | capSample (bent : Nat) (readings : List SiteReading)
  | powerMeasure (watts avg10ms : Nat)
  | lcapLower (avg10ms : Nat)
  | rthUpdate (avg10ms : Nat) (thermistor : Int)
  | pcapUpdate
  | heartbeatTick
  | framerStall
  | randomHealthFail
  | mramQueueFlush
  -- clocks, rails and pins
  | refclkLoss (hubPll : Bool)
  | refclkValid
  | sillPllLoss (bent : Nat)
  | sillPllRelock (bent failures : Nat)
  | enginePllLoss (engine : Nat)
  | pwrokRise
  | pwrokFall
  | rstNAssert
  | vddKeepRemoved
  | enginePllRelock (engine : Nat) (calOk : Bool)
  | randomHealthRecovered
  | portLightLoss (port : Nat)
  deriving DecidableEq, Repr

end Sys2Proof
end

