-- ==== Sys2Proof/WellFormed.lean ====
section
/-! DEFINITION. Well-formed commands and events: every operand fits the field or the part number that carries it. The
spec's own limits on a field are checked by the command's meaning, which answers with the status the spec names. -/

namespace Sys2Proof

/-- The operands of a taken command and the bounds of their fields (R359). -/
def Cmd.ranges (c : Cmd) : List (Nat × Nat) :=
  [(c.session, 2 ^ 16), (c.seq, 2 ^ 32), (c.tag, 2 ^ 64), (c.port, 12), (c.deadline, 2 ^ 32)]

/-- The numbered operands of a command or event, each with the number of values its field or part number has. -/
def Instr.ranges : Instr → List (Nat × Nat)
  | .hello cx .. => cx.ranges
  | .attest cx .. => cx.ranges
  | .sessionOpen cx .. => cx.ranges
  | .sessionOpenEnroll cx .. => cx.ranges
  | .sessionOpenUnenroll cx .. => cx.ranges
  | .sessionClose cx session => cx.ranges ++ [(session, 65536)]
  | .tenancyCreate cx tenancy hangMode bentMask maxBays keyForm .. => cx.ranges ++ [(tenancy, 256), (hangMode, 256), (bentMask, 256), (maxBays, 256), (keyForm, 256)]
  | .tenancyDestroy cx tenancy => cx.ranges ++ [(tenancy, 256)]
  | .tenancyZeroise tenancy => [(tenancy, 256)]
  | .bayDefine cx .. => cx.ranges
  | .bayRelease cx bay => cx.ranges ++ [(bay, 256)]
  | .bayArm cx bay _ window => cx.ranges ++ [(bay, 256), (window, 256)]
  | .programLoad cx bay window .. => cx.ranges ++ [(bay, 256), (window, 256)]
  | .programUnload cx bay => cx.ranges ++ [(bay, 256)]
  | .weightsBind cx window bay access addr .. => cx.ranges ++ [(window, 256), (bay, 256), (access, 256), (addr, 4294967296)]
  | .stepRun cx bay prio .. => cx.ranges ++ [(bay, 256), (prio, 256)]
  | .seqOpen cx bay => cx.ranges ++ [(bay, 256)]
  | .seqFork cx parent .. => cx.ranges ++ [(parent, 65536)]
  | .seqClose cx seqId => cx.ranges ++ [(seqId, 65536)]
  | .seqReserve cx seqId pages => cx.ranges ++ [(seqId, 65536), (pages, 256)]
  | .jobBind cx fenceMode window .. => cx.ranges ++ [(fenceMode, 256), (window, 256)]
  | .jobBindLldpTimeout tenancy => [(tenancy, 256)]
  | .ph1Rx tenancy peer .. => [(tenancy, 256), (peer, 1024)]
  | .ph2Rx tenancy peer .. => [(tenancy, 256), (peer, 1024)]
  | .ph2Timeout tenancy => [(tenancy, 256)]
  | .configStage cx .. => cx.ranges
  | .configApply cx _ timeout => cx.ranges ++ [(timeout, 4294967296)]
  | .configApplyDrained => []
  | .configApplyTimeout => []
  | .configCommit cx => cx.ranges
  | .configRead cx which .. => cx.ranges ++ [(which, 256)]
  | .powerRetain cx timeout => cx.ranges ++ [(timeout, 4294967296)]
  | .retainDrainDone => []
  | .retainDrainTimeout => []
  | .retainClose => []
  | .retainStop => []
  | .retainSelfRefresh => []
  | .retainRetention => []
  | .lightWake port => [(port, 12)]
  | .frameWake port => [(port, 12)]
  | .wakeFrameRx .. => []
  | .retainExitHub => []
  | .retainExitBent bent => [(bent, 4)]
  | .resetPartition cx .. => cx.ranges
  | .resetDevice cx .. => cx.ranges
  | .fwBegin cx .. => cx.ranges
  | .fwChunk cx .. => cx.ranges
  | .fwFinish cx .. => cx.ranges
  | .thermalHint cx .. => cx.ranges
  | .hintExpiry => []
  | .coolingBaseline cx .. => cx.ranges
  | .statusRead cx .. => cx.ranges
  | .logRead cx log .. => cx.ranges ++ [(log, 256)]
  | .regRead cx .. => cx.ranges
  | .regWrite cx addr .. => cx.ranges ++ [(addr, 4294967296)]
  | .forceHotWrite cx bent .. => cx.ranges ++ [(bent, 4)]
  | .peakClr cx bent => cx.ranges ++ [(bent, 4)]
  | .scrubRateWrite cx bent rate => cx.ranges ++ [(bent, 4), (rate, 4096)]
  | .pegMaxWrite cx bent pegMax => cx.ranges ++ [(bent, 4), (pegMax, 256)]
  | .bayTrigClr cx bay => cx.ranges ++ [(bay, 256)]
  | .laserFaultClear cx port => cx.ranges ++ [(port, 12)]
  | .linkDegradedClear cx port => cx.ranges ++ [(port, 12)]
  | .neighMismatchClear cx port => cx.ranges ++ [(port, 12)]
  | .sensorDisagreeClear cx => cx.ranges
  | .inletDisagreeClear cx => cx.ranges
  | .pllLossClear cx => cx.ranges
  | .marginRun cx bent => cx.ranges ++ [(bent, 4)]
  | .marginRunDone bent .. => [(bent, 4)]
  | .slotCommitWrite .. => []
  | .statusWindowRead port _ session .. => [(port, 12), (session, 65536)]
  | .statusWindowSnapshot => []
  | .stepAdmit bay => [(bay, 256)]
  | .cowCopyDone bay target => [(bay, 256), (target.page, 65536)]
  | .admissionTimeout .. => []
  | .stepBoundary bay => [(bay, 256)]
  | .armedTrigger bay window .. => [(bay, 256), (window, 256)]
  | .gemm .. => []
  | .gemvStream .. => []
  | .conv .. => []
  | .attend .. => []
  | .attendBwd .. => []
  | .scatterKv .. => []
  | .norm .. => []
  | .eltwise .. => []
  | .convert .. => []
  | .pegSeq .. => []
  | .pegSegmentEnd joist bank .. => [(joist, 5376), (bank, 24)]
  | .reduce .. => []
  | .braceImageArrival bay .. => [(bay, 256)]
  | .cull .. => []
  | .stats .. => []
  | .exchange .. => []
  | .await .. => []
  | .awaitTimeout bay .. => [(bay, 256)]
  | .deviceLevelTimeout bay .. => [(bay, 256)]
  | .stageEnd bay .. => [(bay, 256)]
  | .deadlineExpiry session .. => [(session, 65536)]
  | .bayGate bay => [(bay, 256)]
  | .bayUngated bay => [(bay, 256)]
  | .partitionFence .. => []
  | .partitionDrain .. => []
  | .partitionStop .. => []
  | .partitionQuiesce .. => []
  | .partitionClear .. => []
  | .partitionReclaim .. => []
  | .partitionSlices .. => []
  | .partitionRaise .. => []
  | .partitionReload .. => []
  | .partitionDone .. => []
  | .partitionResetOvertime .. => []
  | .mgmtFrameRx .. => []
  | .mgmtStatus => []
  | .mgmtResetPartition => []
  | .mgmtResetDevice => []
  | .bringupKeeper .. => []
  | .bringupHub .. => []
  | .hubStageRetry => []
  | .bringupLinks .. => []
  | .bringupEngines .. => []
  | .bringupTopology .. => []
  | .bringupRaising => []
  | .bringupSlices => []
  | .bringupTests .. => []
  | .bringupZero => []
  | .bringupBroadcast .. => []
  | .ucodePacketRx joist packet .. => [(joist, 5376), (packet, 32)]
  | .repairRoundEnd .. => []
  | .bringupReady => []
  | .joistReload joist .. => [(joist, 5376)]
  | .rHello port addr => [(port, 12), (addr, 2 ^ 128)]
  | .rBegin port addr .. => [(port, 12), (addr, 2 ^ 128)]
  | .rData port addr .. => [(port, 12), (addr, 2 ^ 128)]
  | .rEnd port addr .. => [(port, 12), (addr, 2 ^ 128)]
  | .recoverySilence => []
  | .recoveryDatagramRefused port addr => [(port, 12), (addr, 2 ^ 128)]
  | .rocePacketRx .. => []
  | .rdmaWriteRx .. => []
  | .rdmaReadRx .. => []
  | .packetDelivered .. => []
  | .landingArrival .. => []
  | .tallyReturnTimer tenancy peer => [(tenancy, 256), (peer, 1024)]
  | .tallyReturnRx .. => []
  | .ackRx qpn psn => [(qpn, 201326592), (psn, 16777216)]
  | .nakRx qpn psn .. => [(qpn, 201326592), (psn, 16777216)]
  | .ackTimeout qpn => [(qpn, 201326592)]
  | .ackCoalesceTimer qpn => [(qpn, 201326592)]
  | .cnpRx qpn => [(qpn, 201326592)]
  | .cnpRateStep qpn => [(qpn, 201326592)]
  | .pfcXoffRx port priority quanta => [(port, 12), (priority, 8), (quanta, 65536)]
  | .pfcPauseExpiry port priority => [(port, 12), (priority, 8)]
  | .arpRequestRx port .. => [(port, 12)]
  | .arpReplyRx port .. => [(port, 12)]
  | .icmpEchoRx port .. => [(port, 12)]
  | .frameDiscard port .. => [(port, 12)]
  | .lldpSend => []
  | .lldpRx port .. => [(port, 12)]
  | .portLinkUp port => [(port, 12)]
  | .portLinkDown port .. => [(port, 12)]
  | .portTrainRetry port .. => [(port, 12)]
  | .fecRateCheck port .. => [(port, 12)]
  | .laserPoll .. => []
  | .laserModuleFault engine .. => [(engine, 6)]
  | .laserRetry engine .. => [(engine, 6)]
  | .reflectionOpen port => [(port, 12)]
  | .reflectionProbe port .. => [(port, 12)]
  | .linkFlitRx link .. => [(link, 256)]
  | .keeperLinkMessage .. => []
  | .refreshDue joist bank => [(joist, 5376), (bank, 24)]
  | .refreshIssue joist bank => [(joist, 5376), (bank, 24)]
  | .scrubVisit joist bank .. => [(joist, 5376), (bank, 24)]
  | .sramCe1Writeback joist .. => [(joist, 5376)]
  | .ce2CandidateExpiry bent => [(bent, 4)]
  | .remapMramRetry => []
  | .remapCopy joist bank read => [(joist, 5376), (bank, 24), (read.row, 512)]
  | .sensorSample .. => []
  | .bentTripClear bent => [(bent, 4)]
  | .hubTripClear => []
  | .engineTripClear engine .. => [(engine, 6)]
  | .capSample bent .. => [(bent, 4)]
  | .powerMeasure .. => []
  | .lcapLower .. => []
  | .rthUpdate .. => []
  | .pcapUpdate => []
  | .heartbeatTick => []
  | .framerStall => []
  | .randomHealthFail => []
  | .mramQueueFlush => []
  | .refclkLoss .. => []
  | .refclkValid => []
  | .sillPllLoss bent => [(bent, 4)]
  | .sillPllRelock bent .. => [(bent, 4)]
  | .enginePllLoss engine => [(engine, 6)]
  | .pwrokRise => []
  | .pwrokFall => []
  | .rstNAssert => []
  | .vddKeepRemoved => []
  | .enginePllRelock engine .. => [(engine, 6)]
  | .randomHealthRecovered => []
  | .portLightLoss port => [(port, 12)]

/-- Every numbered operand lies in the range of its field. -/
def Instr.wellFormed (i : Instr) : Bool := i.ranges.all (fun x => decide (x.1 < x.2))

/-- The opcode that the catalogue of R371 gives a command's row; events have none. -/
def Instr.opcode : Instr → Option Nat
  | .hello .. => some 0x0001
  | .attest .. => some 0x0002
  | .sessionOpen .. | .sessionOpenEnroll .. | .sessionOpenUnenroll .. => some 0x0003
  | .sessionClose .. => some 0x0004
  | .tenancyCreate .. => some 0x0010
  | .tenancyDestroy .. => some 0x0011
  | .bayDefine .. => some 0x0020
  | .bayRelease .. => some 0x0021
  | .bayArm .. => some 0x0022
  | .programLoad .. => some 0x0030
  | .programUnload .. => some 0x0031
  | .weightsBind .. => some 0x0032
  | .stepRun .. => some 0x0040
  | .seqOpen .. => some 0x0050
  | .seqFork .. => some 0x0051
  | .seqClose .. => some 0x0052
  | .seqReserve .. => some 0x0053
  | .jobBind .. => some 0x0060
  | .configStage .. => some 0x0070
  | .configApply .. => some 0x0071
  | .configCommit .. => some 0x0072
  | .configRead .. => some 0x0073
  | .powerRetain .. => some 0x0080
  | .resetPartition .. => some 0x0081
  | .resetDevice .. => some 0x0082
  | .fwBegin .. => some 0x0090
  | .fwChunk .. => some 0x0091
  | .fwFinish .. => some 0x0092
  | .thermalHint .. => some 0x00A0
  | .coolingBaseline .. => some 0x00A1
  | .statusRead .. => some 0x00B0
  | .logRead .. => some 0x00B1
  | .regRead .. => some 0x00B2
  | .regWrite .. | .forceHotWrite .. | .peakClr .. | .scrubRateWrite .. | .pegMaxWrite .. | .bayTrigClr ..
  | .laserFaultClear .. | .linkDegradedClear .. | .neighMismatchClear .. | .sensorDisagreeClear ..
  | .inletDisagreeClear .. | .pllLossClear .. => some 0x00B3
  | .marginRun .. => some 0x00B4
  | _ => none

/-- The opcodes of the catalogue (R371). -/
def catalogue : List Nat :=
  [0x0001, 0x0002, 0x0003, 0x0004, 0x0010, 0x0011, 0x0020, 0x0021, 0x0022, 0x0030, 0x0031, 0x0032, 0x0040, 0x0050,
   0x0051, 0x0052, 0x0053, 0x0060, 0x0070, 0x0071, 0x0072, 0x0073, 0x0080, 0x0081, 0x0082, 0x0090, 0x0091, 0x0092,
   0x00A0, 0x00A1, 0x00B0, 0x00B1, 0x00B2, 0x00B3, 0x00B4]

end Sys2Proof
end

