-- ==== Sys2Proof/Config.lean ====
section
/-! DEFINITION. The free values: constants without a body, so that nothing can be proved of their values.
Each is named in an assumption log entry. -/

namespace Sys2Proof

/-- A 32-bit value the spec leaves open, one for each draw number (DESIGN CHOICE, log entry 2). -/
opaque Config.freeWord : Nat → BitVec 32

/-- A random value of the true random source (R396), one for each draw number (DESIGN CHOICE, log entry 3). -/
opaque Config.random : Nat → BitVec 256

/-- A number the spec leaves open, one for each draw number (DESIGN CHOICE, log entry 2). -/
opaque Config.freeNat : Nat → Nat

/-- SHA-256 of a list of numbers standing for the digested bytes (DESIGN CHOICE, log entry 4). -/
opaque Config.digest : List Nat → BitVec 256

/-- The identity key, made once inside the keeper (R393), and a signature under it over a digest (R397; DESIGN CHOICE, log entry 4). -/
opaque Config.identityKey : BitVec 256
opaque Config.identitySign : BitVec 256 → BitVec 256 → BitVec 512

/-- ECDSA P-256 (R397): the two values s with which a signature of a given r verifies under a public key over a digest (DESIGN CHOICE, log
entry 4). -/
opaque Config.ecdsaS : BitVec 512 → BitVec 256 → BitVec 256 → Bool → BitVec 256

/-- SHA-256 of the keeper boot ROM contents, fixed per ROM revision (R416; DESIGN CHOICE, log entry 4). -/
opaque Config.romDigest : BitVec 256

/-- SHA-256 of the Efalesque root key in the keeper boot ROM (R393; DESIGN CHOICE, log entry 4). -/
opaque Config.rootDigest : BitVec 256

/-- The certificates of the chain (R395): the device certificate of a serial, a DEV_ID and the identity key's public key, the device CA's
and the root's (DESIGN CHOICE, log entry 4). -/
opaque Config.deviceCert : BitVec 64 → Nat → BitVec 512 → List (BitVec 8)
opaque Config.caCert : List (BitVec 8)
opaque Config.rootCert : List (BitVec 8)

/-- HKDF with SHA-256 (R404, R411, R414): Extract over salt and input key material, Expand to 32 bytes over a key and an info string
(DESIGN CHOICE, log entry 4). -/
opaque Config.hkdfExtract : List Nat → List Nat → BitVec 256
opaque Config.hkdfExpand : BitVec 256 → List Nat → BitVec 256

/-- The public key (X, then Y) of an ephemeral private key, and the ECDH secret of a private and a public key (R397, R404, R414; DESIGN
CHOICE, log entry 4). -/
opaque Config.publicKey : BitVec 256 → BitVec 512
opaque Config.ecdh : BitVec 256 → BitVec 512 → BitVec 256

/-- AES-256-GCM (R406 to R409): the key stream of a key and a nonce, byte by byte, and the tag over additional data and ciphertext (DESIGN
CHOICE, log entry 4). -/
opaque Config.gcmStream : BitVec 256 → List Nat → Nat → BitVec 8
opaque Config.gcmTag : BitVec 256 → List Nat → List Nat → List Nat → BitVec 128

/-- The UDP source port of a queue pair: a hash of the queue pair numbers at both ends (R328; DESIGN CHOICE, log entry 4). -/
opaque Config.portHash : Nat → Nat → BitVec 16

/-- CRC-32C of a list of numbers standing for the checked bytes (R388; DESIGN CHOICE, log entry 4). -/
opaque Config.crc32c : List Nat → BitVec 32

/-- The special functions of R110 away from the special inputs of R80 (DESIGN CHOICE, log entry 5): the function number
and the FP32 argument give the FP32 result, the same on every joist and device (R111). -/
opaque Config.specialFn : Nat → BitVec 32 → BitVec 32

/-- Sine (true) and cosine of an argument reduced modulo 1, in units of 2^-149 of a turn (R80, R110; DESIGN CHOICE, log entry 5). -/
opaque Config.turnFn : Bool → Nat → BitVec 32

/-- The back rotation of a key gradient whose heads have different rotary bases: the sum and the bases, the position and the element give
the value, the same on every joist and under every stripe (R298, R299; DESIGN CHOICE, log entry 47). -/
opaque Config.mixedTurn : List (BitVec 32) → Nat → Nat → BitVec 32

/-- Which of the datums that can stand in a group is left in it by an attention stage's microcode: the shape of the stage's work, the joist's
place in the stripe and the group number give it, the same at every run (R53; DESIGN CHOICE, log entry 90). -/
opaque Config.groupPick : List Nat → Nat → Nat → Nat

/-- The result of a NORM stage for one element: the operands and the element's index (DESIGN CHOICE, log entry 6). -/
opaque Config.normValue : List (BitVec 32) → Nat → BitVec 32

/-- The raw syndrome of a codeword that a decoder reports (R572; DESIGN CHOICE, log entry 7). -/
opaque Config.syndrome : Nat → BitVec 16

/-- The eye openings that training measures, by link and draw (R436; DESIGN CHOICE, log entry 8). -/
opaque Config.eye : Nat → Nat → Nat

/-- What a command's clocks read at a draw, for the time stamps of records that run on a clock of a part
which the model does not advance (DESIGN CHOICE, log entry 2). -/
opaque Config.stamp : Nat → Nat

/-- A joist's vector register word after a vector stage that leaves it open (R84; DESIGN CHOICE, log entry 9). -/
opaque Config.vectorWord : Nat → Nat → BitVec 32

end Sys2Proof
end

