-- ==== Sys2Proof/Machine/State.lean ====
section
/-! DEFINITION. The state of the Gurak as plain data, its reasons to stop, and the state after reset. Field defaults are
the reset values of the register tables; the log entries named in INVENTORY.md give the values the model chose. -/

namespace Sys2Proof.Machine

/-- A part indexed by number: key and value pairs, keys rising, no entry at the part's reset value. -/
abbrev NMap (α : Type) := List (Nat × α)

/-- Reasons for which a step stops with a fault. -/
inductive Fault where
  /-- An event or command names an instance (a port, an engine, a bent) that the fused variant does not have (R2, R4):
  no such event can come about. Raised by the port and engine events. Safe: the machine stops where the hardware has
  nothing that could act. -/
  | absentPart
  deriving DecidableEq, Repr

/-- Reasons for which a step refuses a command. -/
inductive Refusal where
  /-- The command has no meaning in the model yet. Raised by no arm of this model. Safe. -/
  | notModelled (mnemonic : String)
  deriving DecidableEq, Repr

/-! ### Clocks and free values -/

/-- The device's clocks and the count of free values drawn. -/
structure Clk where
  /-- periods of 3.4 GHz since reset: HCLK counts a third of them, the keeper's oscillator one in 136 (R522) -/
  t : Nat := 0
  /-- how many free values have been drawn (the model's own field, DESIGN CHOICE, log entry 2) -/
  draw : Nat := 0
  deriving DecidableEq, Repr

/-! ### Records that leave the device -/

/-- The 16-byte arithmetic summary of R83. -/
structure Summary where
  amax : Option Int := none
  datumFinal : Int := 0
  ovf : Bool := false
  nan : Bool := false
  poison : Bool := false
  realign : Bool := false
  convSat : Bool := false
  replays : Nat := 0
  discards : Nat := 0
  ovfGroups : Nat := 0
  deriving DecidableEq, Repr

/-- The 8-byte bound word of R311. -/
structure Bound where
  void : Nat := 0
  start : Nat := 0
  div : Nat := 2
  swallow : Nat := 0
  hot : Bool := false
  reroute : Bool := false
  awaited : Bool := false
  awaitWait : Nat := 0
  deriving DecidableEq, Repr

/-- The completion record of R367 with its place in the ring (R365). -/
structure Completion where
  session : Nat
  seq : Nat
  opcode : Nat
  status : Status
  tag : Nat := 0
  taken : Nat := 0
  cfgEpoch : Nat := 1
  result : List Nat := []
  truncated : Bool := false
  summary : Option Summary := none
  bound : Option Bound := none
  phase : Bool := true
  entry : Nat := 0
  deriving DecidableEq, Repr

/-- What a completion record reports of a command. -/
structure Verdict where
  status : Status
  result : List Nat := []
  truncated : Bool := false
  summary : Option Summary := none
  bound : Option Bound := none
  epoch : Option Nat := none
  deriving DecidableEq, Repr

/-- What a reply buffer receives (R370). -/
inductive ReplyData where
  | report (r : Report) (chain : List Byte)
  | sessionKeys (eph : BitVec 512) (nonce : BitVec 256) (session : Nat) (sig : BitVec 512)
  | settings (l : List Setting)
  | words (l : List (Nat × Word))
  | rows (l : List (List Nat))
  | keys (l : List Nat)
  deriving DecidableEq, Repr

/-- A packet in the retransmission store (R332): the same bytes are sent again until it is acknowledged. -/
structure TxPkt where
  qpn : Nat
  psn : Nat
  port : Nat
  imm : Option Nat := none
  rkey : Nat := 0
  va : Nat := 0
  data : List Byte := []
  size : Nat := 0
  keyGen : Nat := 0
  counter : Nat := 0
  scribe : Nat := 0
  retries : Nat := 0
  /-- session and SEQ of the reply or record it carries -/
  record : Option (Nat × Nat) := none
  /-- bay, step and stage of the EXCHANGE it serves -/
  step : Option (Nat × Nat × Nat) := none
  /-- it carries part of a sealed object, which the packet does not seal again (R408) -/
  object : Bool := false
  /-- it is a tally return -/
  isReturn : Bool := false
  /-- it is a READ response: its PSN is the request's (R329, R339) -/
  response : Bool := false
  /-- it stands in the device traffic region: a completion record or a tally return (R339) -/
  device : Bool := false
  /-- its BTH opcode (R409) -/
  opcode : Nat := 0x0A
  /-- its payload as it is sent: on a sealed queue pair the seal header, the ciphertext and the tag (R409) -/
  wire : List Byte := []
  deriving DecidableEq, Repr

/-- Everything the device sends or drives, in order. -/
inductive Out where
  | completion (c : Completion)
  | reply (session : Nat) (buf : Reply) (data : ReplyData) (cut : Bool)
  | packet (p : TxPkt)
  | ack (qpn psn : Nat)
  | nak (qpn psn kind : Nat)
  | cnp (qpn : Nat)
  | xoff (port priority : Nat)
  | xon (port priority : Nat)
  | arpReply (port ip : Nat)
  | arpRequest (port ip : Nat)
  | announce (port ip : Nat)
  | icmpReply (port ip id : Nat)
  | lldp (port : Nat) (chassis portId ttl : Nat)
  | mgmtReply (dst : BitVec 48) (port session counter action : Nat) (status : Status) (state flags : Nat) (tag : List Byte)
  | recovery (port addr : Nat) (bytes : List Byte)
  | keeperLink (sealed_ : List Byte)
  | flit (link : Nat) (back : Bool) (data : Flit)
  | flitAck (link : Nat) (back : Bool)
  | flitReplay (link : Nat) (back : Bool) (count : Nat)
  | probe (port : Nat)
  | ucode (link : Nat) (joist : Option Nat) (header payload : List Byte)
  deriving DecidableEq, Repr

/-- The head of a frame that a port has sent: its 802.1Q tag, 0 without one (R351), and for an IP packet its DSCP and ECN bits (R349). -/
structure FrameHead where
  port : Nat
  vlan : Nat
  tos : Option Nat
  deriving DecidableEq, Repr

/-- A frame that waits because its priority is paused (R347), with the counters that it adds to when it goes. -/
structure HeldFrame where
  port : Nat
  counts : List (Nat × Nat)
  frame : Out
  deriving DecidableEq, Repr

/-! ### Keeper: fuses, MRAM, latches, bring-up, recovery -/

/-- The firmware image that a delivered device holds (R416, R421): VERSION 0, LENGTH 736, key 0 with its first byte 0x04, UCODE_LEN 512 at
UCODE_OFF 160, signed (DESIGN CHOICE, log entry 4). -/
def deliveredHeader : List (Nat × Byte) :=
  [(0, 0x41), (1, 0x46), (2, 0x57), (3, 0x31), (8, 0xE0), (9, 0x02), (28, 0xA0), (33, 0x02), (64, 0x04)]
def deliveredSignature : BitVec 256 :=
  Config.ecdsaS 0 (Config.digest ((List.range 672).map (fun i => ((deliveredHeader.lookup i).getD 0).toNat))) 0 false
def deliveredImage : List (Nat × Byte) :=
  deliveredHeader ++ (List.range 32).map (fun i => (704 + i, BitVec.ofNat 8 (deliveredSignature.toNat / 256 ^ (31 - i))))

/-- The fuse array (R454, R455). -/
structure Fuses where
  serial : BitVec 64 := 1
  macBase : BitVec 48 := 0x020000000000
  variant : Nat := 0
  lamEn : BitVec 6 := 0x3F
  oeEn : BitVec 6 := 0x3F
  logicalRows : Nat := 40
  testPortOff : Bool := true
  revoke : BitVec 2 := 0
  fwKey0 : BitVec 256 := Config.digest (4 :: List.replicate 64 0)
  fwKey1 : BitVec 256 := 0
  /-- keys of the joists that the fuses mark defective -/
  defects : List Nat := []
  deriving DecidableEq, Repr

/-- An MRAM event log entry (R573). -/
structure MramEntry where
  time : Nat
  boot : Nat
  code : Nat
  source : Nat
  lost : Nat := 0
  data : List Int := []
  deriving DecidableEq, Repr

/-- A settings record location (R388). -/
structure SettingsRecord where
  sequence : Nat
  epoch : Nat
  fwVersion : Nat
  payload : List Setting
  check : BitVec 32
  commitLo : Nat
  commitHi : Nat
  deriving DecidableEq, Repr

/-- A remap table entry (R235). -/
structure Remap where
  joist : Nat
  bank : Nat
  row : Nat
  spare : Nat
  isDone : Bool
  /-- the MRAM write of step 1 or step 4 of R232 still waits for the temperature window -/
  unwritten : Bool := false
  /-- a peg sequence pinned the row when step 1 was complete: the copy waits for a reset (R232) -/
  atReset : Bool := false
  hadUe : Bool := false
  deriving DecidableEq, Repr

/-- An open firmware update (R425). -/
structure FwUpdate where
  session : Nat
  length : Nat
  version : Nat
  digest : BitVec 256
  deriving DecidableEq, Repr

/-- A firmware image as the keeper knows it (R421, R423). -/
structure FwImage where
  version : Nat := 0
  sha : BitVec 256 := 0
  ucodeSha : BitVec 256 := 0
  ucodeLen : Nat := 512
  deriving DecidableEq, Repr

/-- Margin results of one bank (R172, R173). -/
structure MarginRec where
  pjoist : Nat
  bank : Nat
  marginal : Bool
  failed : Bool
  badSpare : Bool
  tLow : Int
  tHigh : Int
  vLow : Int
  vHigh : Int
  deriving DecidableEq, Repr

/-- The margin record of a bent (R173). -/
structure MarginRecord where
  result : Nat := 0
  /-- the joists tested, by physical index rising, and how many banks each has -/
  tested : List Nat := []
  banks : Nat := 0
  vCeil : Int := 0
  stamp : Nat := 0
  /-- the banks that did not pass at every point -/
  entries : List MarginRec := []
  deriving DecidableEq, Repr

/-- The retention record of R452. -/
structure Retention where
  retired : List (Nat × Nat)
  writtenAt : Nat
  tripSince : Bool := false
  /-- laminations that the slice check found absent, 8 × bent + n -/
  absentLams : List Nat := []
  /-- strobe setting and flags of every bank, and the margin records -/
  strobe : NMap Int := []
  badSpares : List (Nat × Nat) := []
  margin : NMap MarginRecord := []
  /-- the equalisation of the die-to-die links, the calibration of the engines, the repaired rows of hub SRAM -/
  equal : NMap Nat := []
  calib : NMap Nat := []
  hubRepairs : List Nat := []
  deriving DecidableEq, Repr

/-- A recovery transfer (R428). -/
structure Transfer where
  /-- the address it is taken from; none once its restriction has ended -/
  addr : Option Nat
  length : Nat
  version : Nat
  digest : BitVec 256
  deriving DecidableEq, Repr

/-- The state of recovery (R426 to R428). -/
structure Recovery where
  reason : Nat
  challenge : Option (BitVec 128) := none
  transfer : Option Transfer := none
  deriving DecidableEq, Repr

/-- The microcode broadcast in progress (R446 to R449). -/
structure Broadcast where
  active : Bool := false
  fixed : Bool := false
  round : Nat := 0
  /-- joists still missing packets, with the packets missing -/
  missing : List (Nat × BitVec 32) := []
  deriving DecidableEq, Repr

/-- The keeper die: fuses, key storage, MRAM, keeper SRAM and the always-on latches, with the bring-up it conducts. -/
structure Keeper where
  fuses : Fuses := {}
  /-- DEV_ID, FUSE_MAP, serial and MAC registers have been loaded (R554) -/
  loaded : Bool := false
  /-- BOOT, and its value in MRAM, which waits for the temperature window (R422, R573) -/
  boots : Nat := 0
  bootsStored : Nat := 0
  log : List MramEntry := []
  logQueue : List MramEntry := []
  logLost : Nat := 0
  records : NMap (Option SettingsRecord) := []
  remaps : List Remap := []
  tenantData : NMap Bool := []
  operatorKey : Option (BitVec 512) := none
  fwCounter : Nat := 0
  commitLo : Nat := 0
  commitHi : Nat := 0xFFFFFFFF
  /-- the image region of MRAM -/
  imageBytes : NMap Byte := deliveredImage
  running : FwImage := {}
  update : Option FwUpdate := none
  /-- the cooling baseline, and the inlet, flow and keeper time it was taken at (R514) -/
  baseline : Nat := 0
  baseInlet : Int := 0
  baseFlow : Nat := 0
  baseAt : Nat := 0
  /-- thermal cycle totals of the bents in MRAM (R511) and the counts queued in keeper SRAM (R422) -/
  cycleTotals : NMap Nat := []
  cyclesQueued : NMap Nat := []
  coolantLoss : Bool := false
  keeperTrip : Bool := false
  randomOk : Bool := true
  linkKey : BitVec 256 := 0
  /-- messages sent under the link key (R394) -/
  linkCount : Nat := 0
  /-- the identity key, and the digest of the Efalesque root in the boot ROM (R393) -/
  identityKey : BitVec 256 := Config.identityKey
  rootHash : BitVec 256 := Config.rootDigest
  /-- hub SRAM rows that its self-test replaced (R433) -/
  hubRepairs : List Nat := []
  framerStall : Bool := false
  retention : Option Retention := none
  /-- the keeper time of the last management frame taken on each port (R472) -/
  mgmtTaken : NMap Nat := []
  /-- management frames accepted and not yet acted on, oldest first -/
  mgmt : List MgmtFrame := []
  recovery : Option Recovery := none
  afterRecovery : Bool := false
  /-- RAISE_STATUS STATE (R458) -/
  stage : Nat := 0
  /-- bring-up runs: T0 has come and no stop has been met -/
  raising : Bool := false
  coldStart : Bool := true
  fastPath : Bool := false
  retRejected : Bool := false
  fullTests : Bool := false
  bootMs : Nat := 0
  /-- the ACLK count at READY or at the stop (R441) -/
  bootStamp : Nat := 0
  t0 : Nat := 0
  hubHeld : Bool := true
  faultKind : Nat := 0
  faultIndex : Nat := 0
  bcast : Broadcast := {}
  /-- joists retired for this boot, with CAUSE of JOIST_STATE (R561) -/
  retired : List (Nat × Nat) := []
  /-- JOIST_STATE shows the assignment: READY has fixed the remap (R8, R561) -/
  remapFixed : Bool := false
  /-- joists that could not be used when READY fixed the remap -/
  hidden : List Nat := []
  deriving DecidableEq, Repr

/-! ### Configuration -/

/-- A CONFIG_APPLY that drains bays (R385): its TIMEOUT in ms and the set it checked. -/
structure Applying where
  cx : Cmd
  timeout : Nat
  settings : List Setting
  deriving DecidableEq, Repr

/-- Settings in force, staged and scheduled (R383 to R392). -/
structure Cfg where
  epoch : Nat := 1
  /-- settings in force that differ from the factory default, keyed by their ID -/
  inForce : NMap (Option (List Nat)) := []
  staged : List Setting := []
  applying : Option Applying := none
  /-- Boundary settings waiting for a bay: bay, epoch and settings (R385) -/
  scheduled : List (Nat × Nat × List Setting) := []
  defaulted : Bool := false
  fallback : Bool := false
  skipped : Bool := false
  location : Nat := 0
  sequence : Nat := 0
  deriving DecidableEq, Repr

/-! ### Sessions and tenancies -/

/-- A completion ring in host memory (R364, R365). -/
structure Ring where
  va : Nat := 0
  key : Nat := 0
  entries : Nat := 0
  next : Nat := 0
  phase : Bool := true
  deriving DecidableEq, Repr

/-- A session (R358); the pre-session slot is the session numbered 0xFFFF. -/
structure Session where
  mailbox : Nat
  slotFirst : Nat := 0
  slotCount : Nat := 1
  isSealed : Bool := false
  /-- the SEQ expected next (R361) -/
  expect : Nat := 1
  taken : Nat := 0
  done : Nat := 0
  mbxOrder : Nat := 0
  lost : Nat := 0
  ring : Ring := {}
  ports : BitVec 12 := 0
  hostQpn : Nat := 0
  hostPsn : Nat := 0
  hostIp : Nat := 0
  devQpn : Nat := 0
  devPsn : Nat := 0
  windowKey : Nat := 0
  /-- the session keys K_cmd and K_cpl (R393, R404); K_h2d and K_d2h stand with its queue pairs -/
  kCmd : BitVec 256 := 0
  kCpl : BitVec 256 := 0
  /-- sealed objects counted in the key's current generation (R408, R411) -/
  objects : Nat := 0
  objGen : Nat := 0
  /-- last COUNTER the keeper accepted (R472) -/
  mgmtCounter : Nat := 0
  deriving DecidableEq, Repr

/-- A command that the framer has taken and not yet completed (R361, R372). -/
structure Taken where
  session : Nat
  seq : Nat
  opcode : Nat
  tag : Nat
  deadline : Nat
  at_ : Nat
  /-- the port on which it arrived (R366) -/
  port : Nat := 0
  deriving DecidableEq, Repr

/-- The framer's own copy of a slot (R361), with the port it arrived on. -/
structure SlotCopy where
  mailbox : Nat
  slot : Nat
  port : Nat
  bytes : List Byte
  found : List Finding := []
  named : List Named := []
  deriving DecidableEq, Repr

/-- The framer's side of the command interface, and the hub's slot memory. -/
structure Qci where
  /-- the slots of the mailboxes, by mailbox × 16,384 + address (R356) -/
  slots : NMap Byte := []
  /-- the slots whose COMMIT has been written and which the framer has not looked at since: mailbox, slot and port (R361) -/
  commits : List (Nat × Nat × Nat) := []
  sessions : NMap (Option Session) := []
  taken : List Taken := []
  /-- the first slot of a TWO_SLOT command waiting for its second (R362) -/
  half : NMap (Option SlotCopy) := []
  /-- HEARTBEAT FRAMER and JIG (R463) -/
  framer : Nat := 0
  /-- completions that wait for a framer that hangs (R488) -/
  waiting : List (Cmd × Nat × Verdict) := []
  jigBeat : Nat := 0
  framerHalted : Bool := false
  /-- the status window snapshot: SNAP, STAMP and the words that are not zero (R565 to R568) -/
  snap : Nat := 0
  snapStamp : Nat := 0
  window : NMap Word := []
  /-- tenancy of each bay and mailbox of each session entry when the snapshot was written -/
  winBays : List (Nat × Nat) := []
  winSessions : List (Nat × Nat × List Word) := []
  winTaken : Bool := false
  /-- high words latched by reads of their low words, by the high word's address (R549) -/
  latch : NMap (Option Word) := []
  deriving DecidableEq, Repr

/-- A tenancy (R373, R398). -/
structure Tenancy where
  hangMode : Nat
  bentMask : Nat
  maxBays : Nat
  ownerKey : BitVec 512
  windowKey : Nat
  destroying : Option Cmd := none
  deriving DecidableEq, Repr

/-! ### Bays, windows, sequences, steps -/

/-- A landing window of a bay (R334, R577). -/
structure Landing where
  benchOff : Nat
  extent : Nat
  nonce : Nat
  /-- the session that created it, for which its key is valid (R334) -/
  session : Nat := 0
  deriving DecidableEq, Repr

/-- A slice window of a tenancy (R334). -/
structure SliceWin where
  bay : Nat
  canWrite : Bool
  canRead : Bool
  addr : Nat
  extent : Nat
  nonce : Nat
  /-- the session that bound it, for which its key is valid (R334) -/
  session : Nat := 0
  halted : Bool := false
  deriving DecidableEq, Repr

/-- Routes between dies as a bay has adopted them: the bents between bent a and bent b, at 4a + b; those between bent b and the
hub; and whether any stands under R26. -/
structure Routes where
  between : List (List Nat) := []
  toHub : List (List Nat) := []
  rerouted : Bool := false
  deriving DecidableEq, Repr

/-- A defined bay (R237) with its program, windows, triggering and progress. -/
structure Bay where
  tenancy : Nat
  session : Nat
  bentMask : Nat
  c0 : Nat
  r0 : Nat
  w : Nat
  h : Nat
  reserved : Bool
  pageTokens : Nat
  pageFirst : Nat
  pageCount : Nat
  ptBase : Nat
  seqSlots : Nat
  tableLen : Nat
  epoch : Nat := 1
  program : Option Image := none
  unbounded : List Nat := []
  landing : NMap (Option Landing) := []
  /-- arrival counts by jig sequence count and landing window (R338) -/
  arrivals : NMap Nat := []
  trigOn : Bool := false
  trigWindow : Nat := 0
  matched : Nat := 0
  unmatched : Nat := 0
  /-- BAY_PROGRESS (R464) -/
  stage : Nat := 0xFFFF
  ends : Nat := 0
  jigNext : Nat := 1
  waits : Nat := 0
  dmaHalted : Bool := false
  gated : Bool := false
  ungating : Bool := false
  /-- the routes that the bay has adopted at its last boundary (R23, R26) -/
  routes : Routes := {}
  /-- the PEG_MAX of each bent that the bay has adopted at its last boundary (R202, R383) -/
  pegMax : NMap Nat := []
  /-- the DSCP of tally data by port, where the bay has not yet adopted the one in force (R383) -/
  tallyDscp : NMap (Option Nat) := []
  /-- GEN of each record of the page-table region (R244) -/
  gens : NMap Nat := []
  deriving DecidableEq, Repr

/-- Bays and windows of all tenancies. -/
structure Bays where
  bays : NMap (Option Bay) := []
  slices : NMap (Option SliceWin) := []
  /-- landing keys that no bind issues again: bay, window, tenancy for whose peer queue pairs they are retired, and the bents
  that the bay had (R479, R574) -/
  retired : List (Nat × Nat × Nat × Nat) := []
  /-- keys of landing and slice windows that went with their bays and that no later bind issues again (R239) -/
  deadKeys : List Nat := []
  deriving DecidableEq, Repr

/-- A sequence (R244, R249). -/
structure SeqRec where
  bay : Nat
  slot : Nat
  isOpen : Bool := true
  length : Nat := 0
  entries : List Nat := []
  reserve : List Nat := []
  gen : Nat := 0
  /-- valid entries: PAGES (R244); entries beyond it are admitted and not committed -/
  pages : Nat := 0
  deriving DecidableEq, Repr

/-- The page rack (R240 to R254). -/
structure Rack where
  seqs : NMap (Option SeqRec) := []
  /-- owner and pin counts by bay × 512 + page (R246) -/
  owner : NMap Nat := []
  pin : NMap Nat := []
  deriving DecidableEq, Repr

/-- Where a step stands in the jig (R255, R263). -/
inductive StepPhase where
  | queued | admitted | armed | latched | running
  deriving DecidableEq, Repr

/-- What admission took for a step (R258, R294). -/
structure Grant where
  planned : List (Nat × Nat) := []
  /-- page sets added: sequence and page -/
  added : List (Nat × Nat) := []
  /-- copy-on-write: sequence, source, target, copied -/
  cows : List (Nat × Nat × Nat × Bool) := []
  staging : List Nat := []
  deriving DecidableEq, Repr

/-- A device level that a REDUCE or CULL still waits for, with the result gathered so far (R123); the groups of a sum stay in
the root's joist. -/
structure DeviceWait where
  level : Nat
  /-- the result has gone up, and under TO_ALL the outputs are awaited (R130) -/
  back : Bool := false
  /-- groups of a sum that have merged at this level -/
  merged : List Nat := []
  vector : List (BitVec 32) := []
  lists : List (Nat × List (BitVec 32 × Nat)) := []
  deriving DecidableEq, Repr

/-- A stage that has started and not ended (R575). -/
structure Active where
  ix : Nat
  status : Status := .ok
  summary : Summary := {}
  /-- its work is finished; STAGE_END may end it -/
  finished : Bool := true
  replays : Nat := 0
  raise : Int := 0
  device : Option DeviceWait := none
  /-- its packets wait for tally credits (R343) -/
  posting : Bool := false
  /-- it waits for landing data, an AWAIT or a device level, since startedAt (R311) -/
  waiting : Bool := false
  startedAt : Nat := 0
  deriving DecidableEq, Repr

/-- A step in the jig (R255 to R266, R575). -/
structure Step where
  id : Nat
  bay : Nat
  cx : Cmd
  prio : Nat
  arm : Option Nat
  table : List LtEntry
  jigSeq : Nat
  admitTimeout : Nat
  phase : StepPhase := .queued
  /-- the last admission attempt failed for want of page sets (R259) -/
  lackedPages : Bool := false
  grant : Grant := {}
  /-- stages that have started; the next to start in descriptor order -/
  nextIx : Nat := 0
  active : List Active := []
  /-- stages that ended: index, status, summary -/
  ended : List (Nat × Status × Summary) := []
  /-- a stage ended with a status that ends the step (R575) -/
  stopping : Bool := false
  startedAt : Nat := 0
  startKind : Nat := 0
  /-- page sets pinned: stage, sequence, page (R246) -/
  pins : List (Nat × Nat × Nat) := []
  peerFenced : Bool := false
  /-- its stages an EXCHANGE of which drew a fence refusal (R126) -/
  fencedStages : List Nat := []
  void : List Nat := []
  hot : Bool := false
  reroute : Bool := false
  awaited : Bool := false
  awaitWait : Nat := 0
  level : Nat := 0
  /-- place of the latched trigger in the order of arrival (R261) -/
  trigAt : Nat := 0
  /-- the configuration epoch that its bay held at its start (R367) -/
  epoch : Nat := 0
  deriving DecidableEq, Repr

/-- The jig (R255). -/
structure Jig where
  steps : List Step := []
  /-- copies of page sets that outlive their step: bay, source, target (R260) -/
  orphans : List (Nat × Nat × Nat) := []
  nextId : Nat := 0
  nextTrig : Nat := 0
  deriving DecidableEq, Repr

/-! ### Joists -/

/-- An accumulation group (R42, R81, R82): sixteen 96-bit accumulators as integers in units of 2^datum. -/
structure Group where
  datum : Int := 0
  isOpen : Bool := false
  nan : Bool := false
  poison : Bool := false
  ovf : Bool := false
  realign : Bool := false
  convSat : Bool := false
  discard : Nat := 0
  amax : Option Int := none
  acc : List Int := []
  deriving DecidableEq, Repr

/-- What the tile registers of a truss hold: for each cell column the operands in its four rows, weights of one output column or, in stream
mode, part of one activation vector (R86 to R88, R105); a gated column holds none. -/
abbrev Tile := List (List Operand)

/-- A truss (R86 to R91, R95): its active and shadow tiles, and for each column the first halves of blocks that wait for their second. The
spec gives these no reset value: the model has them empty (DESIGN CHOICE, log entry 1). -/
structure Truss where
  active : Tile := []
  shadow : Tile := []
  half : List (List (Bool × Val)) := []
  deriving DecidableEq, Repr

/-- A peg (R175): its place in the list, its segment, its flags, its broadcast registers and statistics copies, and the 512-byte
buffers of its last row operations; bytes that none has filled are not listed. -/
structure Peg where
  busy : Bool := false
  ip : Nat := 0
  inSegment : Bool := false
  /-- its segment waits for the active limit (R201) -/
  waiting : Bool := false
  bregs : List (BitVec 32) := []
  stats : NMap Group := []
  /-- a segment that the device itself issues waits in the bank (R199, R209) -/
  held : Bool := false
  /-- its flags: a conversion saturated, a NaN or infinity in an output, an input that could not be corrected -/
  convSat : Bool := false
  nan : Bool := false
  poison : Bool := false
  bufA : List Byte := []
  bufB : List Byte := []
  bufC : List Byte := []
  bufOut : List Byte := []
  deriving DecidableEq, Repr

/-- A slice cache line (R159 to R161): its address, dirty and protected; the list is in order of use, oldest first. -/
structure CacheLine where
  joist : Nat
  addr : Nat
  dirty : Bool
  isProtected : Bool
  deriving DecidableEq, Repr

/-- One joist's registers and queues outside its memories (R84). -/
structure Joist where
  feedHold : Nat := 0
  drainHold : Nat := 0
  pegHalted : Bool := false
  /-- the peg list in the peg list memory (R193) -/
  pegList : List PegInstr := []
  pegBay : Nat := 0
  pegStage : Nat := 0
  /-- the banks that the list runs in, and whether a first segment of it has started (R193, R212) -/
  pegBanks : List Nat := []
  pegBegun : Bool := false
  /-- the bank whose peg last started a segment (R201) -/
  lastBank : Nat := 23
  /-- arrived images, vectors and lists waiting in the brace inbox: at most 8 (R119) -/
  inbox : List Arrival := []
  /-- trusses 0 to 3 (R84) -/
  trusses : List Truss := List.replicate 4 {}
  /-- group images waiting in the close buffer (R94) -/
  closeBuf : List Group := []
  /-- the draw that stands for the vector registers' contents; 0 is all zero (DESIGN CHOICE, log entry 9) -/
  vregs : Nat := 0
  /-- microcode packets present, and complete (R447, R448) -/
  ucode : BitVec 32 := 0
  ucodeOk : Bool := false
  /-- an instruction fetch failed and the joist waits for its reload (R219) -/
  needsReload : Bool := false
  /-- repair rounds of its reload that have begun (R449, R451) -/
  reloadRound : Nat := 0
  touchedBy : Option Nat := none
  deriving DecidableEq, Repr

/-- All joists, groups, pegs and slice caches. Keys: joist = bent × 1,344 + physical index; group = joist × 8 + g;
peg and bank = joist × 32 + bank index. -/
structure Joists where
  joists : NMap Joist := []
  groups : NMap Group := []
  pegs : NMap Peg := []
  cache : List CacheLine := []
  /-- capture counters of an observed stage by joist × 32 + item (R139) -/
  capture : NMap Nat := []
  deriving DecidableEq, Repr

/-! ### Memories -/

/-- Benches and slices, byte by byte, and the marks of the other SRAMs. A bench byte's key is joist × 262,144 + offset; a slice byte's key is
joist × 8,388,608 + slice address. Marks name the 8-byte units that hold an uncorrectable error: 1 UE, 2 poison. -/
structure Mem where
  bench : List Host.Cell := []
  slice : List Host.Cell := []
  benchMark : NMap Nat := []
  sliceMark : NMap Nat := []
  /-- physical rows that no slice address reaches: spares without a remap, and rows that a remap has replaced (R211, R226), by
  (joist × 24 + bank) × 528 + row position: their bytes, 512 a row, and the marks of their codewords, 64 a row -/
  hidden : List Host.Cell := []
  hiddenMark : NMap Nat := []
  /-- marked words of instruction caches, peg buffers and framer SRAM (R213), by (joist × 64 + unit) × 2^24 + word -/
  sramMark : NMap Nat := []
  /-- slice codewords in which a peg read has corrected two bits (CE2) and that wait to be written back (R217), by slice unit -/
  ce2Queue : List Nat := []
  /-- rows touched for a tenancy, by (joist × 24 + bank) × 512 + row (R417) -/
  touched : NMap Bool := []
  deriving DecidableEq, Repr

/-- One bank's refresh state (R164 to R167). -/
structure BankRefresh where
  pointer : Nat := 0
  commands : Nat := 0
  /-- a refresh is due and has not issued -/
  due : Bool := false
  postponed : Nat := 0
  deriving DecidableEq, Repr

/-- An ECC log entry (R224). -/
structure EccEntry where
  stamp : Nat
  pjoist : Nat
  unit : Nat
  kind : Nat
  src : Nat
  row : Nat
  cw : Nat
  syndrome : BitVec 16
  deriving DecidableEq, Repr

/-- An ECC log of a bent or of the hub (R224, R225). -/
structure EccLog where
  entries : List EccEntry := []
  head : Nat := 0
  wrapped : Bool := false
  lost : Nat := 0
  deriving DecidableEq, Repr

/-- Corrected-error counters of one instance (R222). -/
structure CeCount where
  ce1 : Nat := 0
  ce2 : Nat := 0
  deriving DecidableEq, Repr

/-- Uncorrectable-error counters of one instance (R223). -/
structure UeCount where
  ue : Nat := 0
  poisonRd : Nat := 0
  deriving DecidableEq, Repr

/-- A CE2 candidate (R230). -/
structure Candidate where
  joist : Nat
  bank : Nat
  row : Nat
  time : Nat
  deriving DecidableEq, Repr

/-- Stored-data protection: counters, logs, candidates, scrub pointers, margining. Keys of per-bank items are
joist × 32 + bank; instance 24 covers the joist's SRAMs. Log 4 is the hub's. -/
structure Ecc where
  ce : NMap CeCount := []
  ue : NMap UeCount := []
  logs : NMap EccLog := []
  candidates : NMap (List Candidate) := []
  /-- the scrub pointer of each bank (R226) -/
  scrub : NMap Nat := []
  /-- corrected SRAM words waiting to be written back: joist, unit, word (R218) -/
  writebacks : List (Nat × Nat × Nat) := []
  margin : NMap MarginRecord := []
  /-- strobe setting of each bank, and spare rows marked unusable (R172) -/
  strobe : NMap Int := []
  badSpares : List (Nat × Nat) := []
  /-- banks whose row found the remap table full: SPARES_OUT (R231) -/
  sparesOut : List Nat := []
  deriving DecidableEq, Repr

/-! ### Bents and links -/

/-- One bent's common registers and conditions. -/
structure Bent where
  /-- REFRESH_MODE (R169) -/
  hot : Bool := false
  coolSamples : Nat := 0
  forceHot : Bool := false
  postponePeak : Nat := 0
  forced : Nat := 0
  /-- SCRUB_RATE (R227) -/
  rate : Nat := 1
  passes : Nat := 0
  /-- PEG_CTL (R202) -/
  pegMax : Nat := 8
  pegEff : Nat := 8
  /-- the PEG_MAX that PEG_EFF follows: the one last adopted in the bent (R202) -/
  pegIn : Nat := 8
  limitWaits : Nat := 0
  /-- throttling (R502 to R504, R545) -/
  lTherm : Nat := 0
  coolRun : Nat := 0
  stopped : Bool := true
  /-- the ACLK branch of its transit domain runs (R28, R30) -/
  transit : Bool := false
  /-- joist ACLK cycles counted, in 1/960 of a cycle -/
  aclk : Nat := 0
  /-- thermal readings in 1/16 °C (R516, R517) -/
  sillT : Int := 0
  lamT : Int := 0
  capT : Int := 0
  cycLow : Option Int := none
  cycHigh : Option Int := none
  tripped : Bool := false
  /-- SCRIBE (R482) -/
  scribeEpoch : Nat := 1
  isFenced : Bool := false
  /-- the throttle level at FENCE, which the bent keeps until DONE (R485) -/
  heldLevel : Option Nat := none
  resets : Nat := 0
  stale : Nat := 0
  /-- bring-up and service (R441, R450, R457) -/
  sillPresent : Bool := true
  up : Bool := false
  sillLock : Bool := false
  inSelfRefresh : Bool := false
  refreshOn : Bool := false
  degraded : Bool := false
  outOfService : Bool := false
  rows : Nat := 0
  selfTestRetired : Nat := 0
  absentLams : List Nat := []
  margining : Option Cmd := none
  /-- the fall in A/µs at which the ballast releases the current of the last stop (R528); 0: none -/
  ballast : Nat := 0
  deriving DecidableEq, Repr

/-- One direction of a die-to-die link: its replay buffer of at most 48 flits sent and not acknowledged, oldest first (R24), and
the flits that wait for room in it. -/
structure LinkEnd where
  held : List Flit := []
  queue : List Flit := []
  deriving DecidableEq, Repr

/-- A die-to-die link (R22 to R25, R436): 0 in service, 1 failed, 2 retired, 3 absent. -/
structure Link where
  state : Nat := 3
  /-- its two directions: from the lower-numbered bent, or the bent to the hub; and back (R22) -/
  fwd : LinkEnd := {}
  rev : LinkEnd := {}
  /-- keeper times of the replays in the window (R25) -/
  replays : List Nat := []
  hEye : Nat := 0
  vEye : Nat := 0
  worstLane : Nat := 0
  /-- its lanes' equalisation, as one number (R437, R452) -/
  equal : Nat := 0
  deriving DecidableEq, Repr

/-! ### Network -/

/-- One Ethernet port (R353, R354). -/
structure Port where
  link : Nat := 0
  laneSignal : BitVec 4 := 0
  lightOff : Bool := false
  laserFault : Bool := false
  linkDegraded : Bool := false
  neighMismatch : Bool := false
  /-- priorities on which the partner's XOFF is in force -/
  paused : List Nat := []
  /-- priorities on which this device has sent XOFF -/
  xoffSent : List Nat := []
  linkDowns : Nat := 0
  /-- 64-bit counters by their register offset (R558) -/
  counters : NMap Nat := []
  neighbour : Option LldpFrame := none
  neighbourAt : Nat := 0
  neigh : Nat := 0
  /-- resolved partner addresses: IP and MAC -/
  arp : List (Nat × Nat) := []
  icmpFrom : Nat := 0
  icmpCount : Nat := 0
  /-- the latched partner of the bootstrap queue pair (R357) -/
  bootPeer : Option Nat := none
  /-- consecutive probes that found the connector mated (R319) -/
  mated : Nat := 0
  /-- the port receives light (R539) -/
  lit : Bool := false
  deriving DecidableEq, Repr

/-- One optical engine (R315 to R319, R559). -/
structure Engine where
  state : Nat := 3
  lanes : BitVec 8 := 0
  laserPresent : Bool := false
  laserOn : Bool := false
  laserFault : Bool := false
  /-- its module was removed and has not been found since (R318, R353) -/
  removed : Bool := false
  laserFaults : Nat := 0
  /-- its calibration values, as one number (R438, R452) -/
  calib : Nat := 0
  /-- the module's last readings (R317) -/
  module : Option LaserReading := none
  pllLock : Bool := false
  tripped : Bool := false
  temp : Int := 0
  /-- the eye openings of the worst hub lane (R441) -/
  hEye : Nat := 0
  vEye : Nat := 0
  deriving DecidableEq, Repr

/-- What put a queue pair in error (R480). -/
inductive QpErr where
  | none | topology | fenced | access | retries | sessionEnded
  deriving DecidableEq, Repr

/-- A queue pair (R328): of a host session, of a peer binding, or the bootstrap one. -/
structure Qp where
  port : Nat
  session : Option Nat := none
  /-- tenancy and peer table entry of a peer queue pair -/
  peer : Option (Nat × Nat) := none
  isSealed : Bool := false
  rxPsn : Nat := 0
  txPsn : Nat := 0
  err : QpErr := .none
  /-- receive key generation, and the last COUNTER accepted of the current, next and previous generation, plus one -/
  rxGen : Nat := 0
  rxCount : NMap Nat := []
  txGen : Nat := 0
  txCount : Nat := 0
  /-- the keys it receives and sends under, of the current generations (R393, R411), and the previous receive key while it is kept -/
  rxKey : BitVec 256 := 0
  rxOld : BitVec 256 := 0
  txKey : BitVec 256 := 0
  /-- path MTU (R328, R352) -/
  pmtu : Nat := 4096
  /-- n of its local ACK timeout of 4.096 µs × 2^n, its retry count, and its UDP source port (R328) -/
  ackTimeout : Nat := 8
  retryCount : Nat := 7
  srcPort : BitVec 16 := 0
  /-- the queue pair number at the other end -/
  remote : Nat := 0
  /-- packets received and not yet acknowledged (R328) -/
  unacked : Nat := 0
  /-- sending rate in Mbit/s and the congestion state of R350 -/
  rate : Nat := 800000
  cnpAt : Option Nat := none
  cnpSentAt : Option Nat := none
  cnpRuns : Nat := 0
  stepRate : Nat := 5000
  deriving DecidableEq, Repr

/-- A received packet in packet SRAM (R329, R339): where it goes, and how far it has come. -/
structure RxPkt where
  id : Nat
  pkt : Pkt
  cells : Nat := 0
  /-- it stands in the headroom of its port and priority (R347) -/
  headroom : Bool := false
  /-- a READ that came again: its PSN is no longer expected (R329) -/
  again : Bool := false
  placed : Bool := false
  /-- its immediate has been acted on; it has been acknowledged -/
  counted : Bool := false
  acked : Bool := false
  /-- bents it is bound for -/
  bents : List Nat := []
  deriving DecidableEq, Repr

/-- One peer of a binding, with its tally (R341 to R345). -/
structure Peer where
  entry : PeerEntry
  qpn : Nat
  /-- cells sent, returned by the peer, freed for the peer (R343, R344) -/
  sent : Nat := 0
  returned : Nat := 0
  freed : Nat := 0
  freedReturned : Nat := 0
  stalled : Bool := false
  /-- how many of the held packets have counted as held for credits (R355) -/
  counted : Nat := 0
  waits : Nat := 0
  heldPkts : List TxPkt := []
  peerEpoch : Nat := 0
  /-- the peer's PH1 (R413) -/
  ph1 : List Byte := []
  peerGrant : Nat := 0
  gotPh1 : Bool := false
  gotPh2 : Bool := false
  /-- the ephemeral private key and the nonce of this end, and the peer keys toward the peer and from it (R413, R414) -/
  eph : BitVec 256 := 0
  nonce : BitVec 256 := 0
  keyOut : BitVec 256 := 0
  keyIn : BitVec 256 := 0
  deriving DecidableEq, Repr

/-- A job binding of a tenancy (R326, R341, R375); in progress it waits for LLDP (1) or the handshake (2). -/
structure Job where
  cx : Cmd
  phase : Nat := 0
  epoch : Nat
  scribeMode : Bool
  size : Nat
  creditBase : Nat
  peers : List Peer
  deriving DecidableEq, Repr

/-- An entry of the device event log that R125 and R338 name; R573 gives it no code in MRAM (DESIGN CHOICE, log entry 44). -/
inductive DevEvent where
  | image (bay stage level step : Nat)
  | immediate (bay window imm : Nat)
  deriving DecidableEq, Repr

/-- The hub's network side. -/
structure Net where
  ports : NMap Port := []
  engines : NMap Engine := []
  qps : NMap (Option Qp) := []
  nextQpn : Nat := 0x000100
  rx : List RxPkt := []
  nextRx : Nat := 0
  /-- the retransmission store and the records and returns of the device traffic region (R332, R339) -/
  store : List TxPkt := []
  /-- packets that wait until the store or the region has room, oldest first (R340) -/
  waiting : List TxPkt := []
  /-- frames that wait while their priority is paused (R347) -/
  held : List HeldFrame := []
  /-- the heads of the frames sent, in the order in which they went -/
  heads : List FrameHead := []
  /-- job bindings in force and in progress, by tenancy -/
  jobs : NMap (Option Job) := []
  binding : NMap (Option Job) := []
  /-- JOB_EPOCH (R477, R556) -/
  jobEpoch : Nat := 1
  /-- discarded images and immediates (R125, R338) -/
  events : List DevEvent := []
  deriving DecidableEq, Repr

/-! ### Temperature and power -/

/-- One sensor site's state (R493, R494). -/
structure Site where
  a : Int := 0
  b : Int := 0
  brokenA : Bool := false
  brokenB : Bool := false
  sameA : Nat := 0
  sameB : Nat := 0
  /-- the rail power at the last samples, newest first, at most 256 -/
  powers : List Nat := []
  apart : Nat := 0
  together : Nat := 0
  disagree : Bool := false
  /-- the last four cap readings, newest first (R508) -/
  history : List Int := []
  steep : Nat := 0
  deriving DecidableEq, Repr

/-- A THERMAL_HINT in force (R513). -/
structure Hint where
  inlet : Int
  flow : Nat
  until_ : Nat
  deriving DecidableEq, Repr

/-- Sensors, thermal flags and the power manager. -/
structure Therm where
  sites : NMap Site := []
  /-- site interval class of each group: 0 500 µs, 1 62.5 µs, 2 15.6 µs (R496); groups 0 to 3 are the bents -/
  interval : NMap Nat := []
  hubT : Int := 0
  keeperT : Int := 0
  sensorBroken : Bool := false
  sensorDisagree : Bool := false
  coolingDegraded : Bool := false
  inletDisagree : Bool := false
  hint : Option Hint := none
  thermistor : Int := 0
  /-- R in 1/65,536 °C/W, and in 1/2,000 of that (RTH_EST, R506, R519) -/
  rth : Nat := 0x08F6
  rthFrac : Nat := 0
  /-- the 10 ms averages of the last updates of R without a gap, newest first, at most 10,000: 5 s (R514) -/
  rthWatts : List Nat := []
  pcap : Nat := 2000
  pcapSource : Nat := 1
  p10ms : Nat := 0
  lCap : Nat := 0
  lFc : Nat := 0
  /-- 10 ms averages seen while no stage ran, with their times in µs: rising, so that the first of the last second is the
  smallest (R510) -/
  idleAvg : List (Nat × Nat) := []
  hubTripped : Bool := false
  deriving DecidableEq, Repr

/-- A partition reset in progress (R465 to R467): the next phase to run is `phase`, 0 FENCE to 9 DONE. -/
structure PReset where
  id : Nat
  bents : List Nat
  phase : Nat := 0
  /-- the requests that complete at DONE -/
  cxs : List Cmd := []
  startedAt : Nat := 0
  /-- 0 request, 1 a step's deadline, 2 end of a bent trip, 3 a bent trip's own phases -/
  cause : Nat := 0
  released : List Nat := []
  /-- completions held until DONE -/
  late : List (Cmd × Nat × Verdict) := []
  /-- the R_Keys of the windows of the released bays (R478) -/
  keys : List Nat := []
  /-- bents that tripped while this reset ran: they trip once it has completed (R488, R520) -/
  tripped : List Nat := []
  /-- RELOAD: the broadcast or the repair round that goes on, and what its joists miss (R448, R449, R467) -/
  round : Nat := 0
  missing : List (Nat × BitVec 32) := []
  deriving DecidableEq, Repr

/-- Power states, RETAIN and the pins (R533 to R548). -/
structure Power where
  /-- the pins PWROK and RST_N, high -/
  pwrok : Bool := false
  rstN : Bool := true
  vddKeep : Bool := true
  refclk : Bool := true
  hubLock : Bool := false
  pllLoss : Bool := false
  /-- 0 ACTIVE or IDLE; 1 draining; 2 CLOSE; 3 STOP; 4 SELF-REFRESH; 5 RETENTION; 6 in RETAIN; 7 leaving, HUB; 8 leaving, BENTS -/
  retain : Nat := 0
  retainCx : Option Cmd := none
  retainTimeout : Nat := 0
  retainFrom : Nat := 0
  retainDrain : Nat := 0
  /-- a wake came during entry: cause, port (R548) -/
  wakePending : Bool := false
  /-- WAKE_STATUS (R547) -/
  wakeCause : Nat := 0
  wakePort : Nat := 0
  wakeTenancy : Nat := 0
  wakeNamed : Bool := false
  spurious : Nat := 0
  /-- bents in RETAIN that exit restores, in order (R542) -/
  exitOrder : List Nat := []
  resets : List PReset := []
  nextReset : Nat := 0
  /-- causes of ALERT_N and THERMTRIP_N that persist: 0 bring-up mismatch, 1 FAILED, 2 hub stage, 3 framer stall, 4 bent
  trip, 5 clock loss, 6 hub limit, 7 engine limit, 8 keeper limit -/
  alerts : List Nat := []
  thermtrip : Bool := false
  deriving DecidableEq, Repr

/-! ### The whole machine -/

/-- The state of the block. -/
structure State where
  pending : List Instr := []
  clk : Clk := {}
  kp : Keeper := {}
  cfg : Cfg := {}
  qci : Qci := {}
  ten : NMap (Option Tenancy) := []
  bay : Bays := {}
  rack : Rack := {}
  jig : Jig := {}
  joi : Joists := {}
  mem : Mem := {}
  rfr : NMap BankRefresh := []
  ecc : Ecc := {}
  bnt : NMap Bent := []
  lnk : NMap Link := []
  net : Net := {}
  thm : Therm := {}
  pwr : Power := {}
  out : List Out := []
  deriving DecidableEq, Repr

/-- The machine after reset: every register at its reset value, VDD_KEEP applied, PWROK still low, no command
waiting. -/
def State.reset : State := {}

end Sys2Proof.Machine
end

