-- ==== Sys2Proof/Machine/Maps.lean ====
section
/-! DEFINITION. Reading and writing the sparse maps that hold numbered parts and bytes. One canonical form: keys strictly
rising, no entry equal to what an unlisted key reads as. -/

namespace Sys2Proof.Machine

/-- What key k reads as: its entry, or d where it is not listed. -/
def mget (d : α) : List (Nat × α) → Nat → α
  | [], _ => d
  | (k', v) :: m, k => if k = k' then v else mget d m k

/-- Puts an entry in its place among rising keys. -/
def mins (k : Nat) (v : α) : List (Nat × α) → List (Nat × α)
  | [] => [(k, v)]
  | (k', v') :: m => if k < k' then (k, v) :: (k', v') :: m else (k', v') :: mins k v m

/-- Removes every entry of a key. -/
def mdel (k : Nat) : List (Nat × α) → List (Nat × α)
  | [] => []
  | (k', v') :: m => if k = k' then mdel k m else (k', v') :: mdel k m

/-- Writes v at key k; writing d removes the entry. -/
def mset [DecidableEq α] (d : α) (m : List (Nat × α)) (k : Nat) (v : α) : List (Nat × α) :=
  if v = d then mdel k m else mins k v (mdel k m)

/-- Applies f to what key k holds. -/
def mmod [DecidableEq α] (d : α) (m : List (Nat × α)) (k : Nat) (f : α → α) : List (Nat × α) :=
  mset d m k (f (mget d m k))

/-- Removes every key outside p. -/
def mkeep (p : Nat → Bool) (m : List (Nat × α)) : List (Nat × α) := m.filter (fun e => p e.1)

/-- Keys strictly rising above a floor and no entry at d. -/
def mwfFrom [DecidableEq α] (d : α) : Nat → List (Nat × α) → Bool
  | _, [] => true
  | lo, (k, v) :: m => decide (lo ≤ k) && decide (v ≠ d) && mwfFrom d (k + 1) m

/-- The canonical form. -/
def mwf [DecidableEq α] (d : α) (m : List (Nat × α)) : Bool := mwfFrom d 0 m

/-- Writes a list of bytes from a key upward. -/
def writeBytes (m : List Host.Cell) (base : Nat) : List Byte → List Host.Cell
  | [] => m
  | b :: bs => writeBytes (mset 0 m base b) (base + 1) bs

/-- Reads n bytes from a key upward. -/
def readBytes (m : List Host.Cell) (base n : Nat) : List Byte :=
  (List.range n).map (fun i => mget 0 m (base + i))

/-- A little-endian number of a list of bytes (R11). -/
def leNat : List Byte → Nat
  | [] => 0
  | b :: bs => b.toNat + 256 * leNat bs

/-- The n little-endian bytes of a number (R11). -/
def leBytes (n : Nat) (v : Nat) : List Byte :=
  (List.range n).map (fun i => BitVec.ofNat 8 (v / 2 ^ (8 * i)))

/-- A record as its bytes: each field's size and its value, little-endian (R11, R12). -/
def record (l : List (Nat × Nat)) : List Nat := l.flatMap (fun f => (leBytes f.1 f.2).map BitVec.toNat)

/-- The lowest number from lo on, below lo + n, that p accepts. -/
def lowestFree (p : Nat → Bool) (lo n : Nat) : Option Nat :=
  (List.range n).findSome? (fun i => if p (lo + i) then some (lo + i) else none)

/-- The members of a bit mask of n bits, rising. -/
def bitsOf (n mask : Nat) : List Nat := (List.range n).filter (fun i => Nat.testBit mask i)

/-- The bit mask of a list of members. -/
def maskOf (l : List Nat) : Nat := l.foldl (fun m i => m ||| (2 ^ i)) 0

/-- Bit i of a register word set from a Bool. -/
def bit (i : Nat) (b : Bool) : Nat := if b then 2 ^ i else 0

/-- A field of a register word: v cut to n bits, at bit lo. -/
def fld (lo n v : Nat) : Nat := (v % 2 ^ n) * 2 ^ lo

/-- The n-bit two's-complement pattern of an integer. -/
def signed (n : Nat) (v : Int) : Nat := (v % (2 ^ n : Int)).toNat

end Sys2Proof.Machine
end

