-- ==== Sys2Proof/Machine/Ops.lean ====
section
/-! DEFINITION. The named operations that the commands share: updating one part of the state, reading numbered parts,
time, the variant's geometry, the logical joists, the event log and the pins. -/

namespace Sys2Proof.Machine

/-! ### Updating one part of the state -/

def State.onClk (f : Clk → Clk) (s : State) : State := { s with clk := f s.clk }
def State.onKp (f : Keeper → Keeper) (s : State) : State := { s with kp := f s.kp }
def State.onCfg (f : Cfg → Cfg) (s : State) : State := { s with cfg := f s.cfg }
def State.onQci (f : Qci → Qci) (s : State) : State := { s with qci := f s.qci }
def State.onTen (f : NMap (Option Tenancy) → NMap (Option Tenancy)) (s : State) : State := { s with ten := f s.ten }
def State.onBay (f : Bays → Bays) (s : State) : State := { s with bay := f s.bay }
def State.onRack (f : Rack → Rack) (s : State) : State := { s with rack := f s.rack }
def State.onJig (f : Jig → Jig) (s : State) : State := { s with jig := f s.jig }
def State.onJoi (f : Joists → Joists) (s : State) : State := { s with joi := f s.joi }
def State.onMem (f : Mem → Mem) (s : State) : State := { s with mem := f s.mem }
def State.onRfr (f : NMap BankRefresh → NMap BankRefresh) (s : State) : State := { s with rfr := f s.rfr }
def State.onEcc (f : Ecc → Ecc) (s : State) : State := { s with ecc := f s.ecc }
def State.onBnt (f : NMap Bent → NMap Bent) (s : State) : State := { s with bnt := f s.bnt }
def State.onLnk (f : NMap Link → NMap Link) (s : State) : State := { s with lnk := f s.lnk }
def State.onNet (f : Net → Net) (s : State) : State := { s with net := f s.net }
def State.onThm (f : Therm → Therm) (s : State) : State := { s with thm := f s.thm }
def State.onPwr (f : Power → Power) (s : State) : State := { s with pwr := f s.pwr }
def State.onOut (f : List Out → List Out) (s : State) : State := { s with out := f s.out }

/-! ### Reading numbered parts -/

def State.bent (s : State) (b : Nat) : Bent := mget {} s.bnt b
def State.port (s : State) (p : Nat) : Port := mget {} s.net.ports p
def State.engine (s : State) (e : Nat) : Engine := mget {} s.net.engines e
def State.link (s : State) (l : Nat) : Link := mget {} s.lnk l
def State.bayOf (s : State) (b : Nat) : Option Bay := mget none s.bay.bays b
def State.sliceWin (s : State) (t w : Nat) : Option SliceWin := mget none s.bay.slices (t * 64 + w)
def State.session (s : State) (i : Nat) : Option Session := mget none s.qci.sessions i
def State.tenancy (s : State) (t : Nat) : Option Tenancy := mget none s.ten t
def State.seqRec (s : State) (q : Nat) : Option SeqRec := mget none s.rack.seqs q
/-- The key of a queue pair: its port and its number on that port. -/
def qpKey (port qpn : Nat) : Nat := port * 2 ^ 24 + qpn
def State.qp (s : State) (q : Nat) : Option Qp := mget none s.net.qps q
def State.job (s : State) (t : Nat) : Option Job := mget none s.net.jobs t
def State.joist (s : State) (j : Nat) : Joist := mget {} s.joi.joists j
def State.group (s : State) (j g : Nat) : Group := mget {} s.joi.groups (j * 8 + g)
def State.peg (s : State) (j i : Nat) : Peg := mget {} s.joi.pegs (j * 32 + i)
def State.refresh (s : State) (j i : Nat) : BankRefresh := mget {} s.rfr (j * 32 + i)
def State.site (s : State) (i : Nat) : Site := mget {} s.thm.sites i

/-! ### Writing numbered parts -/

def State.setBent (b : Nat) (f : Bent → Bent) (s : State) : State := s.onBnt (fun m => mmod {} m b f)
def State.setPort (p : Nat) (f : Port → Port) (s : State) : State :=
  s.onNet (fun n => { n with ports := mmod {} n.ports p f })
def State.setEngine (e : Nat) (f : Engine → Engine) (s : State) : State :=
  s.onNet (fun n => { n with engines := mmod {} n.engines e f })
def State.setLink (l : Nat) (f : Link → Link) (s : State) : State := s.onLnk (fun m => mmod {} m l f)
def State.putBay (b : Nat) (v : Option Bay) (s : State) : State :=
  s.onBay (fun x => { x with bays := mset none x.bays b v })
def State.setBay (b : Nat) (f : Bay → Bay) (s : State) : State :=
  s.onBay (fun x => { x with bays := mmod none x.bays b (Option.map f) })
def State.putSlice (t w : Nat) (v : Option SliceWin) (s : State) : State :=
  s.onBay (fun x => { x with slices := mset none x.slices (t * 64 + w) v })
def State.putSession (i : Nat) (v : Option Session) (s : State) : State :=
  s.onQci (fun x => { x with sessions := mset none x.sessions i v })
def State.setSession (i : Nat) (f : Session → Session) (s : State) : State :=
  s.onQci (fun x => { x with sessions := mmod none x.sessions i (Option.map f) })
def State.putTenancy (t : Nat) (v : Option Tenancy) (s : State) : State := s.onTen (fun m => mset none m t v)
def State.putSeq (q : Nat) (v : Option SeqRec) (s : State) : State :=
  s.onRack (fun r => { r with seqs := mset none r.seqs q v })
def State.putQp (q : Nat) (v : Option Qp) (s : State) : State :=
  s.onNet (fun n => { n with qps := mset none n.qps q v })
def State.setQp (q : Nat) (f : Qp → Qp) (s : State) : State :=
  s.onNet (fun n => { n with qps := mmod none n.qps q (Option.map f) })
def State.putJob (t : Nat) (v : Option Job) (s : State) : State :=
  s.onNet (fun n => { n with jobs := mset none n.jobs t v })
def State.putBinding (t : Nat) (v : Option Job) (s : State) : State :=
  s.onNet (fun n => { n with binding := mset none n.binding t v })
def State.setJoist (j : Nat) (f : Joist → Joist) (s : State) : State :=
  s.onJoi (fun x => { x with joists := mmod {} x.joists j f })
def State.setGroup (j g : Nat) (f : Group → Group) (s : State) : State :=
  s.onJoi (fun x => { x with groups := mmod {} x.groups (j * 8 + g) f })
def State.setPeg (j i : Nat) (f : Peg → Peg) (s : State) : State :=
  s.onJoi (fun x => { x with pegs := mmod {} x.pegs (j * 32 + i) f })
def State.setRefresh (j i : Nat) (f : BankRefresh → BankRefresh) (s : State) : State :=
  s.onRfr (fun m => mmod {} m (j * 32 + i) f)
def State.setSite (i : Nat) (f : Site → Site) (s : State) : State :=
  s.onThm (fun t => { t with sites := mmod {} t.sites i f })
def State.send (o : Out) (s : State) : State := s.onOut (fun l => l ++ [o])

/-- The numbers at which a map of optional parts holds one. -/
def present (m : List (Nat × Option α)) : List (Nat × α) :=
  m.filterMap (fun e => e.2.map (fun v => (e.1, v)))

/-! ### Time -/

/-- Keeper time: cycles of the 25 MHz oscillator (R573). -/
def keeperNow (s : State) : Nat := s.clk.t / 136
/-- Microseconds of the model's clock. -/
def usNow (s : State) : Nat := s.clk.t / 3400
/-- HCLK cycles (R567). -/
def hclkNow (s : State) : Nat := s.clk.t / 3
/-- The local ACLK cycle count of a bent. -/
def aclkNow (s : State) (b : Nat) : Nat := (s.bent b).aclk / 960

/-! ### Free values -/

/-- The next draw number; `spend` counts it. -/
def drawNo (s : State) : Nat := s.clk.draw
def spend (n : Nat) (s : State) : State := s.onClk (fun c => { c with draw := c.draw + n })

/-! ### The variant (R2, R455) -/

def lamCount (s : State) : Nat := (bitsOf 6 s.kp.fuses.lamEn.toNat).length
def bankCount (s : State) : Nat := 4 * lamCount s
def pageTop (s : State) : Nat := 64 * lamCount s
def sliceBytes (s : State) : Nat := lamCount s * 2 ^ 20
def enginePresent (s : State) (e : Nat) : Bool := decide (e < 6) && s.kp.fuses.oeEn.getLsbD e
def portPresent (s : State) (p : Nat) : Bool := enginePresent s (p / 2)
def rowLimit (s : State) : Nat := if s.kp.fuses.logicalRows = 32 then 34 else 42
def portsOf (s : State) : List Nat := (List.range 12).filter (portPresent s)

/-- The fuse map agrees with a row of R456 and is not blank. -/
def fusesConsistent (f : Fuses) : Bool :=
  decide (f.serial ≠ 0) && decide (f.macBase ≠ 0) &&
  (decide (f.variant = 0 ∧ f.lamEn = 0x3F ∧ f.oeEn = 0x3F ∧ f.logicalRows = 40)
    || decide (f.variant = 1 ∧ f.lamEn = 0x1F ∧ f.oeEn = 0x3F ∧ f.logicalRows = 40)
    || decide (f.variant = 2 ∧ f.lamEn = 0x3F ∧ f.oeEn = 0x0F ∧ f.logicalRows = 40)
    || decide (f.variant = 3 ∧ f.lamEn = 0x3F ∧ f.oeEn = 0x3F ∧ f.logicalRows = 32))

/-! ### Logical joists (R7, R18, R19) -/

def joistKey (b p : Nat) : Nat := b * 1344 + p
def keyBent (j : Nat) : Nat := j / 1344
def keyIndex (j : Nat) : Nat := j % 1344
/-- The logical id formula of R7. -/
def logicalId (b c r : Nat) : Nat := b * 1280 + r * 32 + c
/-- Joists that cannot be used now: defective by fuse or retired for this boot. -/
def unusable (s : State) : List Nat := s.kp.fuses.defects ++ s.kp.retired.map (fun x => x.1)
/-- The usable physical rows of a column, counted upward, of those that count (R18, R457). -/
def usableRows (hidden : List Nat) (limit b c : Nat) : List Nat :=
  (List.range limit).filter (fun p => !hidden.contains (joistKey b (p * 32 + c)))
/-- The logical row count of a bent before it is judged for service (R19, R457). -/
def rowCount (s : State) (hidden : List Nat) (b : Nat) : Nat :=
  (List.range 32).foldl (fun m c => min m (usableRows hidden (rowLimit s) b c).length) s.kp.fuses.logicalRows
/-- A bent with a column of more than two unusable joists is degraded (R19). -/
def bentDegraded (s : State) (hidden : List Nat) (b : Nat) : Bool :=
  (List.range 32).any (fun c => (usableRows hidden (rowLimit s) b c).length + 2 < rowLimit s)
/-- No two logical neighbours lie further apart than a link reaches (R450). -/
def bentMappable (s : State) (hidden : List Nat) (b : Nat) : Bool :=
  let n := rowCount s hidden b
  let col (c : Nat) : List Nat := (usableRows hidden (rowLimit s) b c).take n
  (List.range 32).all (fun c =>
    ((col c).zip ((col c).drop 1)).all (fun e => decide (e.2 ≤ e.1 + 3))
    && (c == 31 || ((col c).zip (col (c + 1))).all (fun e => decide (e.1 ≤ e.2 + 2 ∧ e.2 ≤ e.1 + 2))))
/-- The physical joist behind logical (b, c, r), fixed at READY (R8). -/
def logicalJoist (s : State) (b c r : Nat) : Option Nat :=
  if c < 32 ∧ r < (s.bent b).rows ∧ (s.bent b).outOfService = false then
    (usableRows s.kp.hidden (rowLimit s) b c)[r]?.map (fun p => joistKey b (p * 32 + c))
  else none
/-- The bents of a bay, ascending. -/
def bayBents (y : Bay) : List Nat := bitsOf 4 y.bentMask
/-- The joists of a bay by bay joist index (R270); none where a joist has left service. -/
def bayPlaces (s : State) (y : Bay) : List (Option Nat) :=
  (bayBents y).flatMap (fun b => (List.range y.h).flatMap (fun dy => (List.range y.w).map (fun dx =>
    logicalJoist s b (y.c0 + dx) (y.r0 + dy))))
/-- The joists of a bay in bay joist index order (R270). -/
def bayJoists (s : State) (y : Bay) : List Nat :=
  (bayBents y).flatMap (fun b => (List.range y.h).flatMap (fun dy => (List.range y.w).filterMap (fun dx =>
    logicalJoist s b (y.c0 + dx) (y.r0 + dy))))
/-- All physical joists of a bent that are neither defective nor retired. -/
def usableJoists (s : State) (b : Nat) : List Nat :=
  ((List.range 1344).map (joistKey b)).filter (fun j => !(unusable s).contains j)

/-! ### MRAM writes and the event log (R422, R573) -/

/-- The keeper's own temperature permits MRAM writes. -/
def mramOpen (s : State) : Bool := decide (0 ≤ s.thm.keeperT) && decide (s.thm.keeperT ≤ 85 * 16)

def mramAppend (l : List MramEntry) (e : MramEntry) : List MramEntry := (l ++ [e]).drop (l.length + 1 - 8192)

/-- Entries and cycle counts that wait in keeper SRAM. -/
def queuedMram (k : Keeper) : Nat := k.logQueue.length + k.cyclesQueued.foldl (fun n e => n + e.2) 0

/-- The first entry written carries the number lost before it. -/
def withLost (n : Nat) : List MramEntry → List MramEntry
  | [] => []
  | e :: l => { e with lost := sat 0xFFFF n } :: l

/-- The queued entries and cycle counts are written. -/
def flushQueue (k : Keeper) : Keeper :=
  { k with
    log := (withLost k.logLost k.logQueue).foldl mramAppend k.log
    logQueue := []
    logLost := if k.logQueue = [] then k.logLost else 0
    cycleTotals := k.cyclesQueued.foldl (fun m e => mmod 0 m e.1 (fun n => (n + e.2) % 2 ^ 32)) k.cycleTotals
    cyclesQueued := []
    bootsStored := k.boots }

/-- Records an event: while MRAM may be written at once, behind what still waits, else in the keeper's queue of 256 entries. -/
def logEvent (code source : Nat) (data : List Int) (s : State) : State :=
  let e : MramEntry := { time := keeperNow s, boot := s.kp.boots, code := code, source := source, data := data }
  s.onKp (fun k =>
    if mramOpen s then
      let k := flushQueue k
      { k with log := (withLost k.logLost [e]).foldl mramAppend k.log, logLost := 0 }
    else if queuedMram k < 256 then { k with logQueue := k.logQueue ++ [e] }
    else { k with logLost := k.logLost + 1 })

/-! ### Pins (R533) -/

/-- A cause of ALERT_N begins or ends. -/
def alertOn (c : Nat) (s : State) : State :=
  s.onPwr (fun p => { p with alerts := if p.alerts.contains c then p.alerts else p.alerts ++ [c] })
def alertOff (c : Nat) (s : State) : State := s.onPwr (fun p => { p with alerts := p.alerts.filter (fun x => x ≠ c) })
/-- ALERT_N is low while any cause persists. -/
def alertLow (s : State) : Bool := !s.pwr.alerts.isEmpty

/-! ### Counters of a port (R354, R558) -/

def countPort (p off n : Nat) (s : State) : State :=
  s.setPort p (fun x => { x with counters := mmod 0 x.counters off (fun v => (v + n) % 2 ^ 64) })
/-- A port whose link is up; one without light is down (R316, R353). -/
def portUp (s : State) (p : Nat) : Bool := decide ((s.port p).link = 1 ∨ (s.port p).link = 2)
/-- The DSCP settings of a port (R351, R386): for tally data, tally returns, device traffic and host traffic. -/
def dscpOf (s : State) (p k : Nat) : Nat := ((mget none s.cfg.inForce (0x2006 + 0x100 * p)).getD [26, 46, 48, 10]).getD k 0
/-- A value of a port's settings in force, none where it has its default: 4 IPV6, 5 VLAN, 7 PFC_PRIO (R386). -/
def portValue (s : State) (p num : Nat) : List Nat := (mget none s.cfg.inForce (0x2000 + num + 0x100 * p)).getD []
/-- The DSCP of a bay's tally data: the one that the bay has adopted (R383). -/
def tallyDscpOf (s : State) (p bay : Nat) : Nat := ((s.bayOf bay).bind (fun y => mget none y.tallyDscp p)).getD (dscpOf s p 0)
/-- An address as a number in network order is an IPv6 one. -/
def isV6 (ip : Nat) : Bool := decide (2 ^ 32 ≤ ip)
/-- The DSCP of a packet of a queue pair (R349): tally data, tally returns, host traffic, else device traffic. -/
def pktDscp (s : State) (p : Nat) (x : TxPkt) : Nat :=
  if x.response then dscpOf s p 3
  else if x.isReturn then dscpOf s p 1
  else match x.step with
    | some e => tallyDscpOf s p e.1
    | none => dscpOf s p 2
/-- The DSCP and ECN bits of an IP packet (R349): the DSCP of its class, and ECT(0) on RoCEv2; other frames carry none. -/
def tosOf (s : State) (p : Nat) : Out → Option Nat
  | .packet x => some (4 * pktDscp s p x + 2)
  | .ack _ _ | .nak _ _ _ | .cnp _ => some (4 * dscpOf s p 2 + 2)
  | .icmpReply _ _ _ | .recovery _ _ _ => some (4 * dscpOf s p 2)
  | .arpReply _ ip | .arpRequest _ ip | .announce _ ip => if isV6 ip then some (4 * dscpOf s p 2) else none
  | _ => none

/-- The priority of a PFC_PRIO value whose bitmap has a DSCP. -/
def prioIn : List Nat → Nat → Option Nat
  | k :: m :: l, d => if m.testBit d then some k else prioIn l d
  | _, _ => none
/-- The partner has paused the priority that a port's PFC_PRIO gives the frame's DSCP (R347); a frame without one is not held (DESIGN
CHOICE, log entry 48). -/
def framePaused (s : State) (p : Nat) (o : Out) : Bool :=
  (((tosOf s p o).bind (fun t => prioIn (portValue s p 7) (t / 4))).map (s.port p).paused.contains).getD false

/-- Bytes of a RoCEv2 packet from the destination address through the FCS (R313, R352): Ethernet, 802.1Q tag, IP, UDP, BTH, further
headers, payload, ICRC, FCS. -/
def roceBytes (v6 tagged : Bool) (further payload : Nat) : Nat :=
  14 + (if tagged then 4 else 0) + (if v6 then 40 else 20) + 8 + 12 + further + payload + 4 + 4
/-- Bytes of a UDP datagram's frame. -/
def udpBytes (v6 tagged : Bool) (payload : Nat) : Nat :=
  max 64 (14 + (if tagged then 4 else 0) + (if v6 then 40 else 20) + 8 + payload + 4)
def portV6 (s : State) (p : Nat) : Bool := !(portValue s p 4).isEmpty
def portTagged (s : State) (p : Nat) : Bool := decide ((portValue s p 5).headD 0 ≠ 0)
/-- Bytes of a frame that a port sends (DESIGN CHOICE, log entry 89). -/
def outBytes (s : State) (p : Nat) (o : Out) : Nat :=
  let roce := roceBytes (portV6 s p) (portTagged s p)
  let udp := udpBytes (portV6 s p) (portTagged s p)
  match o with
  | .packet x => roce (if x.response then 4 else if x.isReturn then 0 else if x.imm.isSome then 20 else 16) x.size
  | .ack _ _ | .nak _ _ _ => roce 4 0
  | .cnp _ => roce 16 0
  | .recovery _ _ l => udp l.length
  | _ => 64

/-- A frame goes and counts in FRAMES_TX, BYTES_TX and in further counters (R354). -/
def emitFrame (p : Nat) (counts : List (Nat × Nat)) (o : Out) (s : State) : State :=
  let n := outBytes s p o
  let h : FrameHead := { port := p, vlan := (portValue s p 5).headD 0, tos := tosOf s p o }
  let s := counts.foldl (fun s c => countPort p c.1 c.2 s) (countPort p 0x118 n (countPort p 0x110 1 s))
  (s.onNet (fun x => { x with heads := x.heads ++ [h] })).send o
/-- A frame leaves a port, or waits while its priority is paused (R347); a port whose link is down transmits nothing (R316). -/
def frameOut (p : Nat) (counts : List (Nat × Nat)) (o : Out) (s : State) : State :=
  if !portUp s p then s
  else if framePaused s p o then s.onNet (fun n => { n with held := n.held ++ [{ port := p, counts := counts, frame := o }] })
  else emitFrame p counts o s
def sendFrame (p : Nat) (o : Out) (s : State) : State := frameOut p [] o s
/-- The frames that a port holds may have been let go: each leaves, or waits again, in order. -/
def releaseHeld (p : Nat) (s : State) : State :=
  let mine := s.net.held.filter (fun h => h.port = p)
  mine.foldl (fun s h => frameOut p h.counts h.frame s) (s.onNet (fun n => { n with held := n.held.filter (fun h => h.port ≠ p) }))
/-- A frame that a port has received counts in FRAMES_RX and BYTES_RX (R354). -/
def frameIn (p n : Nat) (s : State) : State := countPort p 0x108 n (countPort p 0x100 1 s)
/-- A frame or packet dropped and counted as discarded (R323, R329). -/
def discard (p : Nat) (s : State) : State := countPort p 0x130 1 s

/-- A step of an event that names a port or engine: a fault where the variant lacks it (R2, R4). -/
def onPort (p : Nat) (f : State → State) (s : State) : Host.Outcome State Fault Refusal :=
  if portPresent s p then .next (f s) else .fault .absentPart
def onEngine (e : Nat) (f : State → State) (s : State) : Host.Outcome State Fault Refusal :=
  if enginePresent s e then .next (f s) else .fault .absentPart
def onBent (b : Nat) (f : State → State) (s : State) : Host.Outcome State Fault Refusal :=
  if b < 4 then .next (f s) else .fault .absentPart

end Sys2Proof.Machine
end

