-- ==== Sys2Proof/Machine/Operands.lean ====
section
/-! DEFINITION. Number formats and exact arithmetic: decoding (R35 to R40), rounding (R70, R71), conversion (R65 to R68,
R571), FP32 operations (R79, R109) and the special functions (R80, R110). -/

namespace Sys2Proof

open Sys2Proof.Machine

def Dy.mul (a b : Dy) : Dy := ⟨a.m * b.m, a.e + b.e⟩
def Dy.add (a b : Dy) : Dy :=
  if a.e ≤ b.e then ⟨a.m + b.m * 2 ^ (b.e - a.e).toNat, a.e⟩ else ⟨a.m * 2 ^ (a.e - b.e).toNat + b.m, b.e⟩
def Dy.neg (a : Dy) : Dy := ⟨-a.m, a.e⟩
def Dy.scale (a : Dy) (k : Int) : Dy := ⟨a.m, a.e + k⟩
/-- ⌊log2 |x|⌋ of a number that is not zero. -/
def Dy.exp (a : Dy) : Int := (Nat.log2 a.m.natAbs : Int) + a.e
def Dy.lt (a b : Dy) : Bool := decide ((a.add b.neg).m < 0)
def Dy.le (a b : Dy) : Bool := decide ((a.add b.neg).m ≤ 0)
def Dy.abs (a : Dy) : Dy := ⟨a.m.natAbs, a.e⟩

/-! ### Rounding -/

/-- The stochastic value of R71. -/
def stochasticR (seed : BitVec 32) (k n : Nat) : Nat :=
  let key : BitVec 64 := (BitVec.ofNat 64 k <<< 48) ||| BitVec.ofNat 64 n
  let x0 := key ^^^ (seed.zeroExtend 64 * 0x9E3779B97F4A7C15#64)
  let x1 := (x0 ^^^ (x0 >>> 31)) * 0xBF58476D1CE4E5B9#64
  let x2 := (x1 ^^^ (x1 >>> 27)) * 0x94D049BB133111EB#64
  let x3 := x2 ^^^ (x2 >>> 31)
  (x3 >>> 32).toNat

/-- The integer multiple of 2^u that a mode gives for an exact value (R70); r is the value of R71. -/
def roundTo (mode : RMode) (r : Nat) (d : Dy) (u : Int) : Int :=
  if u ≤ d.e then d.m * 2 ^ (d.e - u).toNat
  else
    let q : Int := 2 ^ (u - d.e).toNat
    let f := d.m / q
    let rem := d.m % q
    match mode with
    | .rtz => if d.m < 0 ∧ rem ≠ 0 then f + 1 else f
    | .stoch => if (rem * 2 ^ 32 / q) > (r : Int) then f + 1 else f
    | _ => if 2 * rem < q then f else if q < 2 * rem then f + 1 else if f % 2 = 0 then f else f + 1

/-! ### Formats -/

/-- Exponent bits, fraction bits, bias and emax of a floating format (R35, R40). -/
structure Layout where
  eb : Nat
  mb : Nat
  bias : Int
  emax : Int
  deriving DecidableEq, Repr

def Fmt.layout : Fmt → Layout
  | .e4m3 => ⟨4, 3, 7, 8⟩
  | .e5m2 => ⟨5, 2, 15, 15⟩
  | .e2m3 => ⟨2, 3, 1, 2⟩
  | .e3m2 => ⟨3, 2, 3, 4⟩
  | .e2m1 => ⟨2, 1, 1, 2⟩
  | .bf16 => ⟨8, 7, 127, 127⟩
  | .mxint8 => ⟨0, 6, 0, 0⟩
  | _ => ⟨8, 23, 127, 127⟩

def Fmt.isMx : Fmt → Bool
  | .e4m3 | .e5m2 | .e2m3 | .e3m2 | .e2m1 | .mxint8 => true
  | _ => false

/-- Bits of one element (R34). -/
def Fmt.bits : Fmt → Nat
  | .nofmt => 0
  | .e4m3 | .e5m2 | .mxint8 | .int8 => 8
  | .e2m3 | .e3m2 => 6
  | .e2m1 => 4
  | .bf16 => 16
  | .fp32 | .int32 => 32

/-- The format codes of R380. -/
def Fmt.code : Fmt → Nat
  | .nofmt => 0 | .e4m3 => 1 | .e5m2 => 2 | .e2m3 => 3 | .e3m2 => 4 | .e2m1 => 5 | .mxint8 => 6
  | .bf16 => 0x10 | .fp32 => 0x11 | .int32 => 0x12 | .int8 => 0x13

/-- The largest finite magnitude of a format (R35, R65). -/
def Fmt.top : Fmt → Dy
  | .e4m3 => ⟨7, 6⟩
  | .e5m2 => ⟨7, 13⟩
  | .e2m3 => ⟨15, -1⟩
  | .e3m2 => ⟨7, 2⟩
  | .e2m1 => ⟨3, 1⟩
  | .mxint8 => ⟨127, -6⟩
  | .bf16 => ⟨255, 120⟩
  | .int8 => ⟨127, 0⟩
  | .int32 => ⟨2147483647, 0⟩
  | _ => ⟨16777215, 104⟩

/-- A sign-magnitude float decoded without its special codes. -/
def decodeFloat (l : Layout) (code : Nat) : Dy :=
  let frac := code % 2 ^ l.mb
  let ex := code / 2 ^ l.mb % 2 ^ l.eb
  let neg := code / 2 ^ (l.mb + l.eb) % 2 = 1
  let m : Int := if ex = 0 then frac else frac + 2 ^ l.mb
  let e : Int := (if ex = 0 then 1 else (ex : Int)) - l.bias - l.mb
  ⟨if neg then -m else m, e⟩

/-- The integer that an n-bit two's-complement code stands for. -/
def decodeInt (n code : Nat) : Int := if code < 2 ^ (n - 1) then code else (code : Int) - 2 ^ n

/-- One element without its block scale (R35 to R40). -/
def decodeElem (f : Fmt) (code : Nat) : Val :=
  match f with
  | .nofmt => .nan
  | .e4m3 => if code % 128 = 127 then .nan else .num (decodeFloat f.layout code)
  | .e5m2 =>
    if code % 128 = 124 then .inf (decide (128 ≤ code)) else if 124 < code % 128 then .nan
    else .num (decodeFloat f.layout code)
  | .e2m3 | .e3m2 | .e2m1 => .num (decodeFloat f.layout code)
  | .mxint8 => .num ⟨decodeInt 8 code, -6⟩
  | .int8 => .num ⟨decodeInt 8 code, 0⟩
  | .int32 => .num ⟨decodeInt 32 code, 0⟩
  | .bf16 | .fp32 =>
    let l := f.layout
    if code / 2 ^ l.mb % 256 = 255 then
      (if code % 2 ^ l.mb = 0 then .inf (decide (2 ^ (l.mb + 8) ≤ code)) else .nan)
    else .num (decodeFloat l code)

/-- An element with its block's scale code (R36): the NaN scale makes every element a NaN. -/
def decodeScaled (f : Fmt) (code scale : Nat) : Val :=
  if f.isMx then
    if scale = 255 then .nan
    else match decodeElem f code with
      | .num d => .num (d.scale ((scale : Int) - 127))
      | v => v
  else decodeElem f code

/-- The code of n × 2^u, n at most 2^(mb+1), in a floating layout. -/
def encodeParts (l : Layout) (neg : Bool) (n : Nat) (u : Int) : Nat :=
  let (n, u) := if n = 2 ^ (l.mb + 1) then (n / 2, u + 1) else (n, u)
  let body := if n < 2 ^ l.mb then n else (u + l.mb + l.bias).toNat * 2 ^ l.mb + (n - 2 ^ l.mb)
  if neg ∧ n ≠ 0 then body + 2 ^ (l.mb + l.eb) else body

/-- The exponent of the last place of a value in a layout. -/
def ulpExp (l : Layout) (d : Dy) : Int := max (d.exp - l.mb) (1 - l.bias - l.mb)

/-- A converted element: its code and whether the conversion sets CONV_SAT. -/
structure Conv where
  code : Nat
  sat : Bool
  deriving DecidableEq, Repr

/-- Half a unit in the last place above the largest magnitude (R65). -/
def Fmt.edge (f : Fmt) : Dy :=
  let u : Int := if f = .mxint8 then -6 else f.layout.emax - f.layout.mb
  f.top.add ⟨1, u - 1⟩

/-- The integer formats saturate at their bounds (R65, R571). -/
def encodeIntSat (n : Nat) (v : Int) : Conv :=
  if v < -(2 ^ (n - 1)) then ⟨2 ^ (n - 1), true⟩
  else if (2 ^ (n - 1) : Int) ≤ v then ⟨2 ^ (n - 1) - 1, true⟩
  else ⟨signed n v, false⟩

/-- Conversion of an exact value into a format (R64 to R66, R70). For MX elements the value is already divided by the block scale.
Overflow of FP32 and BF16 is judged after rounding with an unbounded exponent, as R65 words it for MX elements alone (DESIGN
CHOICE, log entry 78). -/
def encodeVal (f : Fmt) (mode : RMode) (e5m2Inf : Bool) (r : Nat) (d : Dy) : Conv :=
  match f with
  | .nofmt => ⟨0, false⟩
  | .int8 => encodeIntSat 8 (roundTo mode r d 0)
  | .int32 => encodeIntSat 32 (roundTo mode r d 0)
  | .mxint8 =>
    let n := roundTo mode r d (-6)
    let s := f.edge.lt d.abs
    if 127 < n then ⟨127, s⟩ else if n < -127 then ⟨129, s⟩ else ⟨signed 8 n, s⟩
  | _ =>
    if d.m = 0 then ⟨0, false⟩
    else
      let l := f.layout
      let u := ulpExp l d
      let n := roundTo mode r d u
      let neg := decide (n < 0)
      let isOver := f.top.lt ⟨n.natAbs, u⟩
      let topCode := encodeParts l neg (f.top.m.natAbs * 2 ^ (l.mb + 1 - (Nat.log2 f.top.m.natAbs + 1)))
        (l.emax - l.mb)
      let signBit := if neg then 2 ^ (l.mb + l.eb) else 0
      if f.isMx then
        if isOver ∧ f = .e5m2 ∧ e5m2Inf then ⟨0x7C + signBit, true⟩
        else if isOver then ⟨topCode, f.edge.lt d.abs⟩
        else ⟨encodeParts l neg n.natAbs u, f.edge.lt d.abs⟩
      else if isOver then ⟨topCode, true⟩
      else ⟨encodeParts l neg n.natAbs u, false⟩

/-- The shared exponent of an MX block whose largest magnitude is d (R68). -/
def sharedExp (f : Fmt) (ceil : Bool) (d : Dy) : Int :=
  if d.m = 0 then -127
  else
    let x := d.exp - f.layout.emax
    let x' := if ceil then (if d.le (f.top.scale (x - 1)) then x - 1 else if d.le (f.top.scale x) then x else x + 1) else x
    max (-127) (min 127 x')

/-- The largest magnitude of a list. -/
def maxAbs (l : List Dy) : Dy := l.foldl (fun a d => if a.lt d.abs then d.abs else a) ⟨0, 0⟩

/-- A block of exact values converted to an MX format: scale code and elements (R68). -/
def encodeBlock (f : Fmt) (mode : RMode) (nc : NumCtl) (ord : Nat) (idx : Nat → Nat) (l : List Dy) :
    Nat × List Conv :=
  let x := sharedExp f nc.scaleCeil (maxAbs l)
  ((x + 127).toNat,
    l.mapIdx (fun i d => encodeVal f mode nc.e5m2Inf (stochasticR nc.seed ord (idx i)) (d.scale (-x))))

/-! ### FP32 arithmetic (R79) -/

def qnan : Word := 0x7FC00000#32
def f32Inf (neg : Bool) : Word := if neg then 0xFF800000#32 else 0x7F800000#32
def f32Zero (neg : Bool) : Word := if neg then 0x80000000#32 else 0#32
def f32Val (w : Word) : Val := decodeElem .fp32 w.toNat
def f32Neg (w : Word) : Bool := w.getLsbD 31
def f32IsNan (w : Word) : Bool := decide (f32Val w = .nan)
def f32IsZero (w : Word) : Bool := w == 0#32 || w == 0x80000000#32

/-- The binary32 value nearest an exact number that is not zero, ties to even; overflow gives an infinity. -/
def f32Round (d : Dy) : Word :=
  let l := Fmt.layout .fp32
  let u := ulpExp l d
  let n := roundTo .rne 0 d u
  let neg := decide (d.m < 0)
  if (Fmt.top .fp32).lt ⟨n.natAbs, u⟩ then f32Inf neg
  else
    let body := encodeParts l false n.natAbs u
    BitVec.ofNat 32 (if neg then body + 2 ^ 31 else body)

def f32Exact (d : Dy) (zeroNeg : Bool) : Word := if d.m = 0 then f32Zero zeroNeg else f32Round d

def fadd (a b : Word) : Word :=
  match f32Val a, f32Val b with
  | .nan, _ | _, .nan => qnan
  | .inf x, .inf y => if x = y then f32Inf x else qnan
  | .inf x, _ => f32Inf x
  | _, .inf y => f32Inf y
  | .num x, .num y => f32Exact (x.add y) (f32IsZero a && f32IsZero b && f32Neg a && f32Neg b)

def fnegate (a : Word) : Word := a ^^^ 0x80000000#32
def fsub (a b : Word) : Word := fadd a (fnegate b)

def fmul (a b : Word) : Word :=
  let s := f32Neg a != f32Neg b
  match f32Val a, f32Val b with
  | .nan, _ | _, .nan => qnan
  | .inf _, .num y => if y.m = 0 then qnan else f32Inf s
  | .num x, .inf _ => if x.m = 0 then qnan else f32Inf s
  | .inf _, .inf _ => f32Inf s
  | .num x, .num y => f32Exact (x.mul y) s

/-- Fused multiply-add a × b + c with a single rounding. -/
def ffma (a b c : Word) : Word :=
  let s := f32Neg a != f32Neg b
  match f32Val a, f32Val b, f32Val c with
  | .nan, _, _ | _, .nan, _ | _, _, .nan => qnan
  | .num x, .num y, .num z =>
    f32Exact ((x.mul y).add z) (decide (x.m * y.m = 0) && f32IsZero c && s && f32Neg c)
  | .num _, .num _, .inf n => f32Inf n
  | x, y, z =>
    let bad := match x, y with
      | .num d, .inf _ | .inf _, .num d => decide (d.m = 0)
      | _, _ => false
    if bad then qnan
    else match z with
      | .inf n => if n = s then f32Inf s else qnan
      | _ => f32Inf s

/-- Is a below b, both without NaN? Zeros compare equal (R132). -/
def flt (a b : Word) : Bool :=
  match f32Val a, f32Val b with
  | .num x, .num y => x.lt y
  | .inf n, .num _ => n
  | .num _, .inf n => !n
  | .inf n, .inf n' => n && !n'
  | _, _ => false

/-- FP32 maximum and minimum (R109). -/
def fmax (a b : Word) : Word :=
  if f32IsNan a || f32IsNan b then qnan
  else if f32IsZero a && f32IsZero b then (if f32Neg a && f32Neg b then f32Zero true else f32Zero false)
  else if flt a b then b else a
def fmin (a b : Word) : Word :=
  if f32IsNan a || f32IsNan b then qnan
  else if f32IsZero a && f32IsZero b then (if f32Neg a || f32Neg b then f32Zero true else f32Zero false)
  else if flt b a then b else a

/-- An operand rounded once to FP32 as a peg or the vector unit reads it (R181): MX products saturate. -/
def toF32 (v : Val) : Word :=
  match v with
  | .nan => qnan
  | .inf n => f32Inf n
  | .num d => BitVec.ofNat 32 (encodeVal .fp32 .rne false 0 d).code

/-- BF16 widened exactly to FP32 (R40). -/
def widenBf16 (code : Nat) : Word := BitVec.ofNat 32 (code * 2 ^ 16)

/-- FP32 or BF16 value to an output format in the vector unit, a peg or a CONVERT stage (R64, R65, R571, R184): the
code, CONV_SAT and NAN_SEEN. A NaN or infinity that a vector-unit stage stores in FP32, BF16 or an MX format sets NAN_SEEN as
R184 has it for pegs: the spec does not say (DESIGN CHOICE, log entry 78). -/
def convertVal (f : Fmt) (mode : RMode) (nc : NumCtl) (r : Nat) (w : Word) : Conv × Bool :=
  match f32Val w with
  | .num d => (encodeVal f mode nc.e5m2Inf r d, false)
  | .nan =>
    match f with
    | .int32 => (⟨0x80000000, false⟩, true)
    | .int8 => (⟨0x80, false⟩, true)
    | .bf16 => (⟨0x7FC0, false⟩, true)
    | _ => (⟨0x7FC00000, false⟩, true)
  | .inf n =>
    match f with
    | .int32 => (⟨if n then 0x80000000 else 0x7FFFFFFF, true⟩, false)
    | .int8 => (⟨if n then 0x80 else 0x7F, true⟩, false)
    | .bf16 => (⟨if n then 0xFF80 else 0x7F80, false⟩, true)
    | _ => (⟨(f32Inf n).toNat, false⟩, true)

/-! ### Special functions (R80, R110) -/

/-- Numbers of the form n × 2^-96, in which the exact results of R110 are enclosed to within 2^-80. -/
def q96 : Nat := 2 ^ 96
def ln2Q : Nat := 54916777467707473351141471128
def twoPiQ : Nat := 497805226624462170461043889244

/-- 2^f for f / 2^96 in [0, 1), by the series of the exponential. -/
def exp2Q (f : Nat) : Nat :=
  let t := f * ln2Q / q96
  ((List.range 40).foldl (fun (a : Nat × Nat) k => (a.1 + a.2, a.2 * t / q96 / (k + 1))) (0, q96)).1
/-- log2 of m / 2^96 in [1, 2), by the series of the inverse hyperbolic tangent. -/
def log2Q (m : Nat) : Nat :=
  let z := (m - q96) * q96 / (m + q96)
  2 * ((List.range 40).foldl (fun (a : Nat × Nat) k => (a.1 + a.2 / (2 * k + 1), a.2 * (z * z / q96) / q96)) (0, z)).1 * q96 / ln2Q
/-- Sine (odd) and cosine (even) of t / 2^96 radians, up to half a turn. -/
def trigQ (odd : Bool) (t : Int) : Int :=
  let o := if odd then 1 else 0
  ((List.range 30).foldl (fun (a : Int × Int) k =>
    (a.1 + a.2, -(a.2 * (t * t / q96) / q96 / ((2 * k + 1 + o) * (2 * k + 2 + o) : Nat)))) (0, if odd then t else q96)).1
/-- ⌊√n⌋ for n below 2^400. -/
def sqrtFloor (n : Nat) : Nat :=
  (List.range 200).foldl (fun r k => let x := r + 2 ^ (199 - k); if x * x ≤ n then x else r) 0

/-- A number from lo to hi, where an exact result lies. -/
structure Enclosure where
  lo : Dy
  hi : Dy
  deriving DecidableEq, Repr

def Enclosure.around (n : Int) (e : Int) : Enclosure := ⟨⟨n - 2 ^ 14, e⟩, ⟨n + 2 ^ 14, e⟩⟩
/-- One ulp at the magnitude of the exact result (R110). -/
def Enclosure.ulp (x : Enclosure) : Int := ulpExp (Fmt.layout .fp32) (maxAbs [x.lo, x.hi])

/-- A word is a number no further than tol from an enclosed result. -/
def Enclosure.near (x : Enclosure) (tol : Dy) (w : Word) : Bool :=
  match f32Val w with
  | .num y => (x.lo.add tol.neg).le y && y.le (x.hi.add tol)
  | _ => false

/-- The result of a special function: a free value within the bound of R110 (DESIGN CHOICE, log entry 5: which one the spec leaves
open); the nearest value stands for a free value beyond it. -/
def boundedResult (free : Word) (x : Enclosure) (tol : Dy) : Word :=
  if x.near tol free then free else if x.lo.m < 0 ∧ 0 < x.hi.m then 0#32 else f32Exact x.lo false

/-- x / 2^k of an exact number, rounded down. -/
def Dy.units (d : Dy) (k : Int) : Int := if k ≤ d.e then d.m * 2 ^ (d.e - k).toNat else d.m / 2 ^ (k - d.e).toNat

/-- Is the value k × 2^-s for an integer k? -/
def Dy.multipleOf (d : Dy) (s : Nat) : Bool := decide (0 ≤ d.e + s) || decide (d.m % 2 ^ (-(d.e + s)).toNat = 0)

def fexp2 (w : Word) : Word :=
  match f32Val w with
  | .nan => qnan
  | .inf n => if n then 0#32 else f32Inf false
  | .num d =>
    if d.m = 0 then 0x3F800000#32
    else if (Dy.mk 128 0).le d then f32Inf false
    else if d.lt ⟨-149, 0⟩ then 0#32
    else
      let x := d.units (-96)
      let k := x / 2 ^ 96
      -- the exact result lies from 2^k up to 2^(k + 1)
      boundedResult (Config.specialFn 0 w) (Enclosure.around (exp2Q (x % 2 ^ 96).toNat) (k - 96)) ⟨1, max (k - 23) (-149) + 1⟩

def flog2 (w : Word) : Word :=
  match f32Val w with
  | .nan => qnan
  | .inf n => if n then qnan else f32Inf false
  | .num d =>
    if d.m = 0 then f32Inf true
    else if d.m < 0 then qnan
    else if w = 0x3F800000#32 then 0#32
    else
      let r := Enclosure.around (d.exp * 2 ^ 96 + log2Q ((d.scale (-d.exp)).units (-96)).toNat) (-96)
      boundedResult (Config.specialFn 1 w) r ⟨1, r.ulp + 1⟩

/-- A reciprocal whose magnitude has no binary32 value overflows as R79 has it (DESIGN CHOICE, log entry 5). -/
def frecip (w : Word) : Word :=
  match f32Val w with
  | .nan => qnan
  | .inf n => f32Zero n
  | .num d =>
    if d.m = 0 then f32Inf (f32Neg w)
    else
      let q : Int := 2 ^ 200 / d.m
      let r : Enclosure := ⟨⟨q, -200 - d.e⟩, ⟨q + 1, -200 - d.e⟩⟩
      if (Fmt.top .fp32).lt (maxAbs [r.lo]) then f32Inf (f32Neg w) else boundedResult (Config.specialFn 2 w) r ⟨1, r.ulp⟩

def frsqrt (w : Word) : Word :=
  match f32Val w with
  | .nan => qnan
  | .inf n => if n then qnan else 0#32
  | .num d =>
    if d.m = 0 then f32Inf (f32Neg w)
    else if d.m < 0 then qnan
    else
      let e : Dy := if d.e % 2 = 0 then d else ⟨2 * d.m, d.e - 1⟩
      let q : Int := sqrtFloor (2 ^ 300 / e.m.natAbs)
      let r : Enclosure := ⟨⟨q, -150 - e.e / 2⟩, ⟨q + 1, -150 - e.e / 2⟩⟩
      boundedResult (Config.specialFn 3 w) r ⟨3, r.ulp - 1⟩

/-- The argument of a turn function reduced modulo 1, in units of 2^-149, which every binary32 value is a multiple of (R80). -/
def Dy.turns (d : Dy) : Nat := (d.units (-149) % 2 ^ 149).toNat
/-- The reduced argument in radians, from half a turn below 0 to half a turn above. -/
def turnAngle (n : Nat) : Int :=
  let x : Int := if n < 2 ^ 148 then n else (n : Int) - 2 ^ 149
  x * twoPiQ / 2 ^ 149

def fsin (w : Word) : Word :=
  match f32Val w with
  | .num d =>
    if d.m = 0 then w
    else if d.multipleOf 1 then 0#32
    else boundedResult (Config.turnFn true d.turns) (.around (trigQ true (turnAngle d.turns)) (-96)) ⟨1, -22⟩
  | _ => qnan

def fcos (w : Word) : Word :=
  match f32Val w with
  | .num d =>
    if d.turns = 0 then 0x3F800000#32
    else if d.multipleOf 2 && !d.multipleOf 1 then 0#32
    else boundedResult (Config.turnFn false d.turns) (.around (trigQ false (turnAngle d.turns)) (-96)) ⟨1, -22⟩
  | _ => qnan

/-- One lane of a vector unit operation (R108 to R110). R108 names the INT32 operations in words only; the model's set (DESIGN CHOICE,
log entry 79): a left and a logical right shift with the count modulo 32; and, or, xor; signed less-than and equality that give 1 or
0. -/
def vecLane (op : VecOp) (a b c : Word) : Word :=
  match op with
  | .add => fadd a b
  | .mul => fmul a b
  | .fma => ffma a b c
  | .min => fmin a b
  | .max => fmax a b
  | .exp2 => fexp2 a
  | .log2 => flog2 a
  | .recip => frecip a
  | .rsqrt => frsqrt a
  | .sin => fsin a
  | .cos => fcos a
  | .iadd => a + b
  | .isub => a - b
  | .imul => a * b
  | .ishl => a <<< (b.toNat % 32)
  | .ishr => a >>> (b.toNat % 32)
  | .iand => a &&& b
  | .ior => a ||| b
  | .ixor => a ^^^ b
  | .ilt => if a.slt b then 1#32 else 0#32
  | .ieq => if a = b then 1#32 else 0#32

end Sys2Proof
end

