-- ==== Sys2Proof/Machine/Flags.lean ====
section
/-! DEFINITION. The datum accumulator and its flags: contributions (R47 to R50, R73 to R75), merges (R59, R60), closes
(R65 to R68, R75), the arithmetic summary (R83) and the order of the status codes (R77). -/

namespace Sys2Proof.Machine

/-- The largest magnitude of an accumulator (R41). -/
def accTop : Int := 2 ^ 95 - 1

/-- An accumulator value held within its bounds, and whether it had to be (R47, R48). -/
def accSat (x : Int) : Int × Bool :=
  if accTop < x then (accTop, true) else if x < -accTop then (-accTop, true) else (x, false)

/-- Opening a group clears its accumulators, flags, discard count and AMAX_EXP (R42). -/
def openGroup (datum : Int) : Group := { datum := datum, isOpen := true, acc := List.replicate 16 0 }

/-- NaN or poison has reached the group (R75). -/
def Group.flagged (g : Group) : Bool := g.nan || g.poison

/-- DATUM_OVF that counts: a flagged group neither sets nor counts it (R75). -/
def Group.overflowed (g : Group) : Bool := g.ovf && !g.flagged

/-- The larger of two AMAX_EXP values, either of which may be not valid (R50, R59). -/
def amaxOf (a b : Option Int) : Option Int :=
  match a, b with
  | some x, some y => some (max x y)
  | some x, none => some x
  | none, y => y

/-- Adds an integer in datum units to accumulator i with saturation (R48). -/
def Group.addUnits (g : Group) (i : Nat) (n : Int) (isOver : Bool) : Group :=
  let sum := accSat (g.acc.getD i 0 + n)
  { g with acc := g.acc.set i sum.1, ovf := g.ovf || ((isOver || sum.2) && !g.flagged) }

/-- One contribution to accumulator i (R43, R47 to R50, R73): a poisoned one sets POISON and adds nothing (R74), and where what was read
validly of it is a NaN it sets NAN_SEEN as well. -/
def Group.contribute (g : Group) (i : Nat) (poisoned : Bool) (v : Val) : Group :=
  match poisoned, v with
  | true, .num _ => { g with poison := true }
  | true, _ => { g with poison := true, nan := true }
  | false, .nan | false, .inf _ => { g with nan := true }
  | false, .num d =>
    if d.m = 0 then g
    else
      let r := accSat (roundTo .rne 0 d g.datum)
      let g := g.addUnits i r.1 r.2
      { g with
        discard := if r.1 = 0 then sat 0xFFFF (g.discard + 1) else g.discard
        amax := amaxOf g.amax (some d.exp) }

/-- A group's accumulators at a larger datum, with how many of them lost bits (R60). -/
def realignAcc (acc : List Int) (up : Nat) : List Int × Nat :=
  (acc.map (fun a => roundTo .rne 0 ⟨a, 0⟩ up),
    (acc.filter (fun a => a % (2 ^ up : Int) ≠ 0)).length)

/-- A merge of two partial sums (R59, R60); the result keeps the first's place. -/
def Group.merge (a b : Group) : Group :=
  let d := max a.datum b.datum
  let ra := realignAcc a.acc (d - a.datum).toNat
  let rb := realignAcc b.acc (d - b.datum).toNat
  let sums := (List.range 16).map (fun i => accSat (ra.1.getD i 0 + rb.1.getD i 0))
  let fl := a.flagged || b.flagged
  { a with
    datum := d
    nan := a.nan || b.nan
    poison := a.poison || b.poison
    ovf := a.ovf || b.ovf || (sums.any (fun x => x.2) && !fl)
    realign := a.realign || b.realign || decide (a.datum ≠ b.datum)
    convSat := a.convSat || b.convSat
    discard := sat 0xFFFF (a.discard + b.discard + ra.2 + rb.2)
    amax := amaxOf a.amax b.amax
    acc := sums.map (fun x => x.1) }

/-- The image of a group on a tree (R124). -/
def Group.image (g : Group) (stage level step group : Nat) : GroupImage :=
  { stage := stage, level := level, step := step, group := group, datum := g.datum, ovf := g.ovf, nan := g.nan,
    poison := g.poison, realign := g.realign, discard := g.discard, amax := g.amax, acc := g.acc }

/-- The partial sum that an image carries. -/
def groupOfImage (m : GroupImage) : Group :=
  { datum := m.datum, isOpen := true, nan := m.nan, poison := m.poison, ovf := m.ovf, realign := m.realign,
    discard := m.discard, amax := m.amax, acc := m.acc }

/-! ### Closing a group -/

/-- The marker that a flagged group writes in every element of a scalar format (R75). -/
def nanMarker : Fmt → Nat
  | .bf16 => 0x7FC0
  | .int8 => 0x80
  | .int32 => 0x80000000
  | _ => 0x7FC00000

/-- Closes a group into a scalar format: sixteen codes, and the group as its registers then show it. -/
def Group.closeScalar (g : Group) (f : Fmt) (nc : NumCtl) (ord : Nat) (idx : Nat → Nat) : List Nat × Group :=
  if g.flagged then (List.replicate 16 (nanMarker f), { g with isOpen := false })
  else
    let cs := (List.range 16).map (fun i =>
      encodeVal f nc.rmode nc.e5m2Inf (stochasticR nc.seed ord (idx i)) ⟨g.acc.getD i 0, g.datum⟩)
    (cs.map Conv.code, { g with isOpen := false, convSat := g.convSat || cs.any Conv.sat })

/-- Closes an even and odd pair of groups into one MX block (R67, R68): the scale code, 32 element codes and the two
groups. -/
def closeMx (a b : Group) (f : Fmt) (nc : NumCtl) (ord : Nat) (idx : Nat → Nat) : Nat × List Nat × Group × Group :=
  if a.flagged || b.flagged then
    (0xFF, List.replicate 32 0, { a with isOpen := false }, { b with isOpen := false })
  else
    let vals := (List.range 16).map (fun i => (⟨a.acc.getD i 0, a.datum⟩ : Dy))
      ++ (List.range 16).map (fun i => (⟨b.acc.getD i 0, b.datum⟩ : Dy))
    let r := encodeBlock f nc.rmode nc ord idx vals
    (r.1, r.2.map Conv.code,
      { a with isOpen := false, convSat := a.convSat || (r.2.take 16).any Conv.sat },
      { b with isOpen := false, convSat := b.convSat || (r.2.drop 16).any Conv.sat })

/-! ### The arithmetic summary -/

/-- The summary over the groups that a stage opened, for a run at a base datum (R83). -/
def summaryOf (datum : Int) (replays : Nat) (gs : List Group) : Summary :=
  { amax := gs.foldl (fun m g => amaxOf m g.amax) none
    datumFinal := datum
    ovf := gs.any Group.overflowed
    nan := gs.any (fun g => g.nan)
    poison := gs.any (fun g => g.poison)
    realign := gs.any (fun g => g.realign)
    convSat := gs.any (fun g => g.convSat)
    replays := replays
    discards := sat 0xFFFFFFFF (gs.foldl (fun n g => n + g.discard) 0)
    ovfGroups := sat 0xFFFFFFFF (gs.filter Group.overflowed).length }

/-- Conversions outside groups report CONV_SAT and NAN_SEEN too (R83, R184, R571). -/
def Summary.withConv (s : Summary) (convSat nan : Bool) : Summary :=
  { s with convSat := s.convSat || convSat, nan := s.nan || nan }

/-- Poisoned operands outside groups are reported as poison (R74, R77). -/
def Summary.withPoison (s : Summary) (p : Bool) : Summary := { s with poison := s.poison || p }

/-- The first condition that applies, in the order of R77. -/
def Summary.status (s : Summary) : Status :=
  if s.poison then .poison else if s.ovf then .datumOvf else if s.nan then .nanSeen else .ok

/-- The words of DATUM_CTL and AMAX_EXP (R81, R82). -/
def Group.datumCtl (g : Group) : Word :=
  BitVec.ofNat 32 (signed 10 g.datum + bit 10 g.isOpen + bit 11 g.nan + bit 12 g.poison + bit 13 g.ovf
    + bit 14 g.realign + bit 15 g.convSat + fld 16 16 g.discard)
def Group.amaxExp (g : Group) : Word :=
  match g.amax with
  | none => 0#32
  | some e => BitVec.ofNat 32 (signed 10 e + 2 ^ 10)

end Sys2Proof.Machine
end

