-- ==== Sys2Proof/Machine/Memory.lean ====
section
/-! DEFINITION. Benches and slices: addresses (R145 to R147), byte and element access with the marks of uncorrectable
units (R154, R213 to R221), the slice cache (R159 to R162), error counting and logging (R222 to R225) and the
scheduling of row remaps (R229 to R232). -/

namespace Sys2Proof

/-! ### The rows that a peg instruction names (R187, R188) -/

/-- The row operands that an operation has, as a list of A, B, C, D flags, and whether it uses a broadcast register. -/
def PegOp.uses : PegOp → (Bool × Bool × Bool × Bool) × Bool
  | .add | .mul => ((true, true, false, true), false)
  | .scale => ((true, false, false, true), true)
  | .fma => ((true, true, false, true), true)
  | .resid | .conv => ((true, false, false, true), false)
  | .quant | .dequant => ((true, false, true, true), false)
  | .stat => ((true, false, false, false), false)
  | .napply => ((true, true, true, true), true)
  | .copy => ((true, false, false, true), false)
  | .fill => ((false, false, false, true), true)
  | .zero => ((false, false, false, true), false)
  | .bload => ((true, false, false, false), true)
  | .reserved => ((false, false, false, false), false)

/-- The rows that an instruction reads, and those that it writes (R188). -/
def PegInstr.reads (i : PegInstr) : List Nat :=
  let u := i.op.uses.1
  (if u.1 then [i.rowA] else []) ++ (if u.2.1 then [i.rowB] else []) ++ (if u.2.2.1 ∧ i.op ≠ .quant then [i.rowC] else [])
    ++ (if i.op = .resid then [i.rowD] else [])
def PegInstr.writes (i : PegInstr) : List Nat :=
  (if i.op.uses.1.2.2.2 then [i.rowD] else []) ++ (if i.op = .quant then [i.rowC] else [])

end Sys2Proof

namespace Sys2Proof.Machine

/-! ### Slice addresses (R146) -/

/-- The fold of a row's nine bits. -/
def rowFold (row : Nat) : Nat :=
  (row % 4) ^^^ (row / 4 % 4) ^^^ (row / 16 % 4) ^^^ (row / 64 % 4) ^^^ (row / 256 % 2)

/-- A slice address decoded: lamination, bank of the lamination, row, codeword and byte. -/
structure SliceCoord where
  lam : Nat
  bank : Nat
  row : Nat
  cw : Nat
  byte : Nat
  deriving DecidableEq, Repr

def decodeSA (sa : Nat) : SliceCoord :=
  let row := sa / 2 ^ 11 % 512
  { lam := sa / 2 ^ 20 % 8, bank := (sa / 2 ^ 9 % 4) ^^^ rowFold row, row := row, cw := sa / 8 % 64, byte := sa % 8 }

def encodeSA (c : SliceCoord) : Nat :=
  c.lam * 2 ^ 20 + c.row * 2 ^ 11 + (c.bank ^^^ rowFold c.row) * 2 ^ 9 + c.cw * 8 + c.byte

/-- The bank index of R144. -/
def SliceCoord.bankIx (c : SliceCoord) : Nat := 4 * c.lam + c.bank

/-- The slice address of byte 0 of a codeword by bank index. -/
def rowAddr (bankIx row cw : Nat) : Nat :=
  encodeSA { lam := bankIx / 4, bank := bankIx % 4, row := row, cw := cw, byte := 0 }

/-! ### Keys and marks -/

/-- The key of a byte: of a slice (true) or of a bench. -/
def memKey (inSlice : Bool) (j a : Nat) : Nat := if inSlice then j * 2 ^ 23 + a else j * 2 ^ 18 + a

def Mem.cells (m : Mem) (inSlice : Bool) : List Host.Cell := if inSlice then m.slice else m.bench
def Mem.marks (m : Mem) (inSlice : Bool) : NMap Nat := if inSlice then m.sliceMark else m.benchMark

/-- Reads n bytes at an address of a joist. -/
def readMem (m : Mem) (inSlice : Bool) (j a n : Nat) : List Byte := readBytes (m.cells inSlice) (memKey inSlice j a) n

/-- Some unit of n bytes at an address is uncorrectable or poisoned. -/
def badMem (m : Mem) (inSlice : Bool) (j a n : Nat) : Bool :=
  let k := memKey inSlice j a
  decide (0 < n) && (m.marks inSlice).any (fun e => decide (e.2 ≠ 0 ∧ k / 8 ≤ e.1 ∧ e.1 ≤ (k + n - 1) / 8))

/-- The marks after a write of n bytes: units written whole are clean, or poisoned when the data is; a bad unit written
in part is poisoned (R154, R215). -/
def remark (marks : NMap Nat) (k n : Nat) (poison : Bool) : NMap Nat :=
  (List.range (if n = 0 then 0 else (k + n - 1) / 8 - k / 8 + 1)).foldl (fun m i =>
    let u := k / 8 + i
    let whole := decide (k ≤ 8 * u ∧ 8 * u + 8 ≤ k + n)
    if poison then mset 0 m u 2
    else if whole then mset 0 m u 0
    else mmod 0 m u (fun v => if v = 0 then 0 else 2)) marks

/-- Does a write of n bytes meet a bad unit that it covers in part? -/
def mergeBad (m : Mem) (inSlice : Bool) (j a n : Nat) : Bool :=
  let k := memKey inSlice j a
  decide (0 < n) && (m.marks inSlice).any (fun e => decide (e.2 ≠ 0 ∧ k / 8 ≤ e.1 ∧ e.1 ≤ (k + n - 1) / 8
    ∧ ¬(k ≤ 8 * e.1 ∧ 8 * e.1 + 8 ≤ k + n)))

/-- The rows of a slice that n bytes at an address touch, by the key of Mem.touched. -/
def rowKey (j sa : Nat) : Nat := (j * 24 + (decodeSA sa).bankIx) * 512 + (decodeSA sa).row

/-- Writes bytes at an address of a joist, with their marks and, in a slice, the touch map of R417; a write-back that waits for
one of the codewords is dropped (R217). -/
def writeMem (inSlice : Bool) (j a : Nat) (data : List Byte) (poison : Bool) (m : Mem) : Mem :=
  let k := memKey inSlice j a
  if inSlice then
    { m with
      slice := writeBytes m.slice k data
      sliceMark := remark m.sliceMark k data.length poison
      ce2Queue := m.ce2Queue.filter (fun u => !decide (data ≠ [] ∧ k / 8 ≤ u ∧ u ≤ (k + data.length - 1) / 8))
      touched := (List.range ((data.length + 511) / 512 + 1)).foldl (fun t i =>
        if i * 512 < data.length + 511 ∧ data ≠ [] then
          mset false t (rowKey j (min (a + i * 512) (a + data.length - 1))) true else t) m.touched }
  else
    { m with bench := writeBytes m.bench k data, benchMark := remark m.benchMark k data.length poison }

/-- Clears every byte and mark of a key range to what memory reads as when nothing is listed. -/
def wipeRange (lo n : Nat) (m : List (Nat × α)) : List (Nat × α) := mkeep (fun k => !(decide (lo ≤ k ∧ k < lo + n))) m

/-- The whole bench of a joist becomes zero. -/
def wipeBench (j : Nat) (m : Mem) : Mem :=
  { m with bench := wipeRange (j * 2 ^ 18) (2 ^ 18) m.bench, benchMark := wipeRange (j * 2 ^ 15) (2 ^ 15) m.benchMark }
/-- The whole slice of a joist becomes zero with valid codewords, and its touch map is cleared. -/
def wipeSlice (j : Nat) (m : Mem) : Mem :=
  { m with
    slice := wipeRange (j * 2 ^ 23) (2 ^ 23) m.slice
    sliceMark := wipeRange (j * 2 ^ 20) (2 ^ 20) m.sliceMark
    hidden := wipeRange (j * (24 * 528 * 512)) (24 * 528 * 512) m.hidden
    hiddenMark := wipeRange (j * (24 * 528 * 64)) (24 * 528 * 64) m.hiddenMark
    ce2Queue := m.ce2Queue.filter (fun u => u / 2 ^ 20 ≠ j)
    touched := wipeRange (j * 24 * 512) (24 * 512) m.touched }

/-! ### Elements of tensors (R39, R147, R378) -/

/-- The address of byte b of a tensor's share, through its extents. -/
def extentAddr : List (Nat × Nat) → Nat → Nat
  | [], _ => 0
  | (base, len) :: l, b => if b < len then base + b else extentAddr l (b - len)

/-- The elements of a block (32) or a single element packed into a number (R39, R40). -/
def packCodes (bits : Nat) (codes : List Nat) : Nat :=
  codes.foldr (fun c n => c % 2 ^ bits + 2 ^ bits * n) 0
def unpackCode (bits n i : Nat) : Nat := n / 2 ^ (bits * i) % 2 ^ bits

/-- Bytes of n elements of a format, whole blocks for MX formats. -/
def fmtBytes (f : Fmt) (n : Nat) : Nat := if f.isMx then (n + 31) / 32 * (4 * f.bits) else n * (f.bits / 8)

/-- Reads n bytes of a tensor's share on a joist from byte offset b. -/
def tensorRead (m : Mem) (t : Tensor) (j b n : Nat) : List Byte :=
  (List.range n).map (fun i => mget 0 (m.cells t.inSlice) (memKey t.inSlice j (extentAddr t.extents (b + i))))
def tensorBad (m : Mem) (t : Tensor) (j b n : Nat) : Bool :=
  (List.range n).any (fun i => badMem m t.inSlice j (extentAddr t.extents (b + i)) 1)

/-- Writes bytes of a tensor's share, byte by byte through its extents in runs that stay within one extent. -/
def extentRuns : List (Nat × Nat) → Nat → List Byte → List (Nat × List Byte)
  | [], _, _ => []
  | (base, len) :: l, b, data =>
    if data = [] then []
    else if len ≤ b then extentRuns l (b - len) data
    else (base + b, data.take (len - b)) :: extentRuns l 0 (data.drop (len - b))

def tensorWrite (t : Tensor) (j b : Nat) (data : List Byte) (poison : Bool) (m : Mem) : Mem :=
  (extentRuns t.extents b data).foldl (fun m r => writeMem t.inSlice j r.1 r.2 poison m) m
def tensorMergeBad (m : Mem) (t : Tensor) (j b : Nat) (data : List Byte) : Bool :=
  (extentRuns t.extents b data).any (fun r => mergeBad m t.inSlice j r.1 r.2.length)

/-- A table entry by tensor index; an index beyond the table names a tensor of no bytes. -/
def tensorAt (img : Image) (i : Nat) : Tensor := img.tensors.getD i { fmt := .nofmt, inSlice := false, extents := [] }

/-- The bytes of element i of a packed run: the first, and how many. -/
def elemBytes (bits i : Nat) : Nat × Nat := (bits * i / 8, (bits * i % 8 + bits + 7) / 8)

/-- An element as it is loaded, with whether its own bytes or its scale were bad. Of a bad one nothing counts but a NaN that its
valid part shows, its element or its scale (R73, R74). -/
def loadedOperand (f : Fmt) (code scale : Nat) (bad scaleBad : Bool) : Operand :=
  if bad || scaleBad then
    let nan := (!scaleBad && f.isMx && decide (scale = 255)) || (!bad && (match decodeElem f code with | .num _ => false | _ => true))
    ⟨if nan then .nan else .num ⟨0, 0⟩, true⟩
  else ⟨decodeScaled f code scale, false⟩

/-- Block k of an MX tensor or sixteen-bit to thirty-two-bit element k of a scalar one: its elements with the scale
applied. -/
def tensorBlock (m : Mem) (img : Image) (ti j k : Nat) : List Operand :=
  let t := tensorAt img ti
  if t.fmt.isMx then
    let n := 4 * t.fmt.bits
    let code := leNat (tensorRead m t j (k * n) n)
    let sc := tensorAt img (t.scales.getD img.tensors.length)
    (List.range 32).map (fun i =>
      let b := elemBytes t.fmt.bits i
      loadedOperand t.fmt (unpackCode t.fmt.bits code i) (leNat (tensorRead m sc j k 1)) (tensorBad m t j (k * n + b.1) b.2)
        (tensorBad m sc j k 1))
  else
    let n := t.fmt.bits / 8
    [loadedOperand t.fmt (leNat (tensorRead m t j (k * n) n)) 0 (tensorBad m t j (k * n) n) false]

/-- Element i of a tensor's share on a joist. -/
def tensorElem (m : Mem) (img : Image) (ti j i : Nat) : Operand :=
  if (tensorAt img ti).fmt.isMx then (tensorBlock m img ti j (i / 32)).getD (i % 32) ⟨.nan, true⟩
  else (tensorBlock m img ti j i).getD 0 ⟨.nan, true⟩

/-- A word and whether it was bad; a bad one counts as zero. -/
def loadedWord (w : Word) (bad : Bool) : Word × Bool := (if bad then 0#32 else w, bad)

/-- Element i as the vector unit loads it: widened or rounded once to FP32, and integers as they are (R79, R108). -/
def tensorWord (m : Mem) (img : Image) (ti j i : Nat) : Word × Bool :=
  let t := tensorAt img ti
  match t.fmt with
  | .fp32 | .int32 => loadedWord (BitVec.ofNat 32 (leNat (tensorRead m t j (4 * i) 4))) (tensorBad m t j (4 * i) 4)
  | .bf16 => loadedWord (widenBf16 (leNat (tensorRead m t j (2 * i) 2))) (tensorBad m t j (2 * i) 2)
  | .int8 => loadedWord (BitVec.ofInt 32 (decodeInt 8 (leNat (tensorRead m t j i 1)))) (tensorBad m t j i 1)
  | _ => let o := tensorElem m img ti j i; (toF32 o.val, o.bad)

/-- Writes scalar codes of a tensor from element i on. -/
def writeCodes (img : Image) (ti j i : Nat) (codes : List Nat) (poison : Bool) (m : Mem) : Mem :=
  let t := tensorAt img ti
  let n := t.fmt.bits / 8
  tensorWrite t j (i * n) (codes.flatMap (leBytes n)) poison m

/-- Writes block k of an MX tensor: 32 element codes and the scale byte. -/
def writeBlock (img : Image) (ti j k : Nat) (scale : Nat) (codes : List Nat) (poison : Bool) (m : Mem) : Mem :=
  let t := tensorAt img ti
  let n := 4 * t.fmt.bits
  let sc := tensorAt img (t.scales.getD img.tensors.length)
  tensorWrite sc j k (leBytes 1 scale) poison (tensorWrite t j (k * n) (leBytes n (packCodes t.fmt.bits codes)) poison m)

/-! ### The slice cache (R159 to R161) -/

def cacheSet (sa : Nat) : Nat := sa / 64 % 64

/-- Makes room for one line in a set of 8 ways: the least recently used unprotected line leaves. -/
def cacheEvict (l : List CacheLine) (j set : Nat) : List CacheLine :=
  let mine := l.filter (fun c => c.joist = j ∧ cacheSet c.addr = set)
  if mine.length < 8 then l
  else
    match mine.find? (fun c => !c.isProtected) with
    | none => l.filter (fun c => c ≠ mine.headD ⟨0, 0, false, false⟩)
    | some v => l.filter (fun c => c ≠ v)

/-- Removes the protection of the oldest protected line of a set that already holds four. -/
def cacheUnprotect (l : List CacheLine) (j set : Nat) : List CacheLine :=
  let mine := l.filter (fun c => c.joist = j ∧ cacheSet c.addr = set ∧ c.isProtected)
  if mine.length < 4 then l
  else l.map (fun c => if some c = mine.head? then { c with isProtected := false } else c)

/-- One access to the line of a slice address; the narrow path serves a line that the cache holds, writes into it, and allocates
none (R158). -/
def cacheAccess (hint : PortPath) (isWrite : Bool) (j sa : Nat) (l : List CacheLine) : List CacheLine :=
  let base := sa / 64 * 64
  let others := l.filter (fun c => !(c.joist = j ∧ c.addr = base))
  match l.find? (fun c => c.joist = j ∧ c.addr = base) with
  | some c =>
    match hint with
    | .normal => others ++ [{ c with dirty := c.dirty || isWrite }]
    | .stream => if isWrite then others else l
    | .keep => cacheUnprotect others j (cacheSet base) ++ [{ c with dirty := c.dirty || isWrite, isProtected := true }]
    | .lastUse => others
    | .narrow => l.map (fun x => if x = c then { c with dirty := c.dirty || isWrite } else x)
  | none =>
    match hint with
    | .normal => cacheEvict l j (cacheSet base) ++ [⟨j, base, isWrite, false⟩]
    | .keep => cacheEvict (cacheUnprotect l j (cacheSet base)) j (cacheSet base) ++ [⟨j, base, isWrite, true⟩]
    | .stream | .lastUse | .narrow => l

/-- The accesses of a tensor of slice bytes, a line at a time. -/
def cacheTensor (hint : PortPath) (isWrite : Bool) (t : Tensor) (j : Nat) (l : List CacheLine) : List CacheLine :=
  if t.inSlice then
    t.extents.foldl (fun l e =>
      (List.range ((e.1 % 64 + e.2 + 63) / 64)).foldl (fun l i => cacheAccess hint isWrite j (e.1 / 64 * 64 + i * 64) l) l) l
  else l

/-- A row's lines are written back and invalidated before a peg or a copy reads it (R162, R233). -/
def cacheDropRow (j bankIx row : Nat) (l : List CacheLine) : List CacheLine :=
  l.filter (fun c => !(c.joist = j ∧ (decodeSA c.addr).bankIx = bankIx ∧ (decodeSA c.addr).row = row))

/-- Protection ends when the bay of a joist changes (R161). -/
def cacheUnprotectJoists (js : List Nat) (l : List CacheLine) : List CacheLine :=
  l.map (fun c => if js.contains c.joist then { c with isProtected := false } else c)

/-! ### Error logs and counters (R221 to R225) -/

/-- The joist number that stands for the hub's SRAMs; its log is log 4. -/
def hubJoist : Nat := 0xFFFF0000
def logOf (j : Nat) : Nat := if j = hubJoist then 4 else keyBent j
def bankKey (j unit : Nat) : Nat := j * 32 + (if unit < 24 then unit else 24)

def pushEcc (n : Nat) (e : EccEntry) (x : Ecc) : Ecc :=
  { x with logs := mmod {} x.logs n (fun l =>
      { l with
        entries := (l.entries ++ [e]).drop (l.entries.length + 1 - 256)
        head := (l.head + 1) % 256
        wrapped := l.wrapped || decide (256 ≤ l.entries.length)
        lost := if 256 ≤ l.entries.length then sat 0xFFFF (l.lost + 1) else l.lost }) }

/-- The log entry of an event (R224). -/
def eccEntry (kind : Nat) (f : Finding) (syndrome : BitVec 16) (s : State) : EccEntry :=
  { stamp := (if f.joist = hubJoist then hclkNow s else aclkNow s (keyBent f.joist)) % 2 ^ 48,
    pjoist := if f.joist = hubJoist then 0xFFFF else keyIndex f.joist, unit := f.unit, kind := kind,
    src := f.src, row := f.row, cw := f.cw, syndrome := syndrome }

/-- Enters an event in the log of its block (R224). -/
def eccLog (kind : Nat) (f : Finding) (syndrome : BitVec 16) (s : State) : State :=
  s.onEcc (pushEcc (logOf f.joist) (eccEntry kind f syndrome s))

/-- The fields of R224 as the MRAM event log carries them (R573): STAMP, PJOIST, UNIT, KIND, ROW, CW, and the reserved byte
with SYNDROME behind it. -/
def findingData (kind : Nat) (f : Finding) (syndrome : BitVec 16) (s : State) : List Int :=
  let e := eccEntry kind f syndrome s
  [(e.stamp : Int), e.pjoist, e.unit, e.kind + 16 * e.src, e.row, e.cw, 256 * e.syndrome.toNat]
def findingSource (f : Finding) : Nat := if f.joist = hubJoist then 1 else 0x10 + keyBent f.joist

/-! ### Scheduling a remap (R229 to R232) -/

/-- Spare rows of a bank that a remap holds. -/
def sparesHeld (s : State) (j bank : Nat) : List Nat :=
  (s.kp.remaps.filter (fun r => r.joist = j ∧ r.bank = bank)).map (fun r => r.spare)
/-- Spare rows of a bank that rows have moved to: SPARES_USED counts them (R223). -/
def sparesUsed (s : State) (j bank : Nat) : List Nat :=
  ((s.kp.remaps.filter (fun r => r.joist = j ∧ r.bank = bank ∧ r.isDone)).map (fun r => r.spare)).eraseDups
/-- A spare that R231 may choose. -/
def spareUsable (s : State) (j bank sp : Nat) : Bool :=
  !(sparesHeld s j bank).contains sp && !s.ecc.badSpares.contains (j * 32 + bank, sp)
/-- The MRAM remap table is full (R225, R235). -/
def tableFull (s : State) : Bool := decide (65536 ≤ s.kp.remaps.length)

/-- Is the row position in ROW form a spare row (R224)? -/
def rowIsSpare (row : Nat) : Bool := decide (8192 ≤ row)
def spareIx (row : Nat) : Nat := row / 512 % 16

/-- The data row that a row position holds: itself, or the row remapped to the spare. -/
def dataRow (s : State) (j bank row : Nat) : Option Nat :=
  if rowIsSpare row then
    (s.kp.remaps.find? (fun r => r.joist = j ∧ r.bank = bank ∧ r.spare = spareIx row ∧ r.isDone)).map (fun r => r.row)
  else some row

/-- ROW of a data row: the row, with its spare where a remap has moved it (R224). -/
def rowForm (s : State) (j bank row : Nat) : Nat :=
  match s.kp.remaps.find? (fun r => r.joist = j ∧ r.bank = bank ∧ r.row = row ∧ r.isDone) with
  | some r => 8192 + 512 * r.spare + row
  | none => row

/-- Is the row already scheduled, or already remapped and not itself the spare that failed? -/
def remapped (s : State) (j bank row : Nat) (viaSpare : Bool) : Bool :=
  s.kp.remaps.any (fun r => r.joist = j ∧ r.bank = bank ∧ r.row = row ∧ (!r.isDone ∨ !viaSpare))

/-- A page set's rows lie in one lamination, eight in each of its banks (R210). -/
def pageHasRow (q bank row : Nat) : Bool := decide (q / 64 = bank / 4 ∧ q % 64 = row / 8)

/-- A program's sequence pins a row that its list names in its banks, from its first segment to its end; a sequence of the device's own
runs in one event, so it pins its rows for no other (R209, R212; DEDUCED, log entry 81). -/
def rowPinned (s : State) (joist bank row : Nat) : Bool :=
  let x := s.joist joist
  x.pegBegun && x.pegBanks.contains bank && x.pegList.any (fun i => (i.reads ++ i.writes).contains row)

/-- Step 1 of R232 is complete for an entry: with the row pinned, the copy waits for a reset of the controller. -/
def Remap.recorded (s : State) (r : Remap) : Remap :=
  { r with unwritten := false, atReset := !r.isDone && rowPinned s r.joist r.bank r.row }

/-- The log entries of a remap: KIND 5 done, 6 pending, with the target spare (R224, R573). -/
def logRemap (kind : Nat) (f : Finding) (sp : Nat) (s : State) : State :=
  logEvent 0x0002 (findingSource f) (findingData kind f (BitVec.ofNat 16 sp) s) (eccLog kind f (BitVec.ofNat 16 sp) s)

/-- Step 1 of R232: the entry is written to MRAM, or waits for its temperature window. -/
def addRemap (f : Finding) (row sp : Nat) (hadUe : Bool) (s : State) : State :=
  let e : Remap := { joist := f.joist, bank := f.unit, row := row, spare := sp, isDone := false, hadUe := hadUe }
  let e := if mramOpen s then e.recorded s else { e with unwritten := true }
  logRemap 6 f sp (s.onKp (fun k => { k with remaps := k.remaps ++ [e] }))

/-- A pending remap whose source now meets an uncorrectable error says so (R235). -/
def noteSourceUe (f : Finding) (row : Nat) (s : State) : State :=
  s.onKp (fun k => { k with remaps := k.remaps.map (fun r =>
    if r.joist = f.joist ∧ r.bank = f.unit ∧ r.row = row ∧ r.isDone = false then { r with hadUe := true } else r) })

/-- Schedules a row for remapping, or takes the no-spare outcome of R231; the syndrome is the one just read. -/
def scheduleRemap (f : Finding) (hadUe : Bool) (syndrome : BitVec 16) (s : State) : State :=
  match dataRow s f.joist f.unit f.row with
  | none => s
  | some row =>
    if remapped s f.joist f.unit row (rowIsSpare f.row) then (if hadUe then noteSourceUe f row s else s)
    else
      match lowestFree (spareUsable s f.joist f.unit) 0 16 with
      | none => eccLog 4 f syndrome s
      | some sp =>
        if tableFull s then
          eccLog 4 f syndrome (s.onEcc (fun x => { x with sparesOut := (bankKey f.joist f.unit :: x.sparesOut).eraseDups }))
        else addRemap f row sp hadUe s

/-- Twenty-four hours of the keeper's oscillator (R229). -/
def dayTicks : Nat := 24 * 3600 * 25000000

/-- Enters a row in its bent's candidate table (R230), or finds the second CE2 within 24 hours. -/
def noteCe2 (f : Finding) (syndrome : BitVec 16) (s : State) : State :=
  let b := keyBent f.joist
  let now := keeperNow s
  let live := (mget [] s.ecc.candidates b).filter (fun c => decide (now < c.time + dayTicks))
  if live.any (fun c => c.joist = f.joist ∧ c.bank = f.unit ∧ c.row = f.row) then scheduleRemap f false syndrome s
  else
    let kept := if live.length < 64 then live else
      let oldest := live.foldl (fun m c => min m c.time) now
      live.eraseP (fun c => c.time = oldest)
    s.onEcc (fun x => { x with candidates := mset [] x.candidates b (kept ++ [⟨f.joist, f.unit, f.row, now⟩]) })

/-! ### What an error that a read meets does (R214, R216 to R221) -/

/-- The unit of a slice codeword, or of a bench word (banks laid end to end, DEDUCED, log entry 12). -/
def markKey (f : Finding) : Nat :=
  if f.unit < 24 then memKey true f.joist (rowAddr f.unit (f.row % 512) f.cw) / 8
  else f.joist * 2 ^ 15 + (f.unit - 0x20) * 4096 + (f.row + f.cw * 65536) % 4096

/-- A row position that holds stored data: a data row, or a spare row that holds a remap. -/
def holdsData (s : State) (f : Finding) : Bool := (dataRow s f.joist f.unit f.row).isSome

/-- A physical row of a bank, by row position: data rows 0 to 511, spares from 512 on. -/
def placeKey (j bank pos : Nat) : Nat := (j * 24 + bank) * 528 + pos
/-- The codeword of a spare row that holds no remap. -/
def spareKey (f : Finding) : Nat := placeKey f.joist f.unit (512 + spareIx f.row) * 64 + f.cw
/-- A word of an instruction cache, of peg buffers or of framer SRAM. -/
def sramKey (f : Finding) : Nat :=
  ((if f.joist = hubJoist then 6000 else f.joist) * 64 + f.unit) * 2 ^ 24 + (f.row + f.cw * 65536) % 2 ^ 24
/-- SRAMs whose words keep what they hold from one read to the next: a word of the slice cache leaves with its line, packet
SRAM with its packet, a hub DMA buffer with its transfer (DEDUCED, log entry 12). -/
def keepsWord (unit : Nat) : Bool := [0x29, 0x2A, 0x32].contains unit

/-- The mark of a unit: 0 none, 1 uncorrectable, 2 poisoned. -/
def markOf (s : State) (f : Finding) : Nat :=
  if f.unit < 24 then
    if holdsData s f then mget 0 s.mem.sliceMark (markKey f) else mget 0 s.mem.hiddenMark (spareKey f)
  else if 0x20 ≤ f.unit ∧ f.unit < 0x28 then mget 0 s.mem.benchMark (markKey f)
  else mget 0 s.mem.sramMark (sramKey f)
def unitBad (s : State) (f : Finding) : Bool := decide (markOf s f ≠ 0)

/-- The class that the unit's code gives (R213, R214): SEC-DED corrects one bit, so that two are uncorrectable, and further bit errors
leave a unit that is already uncorrectable or poisoned so. -/
def classed (s : State) (f : Finding) : Finding :=
  if f.kind ≠ .ue ∧ (unitBad s f ∨ (24 ≤ f.unit ∧ f.kind = .ce2)) then { f with kind := .ue } else f

/-- Marks a unit: 1 uncorrectable, 2 poisoned. -/
def markUnit (f : Finding) (v : Nat) (s : State) : State :=
  if f.unit < 24 then
    if holdsData s f then s.onMem (fun m => { m with sliceMark := mset 0 m.sliceMark (markKey f) v })
    else s.onMem (fun m => { m with hiddenMark := mset 0 m.hiddenMark (spareKey f) v })
  else if 0x20 ≤ f.unit ∧ f.unit < 0x28 then s.onMem (fun m => { m with benchMark := mset 0 m.benchMark (markKey f) v })
  else if keepsWord f.unit then s.onMem (fun m => { m with sramMark := mset 0 m.sramMark (sramKey f) v })
  else s

def countCe (f : Finding) (two : Bool) (s : State) : State :=
  s.onEcc (fun x => { x with ce := mmod {} x.ce (bankKey f.joist f.unit) (fun c =>
    if two then { c with ce2 := sat 0xFFFF (c.ce2 + 1) } else { c with ce1 := sat 0xFFFF (c.ce1 + 1) }) })
def countUe (f : Finding) (s : State) : State :=
  s.onEcc (fun x => { x with ue := mmod {} x.ue (bankKey f.joist f.unit) (fun c => { c with ue := sat 0xFFFF (c.ue + 1) }) })
def countPoison (f : Finding) (s : State) : State :=
  s.onEcc (fun x => { x with ue := mmod {} x.ue (bankKey f.joist f.unit) (fun c =>
    { c with poisonRd := sat 0xFF (c.poisonRd + 1) }) })

/-- A raw syndrome that a decoder reads: a free value that is never zero; of eight bits and not the marker's 0xFF in an SRAM
word (R213, R572; DESIGN CHOICE, log entry 7). -/
def freshSyndrome (f : Finding) (s : State) : BitVec 16 :=
  let v := (Config.syndrome (drawNo s)).toNat
  if f.unit < 24 then BitVec.ofNat 16 (1 + v % 65535) else BitVec.ofNat 16 (1 + v % 254)

/-- The line of the slice cache that holds a word of it: 64 sets of 8 lines of 8 words. -/
def lineOf (l : List CacheLine) (f : Finding) : Option CacheLine :=
  let w := (f.row + f.cw * 65536) % 4096
  (l.filter (fun c => c.joist = f.joist ∧ cacheSet c.addr = w / 64))[w / 8 % 8]?

/-- A slice cache word that cannot be corrected: its line is dropped, and a dirty one leaves the marker in the slice (R219). -/
def loseLine (f : Finding) (s : State) : State :=
  match lineOf s.joi.cache f with
  | none => s
  | some c =>
    let s := s.onJoi (fun x => { x with cache := x.cache.filter (fun e => e ≠ c) })
    if c.dirty then s.onMem (fun m => { m with sliceMark := mset 0 m.sliceMark (memKey true c.joist (c.addr + f.row % 8 * 8) / 8) 2 })
    else s

/-- A corrected SRAM word waits for a free cycle of its bank to be written back (R218). -/
def queueWord (f : Finding) (s : State) : State :=
  if 24 ≤ f.unit then s.onEcc (fun x => { x with writebacks := x.writebacks ++ [(f.joist, f.unit, f.row + f.cw * 65536)] }) else s
/-- A codeword that a peg read has corrected twice waits for the end of its segment (R217); other reads write it back at once. -/
def queueCe2 (f : Finding) (s : State) : State :=
  if f.src = 3 ∧ holdsData s f then s.onMem (fun m => { m with ce2Queue := (m.ce2Queue ++ [markKey f]).eraseDups }) else s

/-- One error met by a read of a requester: counted, logged and followed up. A bank that the variant does not address has none (R3). A
UE schedules its row for remapping (R229); a poison read schedules none, although R219 handles it like a UE (DESIGN CHOICE, log
entry 84). -/
def meet (f : Finding) (s : State) : State :=
  if f.unit < 24 ∧ bankCount s ≤ f.unit then s else
  let f := classed s f
  let syn := freshSyndrome f s
  let s := spend 1 s
  match f.kind with
  | .ce1 => queueWord f (eccLog 0 f syn (countCe f false s))
  | .ce2 => queueCe2 f (noteCe2 f syn (eccLog 1 f syn (countCe f true s)))
  | .ue =>
    if unitBad s f then eccLog 3 f (if f.unit < 24 ∨ markOf s f = 1 then syn else 0xFF) (countPoison f s)
    else
      let s := logEvent 0x0001 (findingSource f) (findingData 2 f syn s) (eccLog 2 f syn (markUnit f 1 (countUe f s)))
      if f.unit < 24 then scheduleRemap f true syn s else if f.unit = 0x28 then loseLine f s else s

def meetAll (fs : List Finding) (s : State) : State := fs.foldl (fun s f => meet f s) s

/-- The findings of a list of poison reads: a unit already marked that a read covers (R219, R221). -/
def poisonReads (s : State) (inSlice : Bool) (j a n src : Nat) : List Finding :=
  let k := memKey inSlice j a
  if n = 0 then []
  else (s.mem.marks inSlice).filterMap (fun e =>
    if e.2 ≠ 0 ∧ k / 8 ≤ e.1 ∧ e.1 ≤ (k + n - 1) / 8 then
      if inSlice then
        let c := decodeSA (e.1 * 8 % 2 ^ 23)
        some { joist := j, unit := c.bankIx, row := rowForm s j c.bankIx c.row, cw := c.cw, kind := .ue, src := src }
      else
        let w := e.1 % 2 ^ 15
        some { joist := j, unit := 0x20 + w / 4096, row := w % 4096, cw := 0, kind := .ue, src := src }
    else none)

/-- A unit whose error a read has just found: the same read is no poison read of it. -/
def justFound (found : List Finding) (f : Finding) : Bool :=
  found.any (fun g => g.kind == .ue && decide (g.joist = f.joist ∧ markKey g = markKey f ∧ (g.unit < 24 ↔ f.unit < 24)))

end Sys2Proof.Machine
end

