-- ==== Sys2Proof/Machine/ImageBytes.lean ====
section
/-! DEFINITION. The program image as the framer reads it, byte by byte: its header, tables, stage descriptors and the structures
they name (R51, R52, R123, R129, R135, R140, R186, R187, R192, R278, R279, R293, R377 to R382, R577), with the fields that R13
reserves. -/

namespace Sys2Proof

open Sys2Proof.Machine

/-! ### Fields -/

/-- The n-byte field at an offset (R11). -/
def u (b : List Byte) (i n : Nat) : Nat := leNat ((b.drop i).take n)
/-- The same field as a two's-complement number. -/
def i16 (b : List Byte) (i : Nat) : Int := (BitVec.ofNat 16 (u b i 2)).toInt

/-- A fault: whether it is there, its byte in its structure, and BAD_WHERE (R373). -/
abbrev FieldFault := Bool × Nat × Nat

/-- Bytes that the layout reserves, from lo on (R13). -/
def reservedBytes (b : List Byte) (lo n where_ : Nat) : List FieldFault :=
  (List.range n).map (fun i => (decide (u b (lo + i) 1 ≠ 0), lo + i, where_))

/-- The format codes of R380. -/
def fmtCode : Nat → Option Fmt
  | 0x00 => some .nofmt | 0x01 => some .e4m3 | 0x02 => some .e5m2 | 0x03 => some .e2m3 | 0x04 => some .e3m2
  | 0x05 => some .e2m1 | 0x06 => some .mxint8 | 0x10 => some .bf16 | 0x11 => some .fp32 | 0x12 => some .int32
  | 0x13 => some .int8 | _ => none
def fmtAt (b : List Byte) (i : Nat) : Fmt := (fmtCode (u b i 1)).getD .nofmt
def badFmt (b : List Byte) (i where_ : Nat) : FieldFault := ((fmtCode (u b i 1)).isNone, i, where_)

def rmodeOf : Nat → RMode
  | 0 => .rne | 1 => .rtz | 2 => .stoch | _ => .reserved

/-- The numeric control field of R51, with the rounding seed. -/
def numCtl (w : Nat) (seed : Nat) : NumCtl :=
  { datum := (BitVec.ofNat 10 w).toInt, replay := w.testBit 10, rmode := rmodeOf (w / 2 ^ 11 % 4), e5m2Inf := w.testBit 13
    scaleCeil := w.testBit 14, reservedBit := w.testBit 15, seed := BitVec.ofNat 32 seed }

/-! ### Peg instructions (R186, R187) -/

def pegOpcode : Nat → PegOp
  | 0x01 => .add | 0x02 => .mul | 0x03 => .scale | 0x04 => .fma | 0x05 => .resid | 0x06 => .conv | 0x07 => .quant
  | 0x08 => .dequant | 0x09 => .stat | 0x0A => .napply | 0x0B => .copy | 0x0C => .fill | 0x0D => .zero | 0x0E => .bload
  | _ => .reserved

/-- One 16-byte instruction. -/
def pegInstr (b : List Byte) : PegInstr :=
  let ctl := u b 3 1
  { op := pegOpcode (u b 0 1), fmtIn := fmtAt b 1, fmtOut := fmtAt b 2, breg := ctl % 8, rmode := rmodeOf (ctl / 8 % 4)
    e5m2Inf := ctl.testBit 5, scaleCeil := ctl.testBit 6, statOut := ctl.testBit 7
    rowA := u b 4 2, rowB := u b 6 2, rowC := u b 8 2, rowD := u b 10 2, col := u b 12 1
    slot := u b 13 1 % 64, vlen := u b 13 1 / 64, count := u b 14 2 }

/-- Instruction n of a list in the layout maps. -/
def instrAt (m : List Byte) (list n : Nat) : List Byte := (m.drop (list + 16 * n)).take 16

/-! ### Descriptors: d are the 64 bytes of one, m the layout map region -/

def stripeOf (d : List Byte) (s first off rec_ : Nat) : Stripe :=
  { s := u d s 1, first := u d first 2, regionOff := u d off 2, recBytes := u d rec_ 2 }

/-- ATTEND and ATTEND_BWD with the parameter block (R278, R279). -/
def attDesc (d m : List Byte) : AttDesc :=
  let p := (m.drop (u d 48 4)).take 64
  let ctl := u d 17 1
  { vision := u d 16 1 == 0, causal := ctl.testBit 0, windowed := ctl.testBit 1, bitmask := ctl.testBit 2, expand := ctl.testBit 3
    saveStats := ctl.testBit 4, includeNew := ctl.testBit 5, halves := ctl.testBit 6, cacheFmt := fmtAt d 18, qFmt := fmtAt d 19
    outFmt := fmtAt d 20, heads := u d 21 1, kGroups := u d 22 1, stripe := stripeOf d 23 30 32 34, latent := u d 24 2
    headDim := u d 26 2, ropeDim := u d 28 1, win := u d 29 1, span := u d 36 2, maskStride := u d 38 2
    scale := BitVec.ofNat 32 (u d 40 4), maxRows := u d 44 2, kexpDatum := i16 d 46, entryFirst := u d 52 1
    entryCount := u d 53 1, wFmt := fmtAt d 54
    qSrc := u p 0 4, outDst := u p 4 4, wuk := u p 8 4, wuv := u p 12 4, posTab := u p 16 4, mask := u p 20 4
    stateOff := u p 24 4, statsOff := u p 28 4, doSrc := u p 32 4, oSrc := u p 36 4, dqDst := u p 40 4, dcDst := u p 44 4
    gradFmt := fmtAt p 48, dcRecs := u p 52 4 }
def attReserved (d m : List Byte) : List FieldFault :=
  let p := (m.drop (u d 48 4)).take 64
  [(decide (1 < u d 16 1), 16, 0), (decide (127 < u d 17 1), 17, 0), badFmt d 18 0, badFmt d 19 0, badFmt d 20 0,
   (decide (u d 48 4 % 64 ≠ 0 ∨ m.length < u d 48 4 + 64), 48, 0), badFmt d 54 0, badFmt p 48 3]
    ++ reservedBytes d 55 9 0 ++ reservedBytes p 49 3 3 ++ reservedBytes p 56 8 3

def scatDesc (d : List Byte) : ScatDesc := { stripe := stripeOf d 16 18 20 22, src := u d 24 4 }

/-- PEG_SEQ with its instruction list (R192). -/
def pegDesc (d m : List Byte) : PegDesc :=
  { list := (List.range (min 1025 (u d 20 2))).map (fun n => pegInstr (instrAt m (u d 16 4) n))
    statGroups := bitsOf 8 (u d 22 1), overlap := (u d 23 1).testBit 0, banks := bitsOf 24 (u d 24 4), join := u d 28 2
    bcast := (List.range 8).map (fun k => BitVec.ofNat 32 (u d (32 + 4 * k) 4)) }
def pegReserved (d m : List Byte) : List FieldFault :=
  [(decide (u d 16 4 % 16 ≠ 0 ∨ m.length < u d 16 4 + 16 * u d 20 2), 16, 0), (decide (1 < u d 23 1), 23, 0)]
    ++ reservedBytes d 27 1 0 ++ reservedBytes d 30 2 0
    ++ (List.range (min 1024 (u d 20 2))).flatMap (fun n =>
      [((fmtCode (u (instrAt m (u d 16 4) n) 1 1)).isNone, 16 * n + 1, 2),
       ((fmtCode (u (instrAt m (u d 16 4) n) 2 1)).isNone, 16 * n + 2, 2)])

/-- The exchange fields at their offsets, with the list in the layout maps (R123, R129, R135). -/
def exchOf (d m : List Byte) (cAt pAt lAt wAt wLen bAt tAt : Nat) : Exch :=
  let n := u d cAt 2
  { count := n, pos := u d pAt 2
    list := if 2 ≤ n ∧ n ≤ 1024 then (List.range n).map (fun k => u m (u d lAt 4 + 4 * k) 4) else []
    landing := u d wAt wLen, peerBay := u d bAt 1, awaitTimeout := u d tAt 4 }
/-- EXCH_LIST is reserved without an exchange, and lies in the layout maps with one. -/
def exchListFault (d m : List Byte) (cAt lAt : Nat) : FieldFault :=
  (decide ((u d cAt 2 = 0 ∧ u d lAt 4 ≠ 0) ∨ (2 ≤ u d cAt 2 ∧ m.length < u d lAt 4 + 4 * u d cAt 2)), lAt, 0)

def redOpcode : Nat → RedOp
  | 0 => .sumDatum | 1 => .sumFp32 | 2 => .maxFp32 | 3 => .minFp32 | _ => .reserved
def redDesc (d m : List Byte) : RedDesc :=
  { op := redOpcode (u d 16 1), toAll := u d 17 1 == 1, modeReserved := decide (1 < u d 17 1), groups := bitsOf 8 (u d 18 1)
    outFmt := fmtAt d 19, elements := u d 20 2, src := u d 24 4, dst := u d 28 4, exch := exchOf d m 32 34 36 40 2 42 44 }
def redReserved (d m : List Byte) : List FieldFault :=
  [badFmt d 19 0, exchListFault d m 32 36] ++ reservedBytes d 22 2 0 ++ reservedBytes d 43 1 0 ++ reservedBytes d 48 16 0

def cullDesc (d m : List Byte) : CullDesc :=
  let ctl := u d 17 1
  { k := u d 16 1, smallest := ctl.testBit 0, sample := ctl.testBit 1, inBf16 := ctl.testBit 2, toAll := ctl.testBit 3
    rows := u d 18 1, segLen := u d 20 4, src := u d 24 4, dst := u d 28 4, posBase := u d 32 4
    invTemp := BitVec.ofNat 32 (u d 36 4), exch := exchOf d m 40 42 44 48 2 50 52 }
def cullReserved (d m : List Byte) : List FieldFault :=
  [(decide (15 < u d 17 1), 17, 0), exchListFault d m 40 44] ++ reservedBytes d 19 1 0 ++ reservedBytes d 51 1 0 ++ reservedBytes d 56 8 0

def statsDesc (d : List Byte) : StatsDesc :=
  { source := u d 16 1, histGroups := (u d 17 1).testBit 0, accum := (u d 17 1).testBit 1, tensor := u d 18 2
    histBase := i16 d 20, channels := u d 22 2, window := u d 24 2, offset := u d 28 4 }
def statsReserved (d : List Byte) : List FieldFault :=
  [(decide (3 < u d 17 1), 17, 0)] ++ reservedBytes d 26 2 0 ++ reservedBytes d 32 32 0

def exchangeDesc (d : List Byte) : ExchangeDesc :=
  { peer := u d 16 2, window := u d 18 1, imm := (u d 19 1).testBit 0, first := u d 20 2, count := u d 22 2, src := u d 24 4
    length := u d 28 4, dst := u d 32 4, stride := u d 36 4, senderPos := u d 40 2, peerBay := u d 42 1 }
def exchangeReserved (d : List Byte) : List FieldFault := [(decide (1 < u d 19 1), 19, 0)] ++ reservedBytes d 43 21 0

def awaitDesc (d : List Byte) : AwaitDesc := { window := u d 16 1, count := u d 18 2, timeout := u d 20 4 }
def awaitReserved (d : List Byte) : List FieldFault := reservedBytes d 17 1 0 ++ reservedBytes d 24 40 0

/-- Operations whose bytes 16 to 63 R380 leaves to the layout of the toolchain. -/
def toolchainOp (op : Nat) : Bool := [0x01, 0x02, 0x03, 0x07, 0x08, 0x0C].contains op
/-- The operation code of a stage's work (R380). -/
def StageWork.op : StageWork → Nat
  | .gemm _ => 0x01 | .gemvStream _ => 0x02 | .conv _ => 0x03 | .attend _ => 0x04 | .attendBwd _ => 0x05 | .scatterKv _ => 0x06
  | .norm _ => 0x07 | .eltwise _ => 0x08 | .pegSeq _ => 0x09 | .reduce _ => 0x0A | .cull _ => 0x0B | .convert _ => 0x0C
  | .stats _ => 0x0D | .exchange _ => 0x0E | .await _ => 0x0F

/-- The work of a descriptor, and its reserved fields: a toolchain's own bytes are what `named` says of them. -/
def stageWork (d m : List Byte) (named : Option Named) : StageWork × List FieldFault :=
  match u d 0 1 with
  | 0x04 => (.attend (attDesc d m), attReserved d m)
  | 0x05 => (.attendBwd (attDesc d m), attReserved d m)
  | 0x06 => (.scatterKv (scatDesc d), reservedBytes d 17 1 0 ++ reservedBytes d 28 36 0)
  | 0x09 => (.pegSeq (pegDesc d m), pegReserved d m)
  | 0x0A => (.reduce (redDesc d m), redReserved d m)
  | 0x0B => (.cull (cullDesc d m), cullReserved d m)
  | 0x0D => (.stats (statsDesc d), statsReserved d)
  | 0x0E => (.exchange (exchangeDesc d), exchangeReserved d)
  | 0x0F => (.await (awaitDesc d), awaitReserved d)
  | op =>
    match named.bind (fun w => w.work) with
    | some w => (w, [(!toolchainOp op, 0, 0), (decide (w.op ≠ op), 16, 0)])
    | none => (.await (awaitDesc d), [(!toolchainOp op, 0, 0), (toolchainOp op, 16, 0)])

/-- One descriptor with the common header of R379. -/
def stageOf (d m : List Byte) (named : Option Named) : Stage :=
  { num := numCtl (u d 2 2) (u d 4 4)
    datumTab := if (u d 1 1).testBit 0 then some ((List.range 8).map (fun k => i16 m (u d 8 4 + 2 * k))) else none
    energy := u d 12 4, map := (named.map (fun w => w.map)).getD {}, work := (stageWork d m named).1 }

/-- The reserved fields of a descriptor, its header's among them. -/
def stageReserved (d m : List Byte) (named : Option Named) : List FieldFault :=
  let tab := (u d 1 1).testBit 0
  [(decide (1 < u d 1 1), 1, 0), (decide (if tab then m.length < u d 8 4 + 16 else u d 8 4 ≠ 0), 8, 0)] ++ (stageWork d m named).2

/-! ### The image -/

/-- Descriptor k of an image, and its layout map region (R377). -/
def descAt (b : List Byte) (k : Nat) : List Byte := (b.drop (u b 4 4 + 64 * k)).take 64
def mapOf (b : List Byte) : List Byte := (b.drop (u b 8 4)).take (u b 12 4)
/-- The operations of which the toolchain says more than their bytes do. -/
def mappedOp (op : Nat) : Bool := toolchainOp op || op == 0x04 || op == 0x05
/-- What the toolchain says of stage k: the descriptors of such operations take the list's entries in order. -/
def namedAt (b : List Byte) (named : List Named) (k : Nat) : Option Named :=
  if mappedOp (u (descAt b k) 0 1) then named[((List.range k).filter (fun i => mappedOp (u (descAt b i) 0 1))).length]? else none

/-- Entry k of the tensor table (R378). -/
def tensorOf (b : List Byte) (k : Nat) : Tensor :=
  let m := mapOf b
  let e := (m.drop (u b 20 4 + 16 * k)).take 16
  { fmt := fmtAt e 0, inSlice := (u e 1 1).testBit 0
    extents := (List.range (u e 2 2)).map (fun i => (u m (u e 4 4 + 8 * i) 4, u m (u e 4 4 + 8 * i + 4) 4))
    scales := if u e 8 4 = 0xFFFFFFFF then none else some (u e 8 4), bytes := u e 12 4 }
def tensorReserved (b : List Byte) (k : Nat) : Bool :=
  let m := mapOf b
  let e := (m.drop (u b 20 4 + 16 * k)).take 16
  (fmtCode (u e 0 1)).isNone || decide (1 < u e 1 1) || decide (m.length < u e 4 4 + 8 * u e 2 2)

/-- Entry k of the landing window table (R577). -/
def landingOf (b : List Byte) (k : Nat) : LandingDef :=
  let e := ((mapOf b).drop (u b 28 4 + 16 * k)).take 16
  { window := u e 0 1, benchOff := u e 4 4, extent := u e 8 4 }
def landingReserved (b : List Byte) (k : Nat) : Bool :=
  let e := ((mapOf b).drop (u b 28 4 + 16 * k)).take 16
  (reservedBytes e 1 3 6 ++ reservedBytes e 12 4 6).any (fun f => f.1)

/-- The faults of the header itself (R377). -/
def headFaults (b : List Byte) : List FieldFault :=
  let stages := u b 2 2
  let map := u b 12 4
  [(decide (u b 0 2 ≠ 1), 0, 0), (decide (stages = 0 ∨ 1024 < stages), 2, 0),
   (decide (u b 4 4 % 64 ≠ 0 ∨ b.length < u b 4 4 + 64 * stages), 4, 0), (decide (u b 8 4 % 64 ≠ 0 ∨ b.length < u b 8 4), 8, 0),
   (decide (b.length < u b 8 4 + map), 12, 0), (decide (u b 16 4 % 64 ≠ 0 ∨ 262144 < u b 16 4 + 512), 16, 0),
   (decide (map < u b 20 4 + 16 * u b 24 2), 20, 0), (decide (16 < u b 26 2), 26, 0),
   (decide (if u b 26 2 = 0 then u b 28 4 ≠ 0 else u b 28 4 % 16 ≠ 0 ∨ map < u b 28 4 + 16 * u b 26 2), 28, 0)]
    ++ reservedBytes b 32 32 0

/-- The image that bytes spell, with the digest that names it. -/
def decodeImage (b : List Byte) (named : List Named) (digest : BitVec 256) : Image :=
  { stages := (List.range (u b 2 2)).map (fun k => stageOf (descAt b k) (mapOf b) (namedAt b named k))
    ltOff := u b 16 4, tensors := (List.range (u b 24 2)).map (tensorOf b), landing := (List.range (u b 26 2)).map (landingOf b)
    sha := digest, bytes := b.length }

end Sys2Proof
end

