-- ==== Sys2Proof/Machine/Settings.lean ====
section
/-! DEFINITION. The settings: identifiers, factory defaults, classes and ranges (R339, R347, R351, R383, R386, R437,
R515, R538, R544). -/

namespace Sys2Proof.Machine

/-- The application classes of R383. -/
inductive SetClass where
  | live | boundary | quiesce
  deriving DecidableEq, Repr

/-- The ID of a setting (R386). -/
def settingId (block inst num : Nat) : Nat := block * 4096 + inst * 256 + num
def idOf (x : Setting) : Nat := settingId x.block x.inst x.num

/-- The factory default of a setting by block and number; none for a setting that does not exist. -/
def factory (block num : Nat) : Option (List Nat) :=
  match block, num with
  | 0, 0x01 => some [32]
  | 0, 0x02 => some [0xFF]
  | 0, 0x03 => some [32, 100000]
  | 1, 0x01 => some [0]
  | 1, 0x02 => some [1]
  | 1, 0x03 => some [8]
  | 1, 0x04 => some [105]
  | 2, 0x01 => some [0]
  | 2, 0x02 => some [9216]
  | 2, 0x03 => some []
  | 2, 0x04 => some []
  | 2, 0x05 => some [0]
  | 2, 0x06 => some [26, 46, 48, 10]
  | 2, 0x07 => some []
  | 2, 0x08 => some [3, 5]
  | 2, 0x09 => some [0, 2, 0x10, 0, 0]
  | 3, 0x01 => some [170]
  | 4, 0x01 => some [2000]
  | 4, 0x02 => some [1]
  | 4, 0x10 => some [0x0FFF]
  | 4, 0x11 => some [100]
  | _, _ => none

/-- The class of a setting (R351, R386, R515, R544). -/
def settingClass (block num : Nat) : SetClass :=
  match block, num with
  | 0, 0x01 => .quiesce
  | 1, 0x03 => .boundary
  | 2, 0x06 => .boundary
  | 2, 0x08 => .live
  | 2, 0x09 => .live
  | 2, _ => .quiesce
  | 3, 0x01 => .quiesce
  | _, _ => .live

/-- The sizes of a value's fields (R386, R515, R544). -/
def fieldSizes (block num : Nat) : List Nat :=
  match block, num with
  | 0, 0x03 => [2, 4]
  | 1, 0x02 | 2, 0x02 | 2, 0x05 | 3, 0x01 | 4, 0x01 | 4, 0x10 | 4, 0x11 => [2]
  | 2, 0x03 => [4, 1]
  | 2, 0x04 => [16, 1]
  | 2, 0x06 => [1, 1, 1, 1]
  | 2, 0x07 => [1, 8, 1, 8]
  | 2, 0x08 => [1, 1]
  | 2, 0x09 => [16, 1, 4, 4, 4]
  | _, _ => [1]
/-- A value of n bytes, the most significant first. -/
def beBytes (n v : Nat) : List Byte := (leBytes n v).reverse
/-- The field of a setting that holds an address lies in network order (DEDUCED, log entry 92); that of BOOT_PEER is an IPv4 address in the
first 4 bytes unless its flags say IPv6 (R386). -/
def addressField (x : Setting) (i : Nat) : Option Nat :=
  if x.block = 2 ∧ i = 0 then
    (if x.num = 3 then some 4 else if x.num = 4 then some 16
     else if x.num = 9 then some (if (x.value.getD 1 0).testBit 0 then 16 else 4) else none)
  else none
/-- The bytes of a setting's value. -/
def settingBytes (x : Setting) : List Byte :=
  x.raw.getD (((fieldSizes x.block x.num).zip x.value).zipIdx.flatMap (fun e =>
    match addressField x e.2 with
    | some n => beBytes n e.1.2 ++ leBytes (e.1.1 - n) 0
    | none => leBytes e.1.1 e.1.2))
def up4 (n : Nat) : Nat := (n + 3) / 4 * 4
def padding (n : Nat) : List Byte := List.replicate (up4 n - n) 0
/-- A setting in TLV form (R386): ID, LEN, and the value padded to a multiple of 4. -/
def settingTlv (x : Setting) : List Byte :=
  let v := settingBytes x
  leBytes 2 (idOf x) ++ leBytes 2 v.length ++ v ++ padding v.length
/-- Bytes of a list of settings in TLV form. -/
def tlvBytes (l : List Setting) : Nat := l.foldl (fun n x => n + (4 + up4 (settingBytes x).length)) 0

/-- The fields of a value's bytes. -/
def splitFields : List Nat → List Byte → List (List Byte)
  | [], _ => []
  | n :: l, b => if b = [] then [] else b.take n :: splitFields l (b.drop n)
/-- The setting of an ID and the bytes of its value; bytes that no value has are kept as they are (R386). -/
def settingAt (id : Nat) (b : List Byte) : Setting :=
  let block := id / 4096
  let num := id % 256
  let fields := splitFields (fieldSizes block num) b
  let read (i : Nat) (f : List Byte) : Nat :=
    if block = 2 ∧ i = 0 ∧ (num = 3 ∨ num = 4) then leNat f.reverse
    else if block = 2 ∧ num = 9 ∧ i = 0 then
      leNat (f.take (if ((fields.getD 1 []).headD 0).getLsbD 0 then 16 else 4)).reverse
    else leNat f
  let x : Setting := { block := block, inst := id / 256 % 16, num := num, value := fields.mapIdx read }
  if (factory block num).isSome && decide (settingBytes x = b) then x else { x with value := [], raw := some b }
/-- A list of settings in TLV form; none where the entries do not fill it or padding is not zero (R384, R386). -/
def decodeTlvs : Nat → List Byte → Option (List Setting)
  | _, [] => some []
  | 0, _ => none
  | fuel + 1, b =>
    let n := leNat ((b.drop 2).take 2)
    if b.length < 4 + up4 n ∨ (b.drop (4 + n)).take (up4 n - n) ≠ padding n then none
    else (decodeTlvs fuel (b.drop (4 + up4 n))).map (fun l => settingAt (leNat (b.take 2)) ((b.drop 4).take n) :: l)

/-- The value of each setting lies in its range. -/
def settingInRange (block num : Nat) (v : List Nat) : Bool :=
  match block, num, v with
  | 0, 0x01, [x] => decide (8 ≤ x ∧ x ≤ 36)
  | 0, 0x02, [x] => decide (x < 12 ∨ x = 0xFF)
  | 0, 0x03, [a, b] => decide (1 ≤ a ∧ a ≤ 65535 ∧ 1 ≤ b ∧ b ≤ 10000000)
  | 1, 0x01, [x] => decide (x ≤ 1)
  | 1, 0x02, [x] => decide (x ≤ 4095)
  | 1, 0x03, [x] => decide (1 ≤ x ∧ x ≤ 8)
  | 1, 0x04, [x] => decide (85 ≤ x ∧ x ≤ 105)
  | 2, 0x01, [x] => decide (x ≤ 3)
  | 2, 0x02, [x] => decide (1518 ≤ x ∧ x ≤ 9216)
  | 2, 0x03, l => decide (l = []) || (match l with | [a, p] => decide (a < 2 ^ 32 ∧ p ≤ 32) | _ => false)
  | 2, 0x04, l => decide (l = []) || (match l with | [a, p] => decide (a < 2 ^ 128 ∧ p ≤ 128) | _ => false)
  | 2, 0x05, [x] => decide (x ≤ 4094)
  | 2, 0x06, [a, b, c, d] => decide (a < 64 ∧ b < 64 ∧ c < 64 ∧ d < 64)
  | 2, 0x07, [] => true
  | 2, 0x07, [p, d] => decide (p < 8 ∧ d < 2 ^ 64)
  | 2, 0x07, [p, d, q, e] => decide (p < 8 ∧ q < 8 ∧ p ≠ q ∧ d < 2 ^ 64 ∧ e < 2 ^ 64)
  | 2, 0x08, [a, b] => decide (1 ≤ a ∧ a ≤ 4 ∧ 1 ≤ b ∧ b ≤ 20)
  | 2, 0x09, [ip, fl, q, po, pi] =>
    decide (ip < 2 ^ 128 ∧ fl < 4 ∧ q < 2 ^ 24 ∧ po < 2 ^ 24 ∧ pi < 2 ^ 24 ∧ (2 ≤ fl → ip = 0))
  | 3, 0x01, [x] => decide (130 ≤ x ∧ x ≤ 200)
  | 4, 0x01, [x] => decide (500 ≤ x ∧ x ≤ 2000)
  | 4, 0x02, [x] => decide (x ≤ 1)
  | 4, 0x10, [x] => decide (x < 2 ^ 12)
  | 4, 0x11, [x] => decide (10 ≤ x ∧ x ≤ 10000)
  | _, _, _ => false

/-- The instance that a setting names exists in the variant (R4). Whether a WAKE_LIGHT mask with the bits of absent ports names those
ports is open: the model accepts it, as the factory default has them set (DESIGN CHOICE, log entry 76). -/
def settingInstance (s : State) (x : Setting) : Bool :=
  match x.block with
  | 1 => decide (x.inst < 4)
  | 2 => portPresent s x.inst
  | 3 => enginePresent s x.inst
  | _ => decide (x.inst = 0) &&
      (decide (x.block ≠ 0 ∨ x.num ≠ 2) || x.value == [0xFF] || (x.value.all (portPresent s)))

/-- Why an entry cannot apply (R390, R573): 1 unknown, 2 out of range, 3 instance absent; 0 where it can. -/
def settingFault (s : State) (x : Setting) : Nat :=
  match factory x.block x.num with
  | none => 1
  | some _ => if x.raw.isSome || !settingInRange x.block x.num x.value then 2 else if !settingInstance s x then 3 else 0

/-- The value in force. -/
def settingOf (s : State) (block inst num : Nat) : List Nat :=
  (mget none s.cfg.inForce (settingId block inst num)).getD ((factory block num).getD [])
def settingNum (s : State) (block inst num : Nat) : Nat := (settingOf s block inst num).headD 0
/-- The value in force once a list of settings is applied over it. -/
def settingWith (s : State) (l : List Setting) (block inst num : Nat) : List Nat :=
  match l.reverse.find? (fun x => idOf x = settingId block inst num) with
  | some x => x.value
  | none => settingOf s block inst num

def portMode (s : State) (p : Nat) : Nat := settingNum s 2 p 1
def maxFrame (s : State) (p : Nat) : Nat := settingNum s 2 p 2
def sentryPort (s : State) : Nat := settingNum s 0 0 2
def tallyPool (s : State) : Nat := settingNum s 0 0 1 * 4096
def sillLimit (s : State) (b : Nat) : Int := settingNum s 1 b 4
def wakeLight (s : State) : Nat := settingNum s 4 0 0x10
def pkgLimit (s : State) : Nat := settingNum s 4 0 1
def forecastOn (s : State) : Bool := settingNum s 4 0 2 == 1
/-- The priorities of a PFC_PRIO value. -/
def pfcPrios : List Nat → List Nat
  | p :: _ :: l => p :: pfcPrios l
  | _ => []

/-- The distinct priorities under flow control over all ports once a list is applied (R347). -/
def pfcDistinct (s : State) (l : List Setting) : List Nat :=
  ((List.range 12).flatMap (fun p => pfcPrios (settingWith s l 2 p 7))).eraseDups

/-- The combined rules on a set of settings: the pools of R339, the priorities of R347, the sentry port of R538. -/
def settingsAgree (s : State) (l : List Setting) : Bool :=
  let n := (pfcDistinct s l).length
  let pool := (settingWith s l 0 0 1).headD 32
  let sentry := (settingWith s l 0 0 2).headD 0xFF
  let mode := (settingWith s l 2 sentry 1).headD 0
  decide (n ≤ 2) && decide (4 * pool + 9 * n + 4 ≤ 160) && (decide (sentry = 0xFF) || decide (mode = 1 ∨ mode = 2))

/-- The bays that a setting affects (R383). -/
def affected (s : State) (x : Setting) : List Nat :=
  (present s.bay.bays).filterMap (fun e =>
    if x.block = 1 then (if Nat.testBit e.2.bentMask x.inst then some e.1 else none) else some e.1)

/-- The bays that the Quiesce settings of a list drain. -/
def drainedBays (s : State) (l : List Setting) : List Nat :=
  ((l.filter (fun x => settingClass x.block x.num = .quiesce)).flatMap (affected s)).eraseDups

/-- A port stops being up: LINK_DOWNS counts, and a latched bootstrap partner is let go (R353, R357). -/
def dropLink (p link : Nat) (s : State) : State :=
  (s.setPort p (fun x =>
    { x with link := link, bootPeer := none,
             linkDowns := if x.link = 1 ∨ x.link = 2 then sat 0xFFFF (x.linkDowns + 1) else x.linkDowns })).onNet (fun n =>
    { n with held := n.held.filter (fun h => h.port ≠ p) })

/-! ### Lasers (R318) -/

/-- The grounds on which the hub enables an engine's laser: the engine is up, its module present and without fault, and
no transmit connector of its ports open. -/
def laserAllowed (s : State) (e : Nat) : Bool :=
  decide ((s.engine e).state = 0) && (s.engine e).laserPresent && !(s.engine e).laserFault && !(s.engine e).tripped
    && !(s.port (2 * e)).lightOff && !(s.port (2 * e + 1)).lightOff

/-- Enables the laser of every engine that meets them. -/
def lightLasers (s : State) : State :=
  (List.range 6).foldl (fun s e => if laserAllowed s e then s.setEngine e (fun x => { x with laserOn := true }) else s) s

/-- An engine is required while one of its ports has a MODE other than 3 (R439). -/
def engineRequired (s : State) (e : Nat) : Bool := decide (portMode s (2 * e) ≠ 3 ∨ portMode s (2 * e + 1) ≠ 3)

/-- After the device has come up, an engine powers up and calibrates when one of its ports gets a MODE other than 3, and is
powered down when both have MODE 3 (R438). One that has failed calibration stays unpowered for the boot; whether this calibration
passes is a free value (DESIGN CHOICE, log entry 93). -/
def powerEngine (e : Nat) (s : State) : State :=
  if s.kp.stage < 0xA ∨ !enginePresent s e ∨ (s.engine e).state = 1 then s
  else if !engineRequired s e then s.setEngine e (fun x => { x with state := 3, laserOn := false, pllLock := false })
  else if (s.engine e).state = 3 then
    let passed := decide (Config.freeNat (drawNo s) % 2 = 0)
    spend 1 (lightLasers (s.setEngine e (fun x => { x with state := if passed then 0 else 1, pllLock := passed })))
  else s

/-- The largest path MTU whose frames fit the port's MAX_FRAME (R328, R352). -/
def pmtuFor (s : State) (p : Nat) : Nat := ([4096, 2048, 1024, 512].find? (fun m => decide (m + 106 ≤ maxFrame s p))).getD 256

/-- The host queue pairs of a port take the path MTU that its MAX_FRAME allows (R352). -/
def refitFrames (p : Nat) (s : State) : State :=
  s.onNet (fun n => { n with qps := n.qps.map (fun e =>
    (e.1, e.2.map (fun q => if q.port = p ∧ q.peer = none then { q with pmtu := pmtuFor s p } else q))) })

/-- The bootstrap queue pair of a port as a BOOT_PEER value starts it (R357, R386). -/
def startBoot (p : Nat) (v : List Nat) (s : State) : State :=
  (s.setPort p (fun x => { x with bootPeer := none })).putQp (qpKey p 0x10)
    (some { port := p, rxPsn := v.getD 4 0, txPsn := v.getD 3 0, pmtu := pmtuFor s p, remote := v.getD 2 0x10
            srcPort := Config.portHash 0x10 (v.getD 2 0x10) })

/-- The value in force, without what follows from it. -/
def recordForce (x : Setting) (s : State) : State :=
  s.onCfg (fun c =>
    { c with inForce := mset none c.inForce (idOf x) (if some x.value = factory x.block x.num then none else some x.value) })

/-- Puts one setting in force, with the register fields that show it. -/
def putSetting (x : Setting) (s : State) : State :=
  let changed := decide (settingOf s x.block x.inst x.num ≠ x.value)
  let s := recordForce x s
  match x.block, x.num with
  | 1, 0x01 => s.setBent x.inst (fun b => { b with forceHot := x.value == [1], hot := b.hot || x.value == [1] })
  | 1, 0x02 => s.setBent x.inst (fun b => { b with rate := x.value.headD 1 })
  | 1, 0x03 => s.setBent x.inst (fun b => { b with pegMax := x.value.headD 8 })
  | 2, 0x02 => refitFrames x.inst s
  | 2, 0x09 => startBoot x.inst x.value s
  | 2, 0x01 => if changed then powerEngine (x.inst / 2) (dropLink x.inst (if x.value = [3] then 3 else 0) s) else s
  | 2, 0x07 => s.setPort x.inst (fun p => { p with xoffSent := p.xoffSent.filter (pfcPrios x.value).contains })
  | _, _ => s

def putSettings (l : List Setting) (s : State) : State := l.foldl (fun s x => putSetting x s) s

end Sys2Proof.Machine
end

