-- ==== Sys2Proof/Machine/Qci.lean ====
section
/-! DEFINITION. The command interface's shared operations: who calls, what is permitted (R358, R371, R398), which device
conditions turn a command away (R440, R487, R508), and writing completion records and replies (R364 to R370). -/

namespace Sys2Proof.Machine

/-- Who submitted a command. -/
inductive Caller where
  | pre
  | operator
  | tenant (t : Nat)
  deriving DecidableEq, Repr

/-- The session number of the pre-session slot (R358). -/
def preSession : Nat := 0xFFFF

/-- The pre-session slot as a session: slot 0 of the device mailbox, unsealed, no ring before a HELLO. -/
def emptyPre : Session := { mailbox := 0xFF }

/-- A session's record; the pre-session slot always exists. -/
def sessionRec (s : State) (i : Nat) : Option Session :=
  match s.session i with
  | some x => some x
  | none => if i = preSession then some emptyPre else none

/-- Who a session is. -/
def callerOf (s : State) (i : Nat) : Option Caller :=
  if i = preSession then some .pre
  else (s.session i).map (fun x => if x.mailbox = 0xFF then .operator else .tenant x.mailbox)

/-- Open mode: no operator key is enrolled (R398). -/
def openMode (s : State) : Bool := s.kp.operatorKey.isNone

/-- The Mailbox column of R371: pre-session, operator and tenancy callers. -/
def mailboxes (op : Nat) : Bool × Bool × Bool :=
  if op = 0x0001 ∨ op = 0x0002 then (true, true, true)
  else if op = 0x0003 then (true, true, false)
  else if op = 0x0004 ∨ op = 0x0073 ∨ op = 0x0081 ∨ op = 0x00B0 ∨ op = 0x00B2 then (false, true, true)
  else if (0x0020 ≤ op ∧ op ≤ 0x0022) ∨ (0x0030 ≤ op ∧ op ≤ 0x0032) ∨ op = 0x0040 ∨ (0x0050 ≤ op ∧ op ≤ 0x0053)
      ∨ op = 0x0060 then (false, false, true)
  else (false, true, false)

/-- Is the command permitted to the caller (R371, R398)? -/
def permitted (s : State) (c : Caller) (op : Nat) : Bool :=
  let m := mailboxes op
  match c with
  | .pre => m.1 || (openMode s && m.2.1)
  | .operator => m.2.1
  | .tenant _ => m.2.2

/-- The device takes commands: READY, TOPOLOGY_MISMATCH or FAILED with the framer running, and not in RETAIN. -/
def listening (s : State) : Bool :=
  (decide (s.kp.stage = 0xA ∨ s.kp.stage = 0xB ∨ s.kp.stage = 0xC)) && !s.kp.hubHeld && !s.qci.framerHalted
    && decide (s.pwr.retain ≤ 1 ∨ s.pwr.retain = 8)

/-- The condition of the device that turns a command away, whatever its body (R440, R487, R508). -/
def deviceBar (s : State) (op : Nat) : Option Status :=
  let readOnly := decide (op = 0x0001 ∨ op = 0x0002 ∨ op = 0x00B0 ∨ op = 0x00B1)
  if s.kp.coolantLoss && !readOnly then some .throttledTrip
  else if s.kp.stage = 0xB && !(readOnly || op == 0x0082) then some .topology
  else if s.kp.stage = 0xC && !(readOnly || op == 0x0082) then some .failed
  else none

/-- The first fault found before a command's body is looked at (R363). -/
def gate (s : State) (cx : Cmd) (op : Nat) : Option Status :=
  match callerOf s cx.session with
  | none => some .auth
  | some c => if permitted s c op then deviceBar s op else some .auth

/-! ### Partners (R324, R357) -/

/-- The bootstrap queue pair of a port with BOOT_PEER LATCH, or its partner's address as the setting gives it (R357). -/
def bootLatches (s : State) (port : Nat) : Bool := Nat.testBit ((settingOf s 2 port 9).getD 1 0) 1
def bootAddress (s : State) (port : Nat) : Option Nat :=
  if bootLatches s port then (s.port port).bootPeer else some ((settingOf s 2 port 9).getD 0 0)

/-- The partners that the device resolves on a port: peers, hosts of sessions, and the bootstrap partner. -/
def partners (s : State) (port : Nat) : List Nat :=
  ((present s.net.jobs ++ present s.net.binding).flatMap (fun e =>
    (e.2.peers.filter (fun p => p.entry.port = port)).map (fun p => p.entry.ip)))
  ++ ((present s.qci.sessions).filter (fun e => Nat.testBit e.2.ports.toNat port)).map (fun e => e.2.hostIp)
  ++ (bootAddress s port).toList

/-- The device asks for the addresses of the partners on a port that it has not resolved. -/
def askAll (port : Nat) (s : State) : State :=
  ((partners s port).filter (fun ip => !(s.port port).arp.any (fun e => e.1 = ip))).eraseDups.foldl
    (fun s ip => sendFrame port (.arpRequest port ip) s) s

/-- The number of the next queue pair made. -/
def qpnAfter (n : Nat) : Nat := if n + 1 < 2 ^ 24 then n + 1 else 0x000100

/-- A queue pair can still be made: 65,536 of a device that have not ended (R328). -/
def qpsFree (s : State) (n : Nat) : Bool :=
  decide (((present s.net.qps).filter (fun e => e.2.err ≠ .sessionEnded)).length + n ≤ 65536)

/-! ### Sending on queue pairs -/

/-- A queue pair that carries traffic: the bootstrap queue pair of a port always exists. -/
def qpUsable (s : State) (key : Nat) : Bool :=
  match s.qp key with
  | some q => decide (q.err = .none)
  | none => decide (key % 2 ^ 24 = 0x10)

/-- The host queue pair that carries a reply or record: the command's own, or the next usable one in port order (R366). -/
def recordPort (s : State) (i : Nat) (x : Session) (port : Nat) : Option Nat :=
  let ports := if i = preSession then [port] else bitsOf 12 x.ports.toNat
  let key (p : Nat) : Nat := if i = preSession then qpKey p 0x10 else qpKey p x.devQpn
  let order := (ports.filter (fun p => decide (port ≤ p))) ++ (ports.filter (fun p => decide (p < port)))
  (order.find? (fun p => qpUsable s (key p)))
def recordQp (i : Nat) (x : Session) (port : Nat) : Nat :=
  if i = preSession then qpKey port 0x10 else qpKey port x.devQpn

/-- A queue pair whose session has ended: in error, its keys erased (R405). -/
def endKeys (q : Qp) : Qp := { q with err := .sessionEnded, rxKey := 0, rxOld := 0, txKey := 0 }

/-- A public key in the byte order of the cryptographic standards (R397). -/
def pointBytes (k : BitVec 512) : List Byte := 4 :: beBytes 64 k.toNat
/-- A text label in ASCII (R397). -/
def ascii (l : String) : List Byte := l.toList.map (fun c => BitVec.ofNat 8 c.toNat)
def nums (l : List Byte) : List Nat := l.map BitVec.toNat
/-- The next generation of a key (R411). -/
def nextKey (k : BitVec 256) : BitVec 256 := Config.hkdfExpand k (nums (ascii "AFIAN-QCI-1 next"))

/-- A queue pair after a sealed packet: COUNTER advances, and at 2^39 the key's next generation begins (R409, R411). -/
def sealNext (q : Qp) : Qp :=
  if q.txCount + 1 = 2 ^ 39 then { q with txGen := (q.txGen + 1) % 256, txCount := 0, txKey := nextKey q.txKey }
  else { q with txCount := q.txCount + 1 }

/-- AES-256-GCM: data under a key and nonce, which is its own inverse, and the tag over additional data and ciphertext (R406 to R409). -/
def gcm (key : BitVec 256) (nonce data : List Byte) : List Byte :=
  data.mapIdx (fun i b => b ^^^ Config.gcmStream key (nums nonce) i)
def gcmTag (key : BitVec 256) (nonce aad cipher : List Byte) : BitVec 128 := Config.gcmTag key (nums nonce) (nums aad) (nums cipher)

/-- A seal header (R407). -/
def sealHead (gen scribe counter : Nat) : List Byte := leBytes 1 gen ++ leBytes 2 scribe ++ leBytes 5 counter
/-- Nonce and additional data of a packet from a queue pair number to another (R409). -/
def pktNonce (sender : Nat) (head : List Byte) : List Byte := leBytes 3 sender ++ [2] ++ head
def pktAad (head : List Byte) (opcode dest va imm : Nat) : List Byte :=
  head ++ leBytes 1 opcode ++ leBytes 3 dest ++ leBytes 8 va ++ leBytes 4 imm

/-- A packet with the payload that it carries on its queue pair: sealed under the next COUNTER (R409), or plain. -/
def sealPkt (q : Qp) (p : TxPkt) : TxPkt :=
  let head := sealHead q.txGen p.scribe q.txCount
  let nonce := pktNonce (p.qpn % 2 ^ 24) head
  let cipher := gcm q.txKey nonce p.data
  { p with
    keyGen := q.txGen, counter := q.txCount
    wire := head ++ cipher ++ beBytes 16 (gcmTag q.txKey nonce (pktAad head p.opcode q.remote p.va (p.imm.getD 0)) cipher).toNat }

/-! ### The retransmission store (R332, R339, R340) -/

/-- Bytes of a port in the retransmission store, and in the device traffic region. -/
def storeOf (s : State) (port : Nat) : Nat :=
  (s.net.store.filter (fun p => p.port = port ∧ !p.device)).foldl (fun n p => n + p.size) 0
def deviceUsed (s : State) : Nat := (s.net.store.filter (fun p => p.device)).foldl (fun n p => n + p.size) 0
/-- A packet of n bytes still fits: 1 MiB reserved for each port, the rest of the 16 MiB shared. -/
def storeFits (s : State) (port n : Nat) : Bool :=
  let excess (p extra : Nat) : Nat := storeOf s p + extra - 2 ^ 20
  decide ((List.range 12).foldl (fun m p => m + excess p (if p = port then n else 0)) 0 ≤ 4 * 2 ^ 20)
def hasRoom (s : State) (p : TxPkt) : Bool :=
  if p.device then decide (deviceUsed s + p.size ≤ 2 * 2 ^ 20) else storeFits s p.port p.size
/-- A new packet waits while its region has no room, and behind those of its port and of its queue pair that wait. -/
def mustWait (s : State) (p : TxPkt) : Bool :=
  !hasRoom s p || s.net.waiting.any (fun x => decide (x.qpn = p.qpn ∨ (x.port = p.port ∧ x.device = p.device)))

/-- A packet goes into the retransmission store and onto the wire: under the queue pair's next PSN, a READ response under its request's
(R332), sealed on a sealed queue pair unless it carries a sealed object (R408, R409). -/
def sendNow (q : Qp) (p : TxPkt) (s : State) : State :=
  let sealing := q.isSealed && !p.object
  let p := if p.response then p else { p with psn := q.txPsn, opcode := if p.isReturn then 0x04 else if p.imm.isSome then 0x0B else 0x0A }
  let p := if sealing then sealPkt q p else { p with wire := p.data }
  let q := if p.response then q else { q with txPsn := (q.txPsn + 1) % 2 ^ 24 }
  let s := (s.putQp p.qpn (some (if sealing then sealNext q else q))).onNet (fun n => { n with store := n.store ++ [p] })
  frameOut p.port [] (.packet p) s

/-- A packet is sent, or waits. -/
def transmit (p : TxPkt) (s : State) : State :=
  match s.qp p.qpn with
  | none => s
  | some q => if mustWait s p then s.onNet (fun n => { n with waiting := n.waiting ++ [p] }) else sendNow q p s
/-- The store has room again: the packets that wait go as far as they may, in order. -/
def flushWaiting (s : State) : State :=
  s.net.waiting.foldl (fun s p => transmit p s) (s.onNet (fun n => { n with waiting := [] }))
/-- The packets of some queue pairs leave the store. -/
def purgePkts (gone : Nat → Bool) (s : State) : State :=
  s.onNet (fun n => { n with store := n.store.filter (fun p => !gone p.qpn), waiting := n.waiting.filter (fun p => !gone p.qpn) })
/-- A queue pair goes, with its packets. -/
def removeQp (key : Nat) (s : State) : State := (purgePkts (fun k => k == key) s).putQp key none

/-- Data bytes of one packet of a queue pair (R409). -/
def dataRoom (q : Qp) : Nat := q.pmtu - (if q.isSealed then 24 else 0)

/-- Sends bytes to consecutive addresses in packets of at most n bytes (R328); an immediate and the record that they carry go with the
last. -/
def transmitAll (p : TxPkt) (n extra : Nat) : Nat → List Byte → State → State
  | 0, _, s => s
  | fuel + 1, data, s =>
    let x := { p with data := data.take n, size := min n data.length + extra }
    if data.length ≤ n then transmit x s
    else transmitAll { p with va := p.va + n } n extra fuel (data.drop n)
      (transmit { x with imm := none, record := none } s)

/-! ### Replies and completion records -/

/-- Fields of offset, size and value laid out little-endian in n bytes, the rest zero (R11, R12). -/
def fieldBytes (n : Nat) (l : List (Nat × Nat × Nat)) : List Byte :=
  (List.range n).map (fun i => match l.find? (fun f => f.1 ≤ i ∧ i < f.1 + f.2.1) with
    | some f => BitVec.ofNat 8 (f.2.2 / 2 ^ (8 * (i - f.1)))
    | none => 0)

/-- The bytes of the attestation report (R416). -/
def reportBytes (r : Report) : List Byte :=
  fieldBytes 64 [(0, 2, 1), (2, 2, bit 0 r.openMode + bit 1 r.operatorKey + bit 2 r.updateOpen + bit 3 r.afterRecovery
      + bit 4 r.cfgDefaulted), (4, 4, r.fwVersion), (8, 8, r.serial.toNat), (16, 8, r.devId), (24, 4, r.fwCounter), (28, 4, r.cfgEpoch),
      (32, 1, r.tenancy), (34, 2, r.session), (36, 4, r.settingsSeq)]
    ++ [r.nonce, r.mRom, r.mFw, r.mUcode, r.mFuse, r.mSettings, r.mProgram, r.mOwner].flatMap (fun d => beBytes 32 d.toNat)
    ++ beBytes 64 r.signature.toNat
/-- The bytes of a reply (R173, R224, R235, R373, R387, R403, R415, R441, R565, R573). -/
def ReplyData.bytes : ReplyData → List Byte
  | .report r chain => reportBytes r ++ chain
  | .sessionKeys eph nonce session sig =>
    pointBytes eph ++ List.replicate 3 0 ++ beBytes 32 nonce.toNat ++ leBytes 4 session ++ beBytes 64 sig.toNat
      ++ List.replicate 24 0
  | .settings l => l.flatMap settingTlv
  | .words l => (List.range 16384).flatMap (fun w => leBytes 4 (mget 0 l w).toNat)
  | .rows l => l.flatten.map (BitVec.ofNat 8)
  | .keys l => l.flatMap (leBytes 4)

/-- The keeper delivers keys to the framer and the hub over the keeper link, encrypted under the link key (R394). -/
def deliverKeys (keys : List (BitVec 256)) (s : State) : State :=
  let nonce := beBytes 12 s.kp.linkCount
  let cipher := gcm s.kp.linkKey nonce (keys.flatMap (fun k => beBytes 32 k.toNat))
  (s.onKp (fun k => { k with linkCount := k.linkCount + 1 })).send
    (.keeperLink (cipher ++ beBytes 16 (gcmTag s.kp.linkKey nonce [] cipher).toNat))

/-- The session's next sealed object (R408): COUNTER rises, and at 2^39 the key's next generation begins at 0 (R411). -/
def nextObject (x : Session) : Session :=
  if x.objects + 1 = 2 ^ 39 then { x with objects := 0, objGen := (x.objGen + 1) % 256, kCpl := nextKey x.kCpl }
  else { x with objects := x.objects + 1 }
/-- A sealed object of a session (R407, R408): seal header, ciphertext, tag. An unsealed one of the ring has header and tag zero (R364). -/
def sealedObject (x : Session) (data : List Byte) : List Byte :=
  let x := nextObject x
  let head := sealHead x.objGen 0 x.objects
  let nonce := [0, 0, 0, 3] ++ head
  let cipher := gcm x.kCpl nonce data
  head ++ cipher ++ beBytes 16 (gcmTag x.kCpl nonce head cipher).toNat

/-- A reply or record of the session that cannot be written (R366). -/
def countLost (i : Nat) (s : State) : State := s.setSession i (fun x => { x with lost := sat 0xFFFF (x.lost + 1) })

/-- The bytes of an object of a session go to host memory in packets of its queue pair's path MTU. -/
def sendObject (cx : Cmd) (x : Session) (isRecord : Bool) (port key va : Nat) (data : List Byte) (s : State) : State :=
  let qpn := recordQp cx.session x port
  transmitAll { qpn := qpn, psn := 0, port := port, rkey := key, va := va, keyGen := if x.isSealed then (nextObject x).objGen else 0,
                counter := if x.isSealed then (nextObject x).objects else 0,
                record := some (cx.session, cx.seq), object := true, device := isRecord }
    (((s.qp qpn).map (fun q => q.pmtu)).getD 256) 0 (data.length + 1) data s

/-- Writes a reply of `size` bytes into a host buffer, sealed on a sealed session unless it is the reply of SESSION_OPEN; whether it was cut
(R370, R403, R408). -/
def writeReply (cx : Cmd) (buf : Reply) (size : Nat) (data : ReplyData) (s : State) : State × Bool :=
  match sessionRec s cx.session with
  | none => (s, false)
  | some x =>
    let sealing := x.isSealed && !(match data with | .sessionKeys _ _ _ _ => true | _ => false)
    let room := if sealing then buf.len - 24 else buf.len
    let cut := decide (room < size)
    match recordPort s cx.session x cx.port with
    | none => (countLost cx.session s, cut)
    | some p =>
      let plain := data.bytes.take (min size room)
      let t := sendObject cx { x with isSealed := sealing } false p buf.key buf.va (if sealing then sealedObject x plain else plain) s
      ((if sealing then t.setSession cx.session nextObject else t).send
        (.reply cx.session buf data cut), cut)

/-- The status codes of R569. -/
def statusCode : Status → Nat
  | .ok => 0x00 | .busy => 0x01 | .badDesc => 0x02 | .auth => 0x03 | .sealed => 0x04 | .noResource => 0x05
  | .pageExhausted => 0x06 | .timeout => 0x07 | .fenced => 0x08 | .peerFenced => 0x09 | .scribeStale => 0x0A
  | .uncorrectable => 0x0B | .poison => 0x0C | .dmaUe => 0x0D | .fetchUe => 0x0E | .datumOvf => 0x0F | .nanSeen => 0x10
  | .tempRange => 0x11 | .throttledTrip => 0x12 | .topology => 0x13 | .epoch => 0x14 | .reset => 0x15 | .failed => 0x16

/-- The arithmetic summary (R83). -/
def Summary.bytes (m : Summary) : List Byte :=
  fieldBytes 16 [(0, 2, match m.amax with | some e => signed 16 e | none => 0x8000), (2, 2, signed 16 m.datumFinal),
    (4, 1, bit 0 m.ovf + bit 1 m.nan + bit 2 m.poison + bit 3 m.realign + bit 4 m.convSat), (5, 1, m.replays), (8, 4, m.discards),
    (12, 4, m.ovfGroups)]
/-- The bound word (R311). -/
def Bound.bytes (m : Bound) : List Byte :=
  fieldBytes 8 [(0, 1, m.void), (1, 1, m.start), (2, 1, fld 0 3 m.div + fld 3 4 m.swallow),
    (3, 1, bit 0 m.hot + bit 1 m.reroute + bit 2 m.awaited), (4, 4, m.awaitWait)]

/-- Where the values of a command's RESULT lie: offset and size of each (R368, R373, R385, R389, R465, R513, R514, R537, R564). -/
def resultFields (op : Nat) : List (Nat × Nat) :=
  match op with
  | 0x0001 => [(0, 8), (8, 4), (12, 2), (14, 2)]
  | 0x0003 => [(0, 2), (2, 1), (4, 4), (8, 4), (12, 4)]
  | 0x0010 => [(0, 1), (4, 4)]
  | 0x0030 => [(0, 2), (2, 2), (4, 2), (6, 2), (8, 2), (10, 1), (12, 4)]
  | 0x0040 => [(0, 4), (4, 2), (6, 2), (8, 8)]
  | 0x0050 | 0x0051 | 0x00A0 => [(0, 2), (2, 2)]
  | 0x0060 | 0x0071 => [(0, 4), (4, 2)]
  | 0x0072 => [(0, 4), (4, 1)]
  | 0x0002 | 0x0073 | 0x00B0 | 0x00B1 => [(12, 4)]
  | _ => [(0, 4), (4, 4), (8, 4), (12, 4)]

/-- The 64 bytes of a completion record (R367). -/
def Completion.bytes (c : Completion) : List Byte :=
  fieldBytes 24 [(0, 4, c.seq), (4, 2, c.opcode), (6, 1, statusCode c.status), (7, 1, bit 0 c.phase + bit 1 c.truncated), (8, 8, c.tag),
      (16, 4, c.taken), (20, 4, c.cfgEpoch)]
    ++ fieldBytes 16 (((resultFields c.opcode).zip c.result).map (fun e => (e.1.1, e.1.2, e.2)))
    ++ (match c.summary with | some m => m.bytes | none => fieldBytes 16 [])
    ++ (match c.bound with | some m => m.bytes | none => fieldBytes 8 [])

/-- A ring after one record: the next entry, and the phase that alternates at every wrap (R365). -/
def ringNext (r : Ring) : Ring :=
  { r with next := (r.next + 1) % r.entries, phase := if r.next + 1 = r.entries then !r.phase else r.phase }
/-- The ring with its last record taken back, whose entry the next record takes (R366). -/
def ringBack (r : Ring) : Ring :=
  { r with next := (r.next + r.entries - 1) % r.entries, phase := if r.next = 0 then !r.phase else r.phase }

/-- The framer hangs or has stopped, and writes no record (R464, R487, R488). -/
def framerHung (s : State) : Bool := s.kp.framerStall || s.qci.framerHalted

/-- Writes the completion record of a command and advances DONE; a record that cannot be written counts in LOST. -/
def writeRecord (cx : Cmd) (op : Nat) (v : Verdict) (s : State) : State :=
  match sessionRec s cx.session with
  | none => s
  | some x =>
    let x := { x with done := max x.done cx.seq, taken := max x.taken cx.seq, expect := max x.expect (cx.seq + 1) }
    match recordPort s cx.session x cx.port with
    | none => s.putSession cx.session (some { x with lost := sat 0xFFFF (x.lost + 1) })
    | some p =>
      if x.ring.entries = 0 then s.putSession cx.session (some { x with lost := sat 0xFFFF (x.lost + 1) })
      else
        let c : Completion :=
          { session := cx.session, seq := cx.seq, opcode := op, status := v.status, tag := cx.tag, taken := x.taken,
            cfgEpoch := v.epoch.getD s.cfg.epoch, result := v.result, truncated := v.truncated, summary := v.summary,
            bound := v.bound, phase := x.ring.phase, entry := x.ring.next }
        let t := sendObject cx x true p x.ring.key (x.ring.va + 128 * x.ring.next)
          (if x.isSealed then sealedObject x c.bytes else sealHead 0 0 0 ++ c.bytes ++ List.replicate 16 0)
          (s.putSession cx.session (some { (if x.isSealed then nextObject x else x) with ring := ringNext x.ring }))
        t.send (.completion c)

/-- A command completes: its record is written, or waits until the framer next runs (R488). -/
def post (cx : Cmd) (op : Nat) (v : Verdict) (s : State) : State :=
  let s := s.onQci (fun q =>
    { q with taken := q.taken.filter (fun t => !(decide (t.session = cx.session ∧ t.seq = cx.seq))) })
  if framerHung s then s.onQci (fun q => { q with waiting := q.waiting ++ [(cx, op, v)] }) else writeRecord cx op v s

end Sys2Proof.Machine
end

