-- ==== Sys2Proof/Machine/Rack.lean ====
section
/-! DEFINITION. The page rack: page classes and allocation (R240 to R243), page-table records (R244, R245), owner and
pin counts and the rack transactions (R246, R247, R250 to R253). -/

namespace Sys2Proof.Machine

/-- The key of a page set's counts. -/
def pageKey (bay p : Nat) : Nat := bay * 512 + p
def ownerOf (s : State) (bay p : Nat) : Nat := mget 0 s.rack.owner (pageKey bay p)
def pinsOf (s : State) (bay p : Nat) : Nat := mget 0 s.rack.pin (pageKey bay p)
def onOwner (bay p : Nat) (f : Nat → Nat) (s : State) : State :=
  s.onRack (fun r => { r with owner := mmod 0 r.owner (pageKey bay p) f })
def onPin (bay p : Nat) (f : Nat → Nat) (s : State) : State :=
  s.onRack (fun r => { r with pin := mmod 0 r.pin (pageKey bay p) f })

/-- The class of a page set (R242). -/
def pageClass (p : Nat) : Nat :=
  let b (i : Nat) : Nat := p / 2 ^ i % 2
  4 * (p / 64) + 2 * ((b 0 + b 2 + b 4) % 2) + (b 1 + b 3 + b 5) % 2

/-- The pages of a bay's cache region. -/
def regionPages (y : Bay) : List Nat := (List.range y.pageCount).map (fun i => y.pageFirst + i)
/-- A page set with both counts zero is free (R246). -/
def pageFree (s : State) (bay p : Nat) : Bool := decide (ownerOf s bay p = 0 ∧ pinsOf s bay p = 0)
def freePages (s : State) (bay : Nat) (y : Bay) : List Nat := (regionPages y).filter (pageFree s bay)
def freeOf (free : List Nat) (c : Nat) : List Nat := free.filter (fun p => pageClass p = c)

/-- The class with the most free page sets, the lower number on a tie, among those that ok accepts (R243). -/
def bestClass (free : List Nat) (ok : Nat → Bool) : Option Nat :=
  (List.range 24).foldl (fun best c =>
    if ok c && decide (0 < (freeOf free c).length) then
      match best with
      | none => some c
      | some b => if (freeOf free b).length < (freeOf free c).length then some c else best
    else best) none

/-- The page set that ALLOC takes (R243). -/
def pickPage (free : List Nat) (ok : Nat → Bool) : Option Nat := (bestClass free ok).bind (fun c => (freeOf free c).head?)

/-- Takes n page sets out of the free ones, all or none. -/
def pickPages (ok : Nat → Bool) : Nat → List Nat → Option (List Nat)
  | 0, _ => some []
  | n + 1, free =>
    match pickPage free ok with
    | none => none
    | some p => (pickPages ok n (free.erase p)).map (fun l => p :: l)

/-- Sets owner counts to one for freshly allocated page sets. -/
def ownPages (bay : Nat) (ps : List Nat) (s : State) : State := ps.foldl (fun s p => onOwner bay p (fun _ => 1) s) s
/-- REF and RELEASE over a list of page sets. -/
def refPages (bay : Nat) (ps : List Nat) (s : State) : State := ps.foldl (fun s p => onOwner bay p (· + 1) s) s
def releasePages (bay : Nat) (ps : List Nat) (s : State) : State := ps.foldl (fun s p => onOwner bay p (· - 1) s) s
/-- PIN and UNPIN over a list of page sets. -/
def pinPages (bay : Nat) (ps : List Nat) (s : State) : State := ps.foldl (fun s p => onPin bay p (· + 1) s) s
def unpinPages (bay : Nat) (ps : List Nat) (s : State) : State := ps.foldl (fun s p => onPin bay p (· - 1) s) s

/-! ### Page-table records (R244, R245) -/

def recordSize (y : Bay) : Nat := 64 * ((16 + 2 * y.tableLen + 63) / 64)
def recordAddr (y : Bay) (slot : Nat) : Nat := y.ptBase + slot * recordSize y

/-- The bytes of a record. -/
def recordBytes (y : Bay) (q : Nat) (r : SeqRec) : List Byte :=
  (leBytes 2 (q + bit 15 r.isOpen) ++ leBytes 2 r.pages ++ leBytes 4 r.length ++ leBytes 4 r.gen
    ++ leBytes 2 r.reserve.length ++ leBytes 2 0
    ++ (List.range y.tableLen).flatMap (fun i =>
      match r.entries[i]? with
      | some p => leBytes 2 (p + 2 ^ 15)
      | none => leBytes 2 0))

/-- Writes bytes into every joist of a bay's slice, for its tenancy (R245, R417). -/
def writeAll (y : Bay) (a : Nat) (data : List Byte) (js : List Nat) (s : State) : State :=
  js.foldl (fun s j => (s.onMem (writeMem true j a data false)).setJoist j (fun x => { x with touchedBy := some y.tenancy })) s

/-- Changes a sequence: GEN rises and every replica of the record is written. -/
def putRecord (q : Nat) (r : SeqRec) (s : State) : State :=
  match s.bayOf r.bay with
  | none => s.putSeq q (some r)
  | some y =>
    let r := { r with gen := (mget 0 y.gens r.slot + 1) % 2 ^ 32 }
    writeAll y (recordAddr y r.slot) (recordBytes y q r) (bayJoists s y)
      ((s.putSeq q (some r)).setBay r.bay (fun z => { z with gens := mset 0 z.gens r.slot r.gen }))

/-- Frees a sequence id and its record slot; the replicas show it not OPEN, with no entries. -/
def freeSeq (q : Nat) (r : SeqRec) (s : State) : State :=
  (putRecord q { r with isOpen := false, entries := [], reserve := [], pages := 0 } s).putSeq q none

/-! ### Sequences -/

/-- The sequences of a bay. -/
def seqsOf (s : State) (bay : Nat) : List (Nat × SeqRec) := (present s.rack.seqs).filter (fun e => e.2.bay = bay)

/-- The lowest free record slot of a bay's page-table region. -/
def freeSlot (s : State) (bay : Nat) (y : Bay) : Option Nat :=
  lowestFree (fun i => (seqsOf s bay).all (fun e => decide (e.2.slot ≠ i))) 0 y.seqSlots
/-- The lowest free sequence id of the device. -/
def freeSeqId (s : State) : Option Nat := lowestFree (fun q => (s.seqRec q).isNone) 0 4096

/-- Entries that hold n positions. -/
def pagesFor (y : Bay) (n : Nat) : Nat := ceilDiv n y.pageTokens

/-- RELEASE of every entry and reserve page set of a sequence (R252). -/
def dropPages (r : SeqRec) (s : State) : State := releasePages r.bay (r.entries ++ r.reserve) s

/-- A bay has a cache group (R237). -/
def hasCache (y : Bay) : Bool := decide (0 < y.pageCount)

/-! ### RACK_FREE (R269) -/

/-- Classes that a region covers, and the least free count among them. -/
def minClass (s : State) (bay : Nat) (y : Bay) : Nat :=
  let cs := ((regionPages y).map pageClass).eraseDups
  let free := freePages s bay y
  match cs.map (fun c => (freeOf free c).length) with
  | [] => 0
  | n :: l => l.foldl min n

end Sys2Proof.Machine
end

