-- ==== Sys2Proof/Machine/Programs.lean ====
section
/-! DEFINITION. What PROGRAM_LOAD checks of an image (R13, R46, R51, R56, R104, R129, R135, R140, R186 to R195, R238, R273,
R278 to R281, R293, R297, R309, R377 to R382, R576, R577) and where it reports the first fault (R373). -/

namespace Sys2Proof

open Sys2Proof.Machine

/-! ### Bytes that a stage reads and writes (R576) -/

/-- A run of bytes at one address on every joist of the bay: of a slice (true) or of a bench. -/
structure Region where
  inSlice : Bool
  base : Nat
  len : Nat
  deriving DecidableEq, Repr

def Region.meets (a b : Region) : Bool :=
  (a.inSlice == b.inSlice) && decide (a.base < b.base + b.len ∧ b.base < a.base + a.len)
/-- What narrow-path requests fetch of a region: the pairs of codewords that it touches (R158). -/
def Region.narrowed (r : Region) : Region := ⟨r.inSlice, r.base / 16 * 16, (r.base % 16 + r.len + 15) / 16 * 16⟩
def anyMeet (l m : List Region) : Bool := l.any (fun a => m.any a.meets)

def benchBytes : Nat := 262144
def benchRegion (base len : Nat) : Region := ⟨false, base, len⟩
def Region.inBench (r : Region) : Bool := decide (r.base + r.len ≤ benchBytes)

/-- The extents of a tensor with its scale plane. -/
def tensorRegions (img : Image) (ti : Nat) : List Region :=
  let ext (t : Tensor) : List Region := t.extents.map (fun e => ⟨t.inSlice, e.1, e.2⟩)
  let t := tensorAt img ti
  ext t ++ (match t.scales with | some k => ext (tensorAt img k) | none => [])

/-- The row of a bank as a region of the slice: 512 consecutive slice addresses (R146). -/
def rowRegion (bank row : Nat) : Region := ⟨true, rowAddr bank row 0, 512⟩

/-- The banks that a region of the slice lies in. -/
def Region.banks (r : Region) : List Nat :=
  if r.inSlice ∧ 0 < r.len then
    ((List.range ((r.base % 512 + r.len + 511) / 512)).map (fun i => (decodeSA (r.base / 512 * 512 + 512 * i)).bankIx)).eraseDups
  else []

/-! #### Peg instructions -/

def pegRegions (d : PegDesc) (rows : PegInstr → List Nat) : List Region :=
  d.banks.flatMap (fun b => ((d.list.flatMap rows).eraseDups).map (rowRegion b))

/-! #### Attention stages -/

/-- Bytes of n elements with their scales behind them. -/
def partBytes (f : Fmt) (n : Nat) : Nat := fmtBytes f n + (if f.isMx then n / 32 else 0)
def up (n k : Nat) : Nat := (n + k - 1) / k * k
/-- Elements of the content part of a query, and of an output, by KMODE. -/
def AttDesc.content (d : AttDesc) : Nat := if d.expand then d.headDim else d.latent
def AttDesc.qBytes (d : AttDesc) : Nat := partBytes d.qFmt d.content + 2 * d.ropeDim
def AttDesc.outBytes (d : AttDesc) : Nat := partBytes d.outFmt d.content
def AttDesc.dqBytes (d : AttDesc) : Nat := partBytes d.outFmt d.content + 2 * d.ropeDim
def AttDesc.dcBytes (d : AttDesc) : Nat := up (partBytes d.outFmt d.latent + partBytes d.outFmt d.ropeDim) 64
/-- ROPE_OFF of a cache record (R272). -/
def AttDesc.ropeOff (d : AttDesc) : Nat := up (d.latent * d.cacheFmt.bits / 8 + d.latent / 32) 8
/-- Bytes of one head's bias table, padded to 64 (R284). -/
def AttDesc.biasStride (d : AttDesc) : Nat := up (2 * ((2 * d.win - 1) * (2 * d.win - 1))) 64

/-- The parameter regions: offset in the parameter block, region, and whether the stage writes it (R279). -/
def attParams (d : AttDesc) (bwd : Bool) : List (Nat × Region × Bool) :=
  let rows := d.maxRows * d.heads
  let w := d.kGroups * partBytes d.wFmt (d.latent * d.headDim)
  [(0, benchRegion d.qSrc (rows * d.qBytes), false)]
    ++ (if bwd then [] else [(4, benchRegion d.outDst (rows * d.outBytes), true)])
    ++ (if d.expand then [(8, benchRegion d.wuk w, false), (12, benchRegion d.wuv w, false)] else [])
    ++ (if d.vision then [(16, benchRegion d.posTab (d.heads * d.biasStride), false)]
        else [(16, benchRegion d.posTab (4 * d.heads), false)])
    ++ (if d.bitmask then [(20, benchRegion d.mask (d.maxRows * d.maskStride), false)] else [])
    ++ [(24, benchRegion d.stateOff (rows * (4 * d.latent + 8)), true)]
    ++ (if bwd then [(28, benchRegion d.statsOff (8 * rows), false)]
        else if d.saveStats then [(28, benchRegion d.statsOff (8 * rows), true)] else [])
    ++ (if bwd then
          [(32, benchRegion d.doSrc (rows * d.outBytes), false), (36, benchRegion d.oSrc (rows * d.outBytes), false),
           (40, benchRegion d.dqDst (rows * d.dqBytes), true), (44, benchRegion d.dcDst (d.dcRecs * d.dcBytes), true)]
        else [])

/-- The rows of every page of the cache region that hold a stage's region, and the page-table region (R576). -/
def pageReads (y : Bay) (p : Stripe) : List Region :=
  (regionPages y).map (fun q => ⟨true, q * 16384 + p.regionOff / 512 * 512,
    up (p.regionOff % 512 + y.pageTokens / p.s * p.recBytes) 512⟩)
    ++ [⟨true, y.ptBase, y.seqSlots * recordSize y⟩]
def cacheRegion (y : Bay) : Region := ⟨true, y.pageFirst * 16384, y.pageCount * 16384⟩
def ptRegion (y : Bay) : Region := ⟨true, y.ptBase, y.seqSlots * recordSize y⟩

/-- The planes of a region: as the layout map names them, or parts that follow one another, each with its scale bytes and its positional
part behind its elements. -/
def AttDesc.planes (d : AttDesc) (map : StageMap) (region : Nat) : Planes :=
  let own : Planes :=
    let part (f : Fmt) (n step : Nat) : Planes :=
      { region := region, elem := (0, step), scale := (fmtBytes f n, step), rope := (partBytes f n, step) }
    if region = 0 then part d.qFmt d.content d.qBytes
    else if region = 8 ∨ region = 12 then part d.wFmt (d.latent * d.headDim) (partBytes d.wFmt (d.latent * d.headDim))
    else if region = 40 then part d.outFmt d.content d.dqBytes
    else part d.outFmt d.content d.outBytes
  (map.planes.find? (fun p => p.region = region)).getD own

/-- Planes that the layout map names stay within their region. -/
def planeFault (d : AttDesc) (map : StageMap) (r : Nat × Region × Bool) : Bool :=
  let p := d.planes map r.1
  let mx (n : Nat) (f : Fmt) : Nat := if f.isMx then n / 32 else 0
  let part := if r.1 = 8 ∨ r.1 = 12 then d.latent * d.headDim else d.content
  let f := if r.1 = 0 then d.qFmt else if r.1 = 8 ∨ r.1 = 12 then d.wFmt else d.outFmt
  let last := (if r.1 = 8 ∨ r.1 = 12 then d.kGroups else d.maxRows * d.heads) - 1
  let rope := if r.1 = 0 ∨ r.1 = 40 then 2 * d.ropeDim else 0
  map.planes.any (fun q => q.region = r.1) && decide (r.2.1.len < p.elem.1 + last * p.elem.2 + fmtBytes f part
    ∨ r.2.1.len < p.scale.1 + last * p.scale.2 + mx part f ∨ (0 < rope ∧ r.2.1.len < p.rope.1 + last * p.rope.2 + rope))

/-! #### Reads and writes of a stage -/

def cullStride (d : CullDesc) : Nat := up (d.segLen * (if d.inBf16 then 2 else 4)) 64
def redUnits (d : RedDesc) : Nat := if d.outFmt.isMx then d.groups.length / 2 else d.groups.length

/-- What a stage reads as PROGRAM_LOAD takes it (R576). How many records SCATTER_KV finds at SRC is known at STEP_RUN alone, so its bench
region runs from SRC to the end of the bench (DESIGN CHOICE, log entry 39). -/
def stageReads (img : Image) (y : Bay) (g : Stage) : List Region :=
  let t := tensorRegions img
  match g.work with
  | .gemm d | .gemvStream d | .conv d => t d.act ++ t d.wgt
  | .attend d => (attParams d false).filterMap (fun x => if x.2.2 then none else some x.2.1) ++ pageReads y d.stripe
  | .attendBwd d => (attParams d true).filterMap (fun x => if x.2.2 then none else some x.2.1) ++ pageReads y d.stripe
  | .scatterKv d => benchRegion d.src (benchBytes - d.src) :: pageReads y d.stripe
  | .norm d => t d.src ++ t d.gain ++ t d.bias
  | .eltwise d => t d.a ++ t d.b ++ t d.c
  | .pegSeq d => pegRegions d PegInstr.reads
  | .reduce d => if d.op = .sumDatum then [] else [benchRegion d.src (4 * d.elements)]
  | .cull d => [benchRegion d.src (d.rows * cullStride d)]
  | .convert d => t d.src
  | .stats d => t d.tensor
  | .exchange d => [benchRegion d.src d.length]
  | .await _ => []

/-- The bench slots that staged weights pass through (R97). -/
def MatDesc.staging (d : MatDesc) (img : Image) : List Region :=
  if (tensorAt img d.wgt).inSlice then [benchRegion d.stageAt (64 * d.stageSlots)] else []

def stageWrites (img : Image) (y : Bay) (g : Stage) : List Region :=
  let t := tensorRegions img
  match g.work with
  | .gemm d | .conv d => d.staging img ++ (if d.leaveOpen then [] else t d.out)
  | .gemvStream d => if d.leaveOpen then [] else t d.out
  | .attend d => (attParams d false).filterMap (fun x => if x.2.2 then some x.2.1 else none)
  | .attendBwd d => (attParams d true).filterMap (fun x => if x.2.2 then some x.2.1 else none)
  | .scatterKv _ => [cacheRegion y]
  | .norm d => t d.out
  | .eltwise d => t d.out
  | .pegSeq d => pegRegions d PegInstr.writes
  | .reduce d => [benchRegion d.dst (if d.op = .sumDatum then 64 * redUnits d else 4 * d.elements)]
  | .cull d => [benchRegion d.dst (d.rows * (16 + 8 * d.k))]
  | .convert d => t d.out
  | .stats _ | .exchange _ | .await _ => []

/-! #### Groups -/

/-- The chunks of sixteen output columns of a joist. -/
def MatDesc.chunks (d : MatDesc) : Nat := (d.cols + 15) / 16
/-- The groups that a stage leaves open: one for each vector and chunk, from its first group on. -/
def MatDesc.openGroups (d : MatDesc) : List Nat := if d.leaveOpen then (List.range (d.vectors * d.chunks)).map (· + d.group) else []

/-- The runs that a reduction of n elements is cut into: blocks of 32, or sixteen BF16 elements (R87, R88): first element and length. -/
def runsOf (mx : Bool) (n : Nat) : List (Nat × Nat) :=
  let w := if mx then 32 else 16
  (List.range ((n + w - 1) / w)).map (fun b => (w * b, min w (n - w * b)))

/-- The 32-element tile serves pairs of which both sides are MXFP6 or MXFP4; every other pair has the 16-element tile (R87, R88). -/
def wideTile (a b : Fmt) : Bool := decide (a.bits < 8 ∧ b.bits < 8)

/-- The group that holds place k of a pass: the descriptor names the first (R380; DESIGN CHOICE of form, log entry 39). -/
def MatDesc.groupNo (d : MatDesc) (k : Nat) : Nat := d.group + k

/-- The columns of a chunk. -/
def MatDesc.columns (d : MatDesc) (c : Nat) : List Nat := (List.range (min 16 (d.cols - 16 * c))).map (fun i => 16 * c + i)

/-- Both operands have elements below eight bits, so that a block takes one tile. -/
def MatDesc.wide (d : MatDesc) (img : Image) : Bool := wideTile (tensorAt img d.act).fmt (tensorAt img d.wgt).fmt
def MatDesc.isMx (d : MatDesc) (img : Image) : Bool := (tensorAt img d.act).fmt.isMx

/-- The blocks of a reduction window (R105). -/
def MatDesc.windows (d : MatDesc) (img : Image) : List (List (Nat × Nat)) :=
  let n := if d.wide img then 4 else 2
  let l := runsOf true d.red
  (List.range ((l.length + n - 1) / n)).map (fun i => (l.drop (n * i)).take n)

/-- The vectors and chunks of columns whose sums one pass holds: at most eight groups, and whole blocks of an MX output (R102, R107). -/
structure PassShape where
  vecs : List Nat
  chunks : List Nat
  deriving DecidableEq, Repr

def cutEvery (n : Nat) (l : List Nat) : List (List Nat) :=
  (List.range ((l.length + n - 1) / n)).map (fun i => (l.drop (n * i)).take n)

/-- The passes of a stage. One with LEAVE_OPEN holds all its groups at once; a stream-mode pass takes ⌊8 ÷ B⌋ chunks of all B vectors; a
weight-stationary one takes one chunk of eight vectors, or an MX output's pair of chunks of four. -/
def passesOf (d : MatDesc) (stream mxOut : Bool) : List PassShape :=
  let vs := List.range d.vectors
  let cs := List.range d.chunks
  if d.leaveOpen then [⟨vs, cs⟩]
  else if stream then (cutEvery (8 / d.vectors) cs).map (fun l => ⟨vs, l⟩)
  else (cutEvery (if mxOut then 2 else 1) cs).flatMap (fun l => (cutEvery (if mxOut then 4 else 8) vs).map (fun k => ⟨k, l⟩))

/-- The vectors of a pass with their chunks, in group order. -/
def PassShape.places (p : PassShape) : List (Nat × Nat) := p.vecs.flatMap (fun v => p.chunks.map (fun c => (v, c)))

/-- The groups that the passes of a stage hold: those of its largest pass. -/
def MatDesc.groupsUsed (d : MatDesc) (stream mxOut : Bool) : List Nat :=
  (List.range ((passesOf d stream mxOut).foldl (fun n q => max n q.places.length) 0)).map d.groupNo
def MatDesc.mxOut (d : MatDesc) (img : Image) : Bool := (tensorAt img d.out).fmt.isMx

/-- The groups that a stage opens and leaves open. -/
def stageOpens (g : Stage) : List Nat :=
  match g.work with
  | .gemm d | .gemvStream d | .conv d => d.openGroups
  | .pegSeq d => d.statGroups
  | .norm d => d.into.toList
  | .eltwise d => d.into.toList
  | _ => []
/-- The groups that a stage closes without leaving them open again. -/
def stageCloses (img : Image) (g : Stage) : List Nat :=
  match g.work with
  | .gemm d | .conv d => if d.leaveOpen then [] else d.groupsUsed false (d.mxOut img)
  | .gemvStream d => if d.leaveOpen then [] else d.groupsUsed true (d.mxOut img)
  | .reduce d => if d.op = .sumDatum then d.groups else []
  | _ => []
/-- The groups that a stage may open or close. An attention stage takes any of the eight (DESIGN CHOICE, log entry 39: R283 and R289
open and close groups without naming them). -/
def stageGroups (img : Image) (g : Stage) : List Nat :=
  match g.work with
  | .attend _ | .attendBwd _ => List.range 8
  | _ => stageOpens g ++ stageCloses img g
/-- The groups open after a list of stages. -/
def openAfter (img : Image) : List Nat → List Stage → List Nat
  | l, [] => l
  | l, g :: gs => openAfter img (((l ++ stageOpens g).filter (fun k => !(stageCloses img g).contains k)).eraseDups) gs

/-! ### Faults: the byte offset and BAD_WHERE of the first one -/

/-- The earlier of two places: the structure first, then the byte in it. -/
def earlier (a b : Nat × Nat) : Nat × Nat := if b.2 < a.2 ∨ (b.2 = a.2 ∧ b.1 < a.1) then b else a

/-- Where the first fault lies: of the tests that fail, the structure of least BAD_WHERE and the least byte in it (DESIGN CHOICE,
log entry 39). -/
def firstFault (l : List FieldFault) : Option (Nat × Nat) :=
  match l.filter (fun x => x.1) with
  | [] => none
  | x :: xs => some (xs.foldl (fun a y => earlier a y.2) x.2)

/-- The exchange fields of R129 and R135: their offsets begin at `at_`, the bay's at `bayAt`. -/
def exchFaults (e : Exch) (cAt pAt wAt bAt tAt : Nat) : List FieldFault :=
  [(decide (e.count = 1 ∨ 1024 < e.count), cAt, 0),
   (decide (e.count = 0 ∧ e.pos ≠ 0), pAt, 0), (decide (2 ≤ e.count ∧ e.count ≤ e.pos), pAt, 0),
   (decide (e.count = 0 ∧ e.landing ≠ 0), wAt, 0),
   (decide (15 < e.landing), wAt, 0), (decide (e.count = 0 ∧ e.peerBay ≠ 0), bAt, 0), (decide (63 < e.peerBay), bAt, 0),
   (decide (e.count = 0 ∧ e.awaitTimeout ≠ 0), tAt, 0),
   (decide (2 ≤ e.count ∧ ¬(1 ≤ e.awaitTimeout ∧ e.awaitTimeout ≤ 1000000)), tAt, 0)]

/-- MX formats close pairs of groups (R67). -/
def pairsWhole (l : List Nat) : Bool := l.all (fun k => l.contains (if k % 2 = 0 then k + 1 else k - 1))

/-- The formats that a group may close to (R34): no positions and counts, and none at all. -/
def Fmt.closes (f : Fmt) : Bool := f != .nofmt && f != .int32

def redFaults (d : RedDesc) (opened : List Nat) : List FieldFault :=
  let sum := d.op == .sumDatum
  [(d.op == .reserved, 16, 0), (d.modeReserved, 17, 0), (sum && d.groups.isEmpty, 18, 0), (d.groups.any (fun k => decide (7 < k)), 18, 0), (sum && d.outFmt.isMx && !pairsWhole d.groups, 18, 0),
   (sum && d.groups.any (fun k => !opened.contains k), 18, 0), (sum && !d.outFmt.closes, 19, 0),
   (!sum && decide (d.elements = 0 ∨ 8192 < d.elements), 20, 0),
   (!sum && (decide (d.src % 64 ≠ 0) || !(benchRegion d.src (4 * d.elements)).inBench), 24, 0),
   (decide (d.dst % 64 ≠ 0) || !(benchRegion d.dst (if sum then 64 * redUnits d else 4 * d.elements)).inBench, 28, 0)]
    ++ exchFaults d.exch 32 34 40 42 44

/-- The largest position of a CULL (R133). -/
def cullTop (y : Bay) (d : CullDesc) : Nat :=
  d.posBase + max 1 d.exch.count * (bayBents y).length * y.w * y.h * d.segLen - 1

def cullFaults (y : Bay) (d : CullDesc) : List FieldFault :=
  [(decide (d.k = 0 ∨ 64 < d.k), 16, 0), (decide (d.rows = 0 ∨ 64 < d.rows), 18, 0),
   (decide (d.segLen = 0 ∨ 65536 < d.segLen), 20, 0), (!(benchRegion d.src (d.rows * cullStride d)).inBench, 24, 0),
   (!(benchRegion d.dst (d.rows * (16 + 8 * d.k))).inBench, 28, 0), (decide (0xFFFFFFFE < cullTop y d), 32, 0),
   ((match f32Val d.invTemp with | .num v => decide (v.m ≤ 0) | _ => true), 36, 0)]
    ++ exchFaults d.exch 40 42 48 50 52

def statsFaults (img : Image) (d : StatsDesc) : List FieldFault :=
  [(decide (1 < d.source), 16, 0), (d.histGroups && decide (d.source ≠ 1), 17, 0),
   (decide (img.tensors.length ≤ d.tensor), 18, 0), (decide (d.histBase < -512 ∨ 511 < d.histBase), 20, 0),
   (decide (d.channels = 0 ∨ 16384 < d.channels), 22, 0), (decide (63 < d.window), 24, 0), (decide (d.offset % 64 ≠ 0), 28, 0)]

def exchangeFaults (joists : Nat) (d : ExchangeDesc) : List FieldFault :=
  [(decide (15 < d.window), 18, 0), (decide (joists ≤ d.first), 20, 0),
   (decide (d.count = 0 ∨ joists < d.first + d.count), 22, 0),
   (decide (d.src % 64 ≠ 0) || !(benchRegion d.src d.length).inBench, 24, 0),
   (decide (d.length % 64 ≠ 0 ∨ 65536 < d.length ∨ (d.length = 0 ∧ !d.imm)), 28, 0),
   (decide (1023 < d.senderPos), 40, 0), (decide (63 < d.peerBay), 42, 0)]

def awaitFaults (d : AwaitDesc) : List FieldFault :=
  [(decide (15 < d.window), 16, 0), (decide (d.count = 0 ∨ 65535 < d.count), 18, 0),
   (decide (d.timeout = 0 ∨ 1000000 < d.timeout), 20, 0)]

/-! #### Peg sequences (R194) -/

def isF (f : Fmt) : Bool := f == .fp32 || f == .bf16
/-- The formats of an operation lie in its row of the opcode table (R187). -/
def pegFmtIn (i : PegInstr) : Bool :=
  match i.op with
  | .conv => isF i.fmtIn || i.fmtIn == .int8
  | .dequant => i.fmtIn.isMx
  | .copy | .fill | .zero => i.fmtIn == .nofmt
  | .bload => i.fmtIn == .fp32
  | _ => isF i.fmtIn
def pegFmtOut (i : PegInstr) : Bool :=
  match i.op with
  | .resid => i.fmtOut == i.fmtIn
  | .conv | .fill => isF i.fmtOut || i.fmtOut == .int8
  | .quant => i.fmtOut.isMx
  | .stat | .copy | .zero | .bload => i.fmtOut == .nofmt
  | _ => isF i.fmtOut

/-- The bytes of a span of n elements, codewords for COPY and ZERO. -/
def spanBytes (op : PegOp) (f : Fmt) (n : Nat) : Nat :=
  if op = .copy ∨ op = .zero then 8 * n else if f.isMx then n * f.bits / 8 else n * (f.bits / 8)
/-- The elements of one statistics vector. -/
def vectorLen (i : PegInstr) : Nat := if i.vlen = 0 then i.count else 32 * 2 ^ i.vlen
def PegInstr.addsStats (i : PegInstr) : Bool := i.op == .stat || i.statOut

/-- The faults of one instruction. E5M2_INF, SCALE_CEIL and RMODE count as used by every operation with an output format (DESIGN CHOICE, log
entry 88: R194 does not say for which formats they are unused). -/
def pegInstrFaults (d : PegDesc) (i : PegInstr) : List (Bool × Nat) :=
  let u := i.op.uses
  let mx := i.fmtIn.isMx || i.fmtOut.isMx
  let writes := u.1.2.2.2
  let converts := i.fmtOut != .nofmt
  let spanIn := spanBytes i.op i.fmtIn i.count
  let spanOut := spanBytes i.op i.fmtOut i.count
  let slots := if i.addsStats then ceilDiv i.count (vectorLen i) else 0
  [(i.op == .reserved, 0), (!pegFmtIn i, 1), (!pegFmtOut i, 2),
   (decide (7 < i.breg) || (!u.2 && decide (i.breg ≠ 0)) || i.rmode == .reserved
      || (!converts && (i.rmode != .rne || i.e5m2Inf || i.scaleCeil || i.statOut))
      || (i.op == .napply && decide (6 < i.breg)) || (i.op == .bload && decide (8 < i.breg + i.count)), 3),
   (decide (511 < i.rowA) || (!u.1.1 && decide (i.rowA ≠ 0)), 4), (decide (511 < i.rowB) || (!u.1.2.1 && decide (i.rowB ≠ 0)), 6),
   (decide (511 < i.rowC) || (!u.1.2.2.1 && decide (i.rowC ≠ 0)), 8), (decide (511 < i.rowD) || (!writes && decide (i.rowD ≠ 0)), 10),
   (decide (63 < i.col), 12),
   (if i.addsStats then decide (3 < i.vlen ∨ 63 < i.slot)
      || (List.range slots).any (fun v => decide (63 < i.slot + v) || !d.statGroups.contains ((i.slot + v) / 8))
    else decide (i.slot ≠ 0 ∨ i.vlen ≠ 0), 13),
   (decide (i.count = 0 ∨ 512 < 8 * i.col + spanIn ∨ 512 < 8 * i.col + spanOut) || (writes && decide (spanOut % 8 ≠ 0))
      || (mx && decide (i.count % 32 ≠ 0 ∨ 512 < 8 * i.col + i.count / 32)), 14)]

/-- The faults of an instruction list: 16 × index + byte, BAD_WHERE 2. -/
def pegListFaults (d : PegDesc) : List FieldFault :=
  (d.list.mapIdx (fun n i => (pegInstrFaults d i).map (fun f => (f.1, 16 * n + f.2, 2)))).flatten

/-- The faults of a PEG_SEQ descriptor; JOIN without OVERLAP is an unused field that must be zero (DESIGN CHOICE, log entry 88: R192 gives
it no meaning then). -/
def pegFaults (s : State) (g : Stage) (d : PegDesc) (ix count : Nat) : List FieldFault :=
  [(decide (d.list = [] ∨ 1024 < d.list.length), 20, 0), (d.statGroups.any (fun k => decide (7 < k)), 22, 0),
   (d.overlap && g.num.replay, 23, 0), (d.banks.isEmpty || d.banks.any (fun b => decide (bankCount s ≤ b)), 24, 0),
   (d.overlap && !(decide (ix < d.join ∧ d.join ≤ count)), 28, 0), (!d.overlap && decide (d.join ≠ 0), 28, 0),
   (decide (8 < d.bcast.length), 32, 0)]

/-! #### Attention stages (R273, R278 to R281, R293) -/

def stripeFaults (joists : Nat) (y : Bay) (p : Stripe) (sAt fAt rAt bAt least : Nat) (others : List Stripe) :
    List FieldFault :=
  let lap (a b : Nat × Nat) : Bool := decide (a.1 < b.1 + b.2 ∧ b.1 < a.1 + a.2)
  [(!hasCache y, sAt, 0),
   (decide (p.s = 0) || decide (2 ^ Nat.log2 p.s ≠ p.s) || decide (y.pageTokens < p.s), sAt, 0),
   (decide (p.first % p.s ≠ 0 ∨ joists < p.first + p.s), fAt, 0), (decide (p.regionOff % 32 ≠ 0), rAt, 0),
   (decide (p.recBytes = 0 ∨ p.recBytes % 32 ≠ 0 ∨ p.recBytes < least), bAt, 0),
   (decide (16384 < p.regionOff + y.pageTokens / p.s * p.recBytes), rAt, 0),
   (others.any (fun o => decide (o ≠ p) && lap (p.first, p.s) (o.first, o.s)
      && lap (p.regionOff, y.pageTokens / p.s * p.recBytes) (o.regionOff, y.pageTokens / o.s * o.recBytes)), rAt, 0)]

def attFaults (y : Bay) (joists : Nat) (d : AttDesc) (map : StageMap) (bwd : Bool) (others : List Stripe) : List FieldFault :=
  let off (b : Bool) (n : Nat) : Bool := b && decide (n ≠ 0)
  let regions := attParams d bwd
  [(d.vision && (d.windowed || d.halves), 17, 0), (bwd && d.saveStats, 17, 0),
   (!([Fmt.e4m3, .e5m2, .e2m3, .e3m2].contains d.cacheFmt), 18, 0), (!d.qFmt.isMx, 19, 0), (!d.outFmt.closes, 20, 0),
   (decide (d.heads = 0 ∨ 64 < d.heads), 21, 0),
   (if d.expand then decide (d.kGroups = 0 ∨ d.heads < d.kGroups ∨ d.heads % d.kGroups ≠ 0) else decide (d.kGroups ≠ 0), 22, 0),
   (decide (d.latent < 32 ∨ 1024 < d.latent ∨ d.latent % 32 ≠ 0), 24, 0),
   (if d.expand then decide (d.headDim < 32 ∨ 256 < d.headDim ∨ d.headDim % 32 ≠ 0) else decide (d.headDim ≠ 0), 26, 0),
   (if d.vision then decide (d.ropeDim ≠ 0) else !([0, 32, 64, 128].contains d.ropeDim), 28, 0),
   (if d.vision then decide (d.win = 0 ∨ 32 < d.win) else decide (d.win ≠ 0), 29, 0)]
    ++ stripeFaults joists y d.stripe 23 30 32 34 (d.ropeOff + 2 * d.ropeDim) others
    ++ [(if d.windowed then decide (d.span = 0 ∨ 65535 < d.span) else decide (d.span ≠ 0), 36, 0),
   (if d.bitmask then decide (d.maskStride < 8 ∨ 3072 < d.maskStride ∨ d.maskStride % 8 ≠ 0) else decide (d.maskStride ≠ 0), 38, 0),
   ((match f32Val d.scale with | .num v => decide (v.m ≤ 0) | _ => true), 40, 0),
   (decide (d.maxRows = 0 ∨ 8192 < d.maxRows), 44, 0),
   (decide (d.kexpDatum < -512 ∨ 511 < d.kexpDatum) || (!d.expand && !bwd && decide (d.kexpDatum ≠ 0)), 46, 0),
   (decide (63 < d.entryFirst) || (decide (d.entryCount = 0 ∧ d.entryFirst ≠ 0)), 52, 0),
   (decide (64 < d.entryFirst + d.entryCount), 53, 0), (if d.expand then !d.wFmt.isMx else d.wFmt != .nofmt, 54, 0)]
    ++ regions.map (fun r => (decide (r.2.1.base % 64 ≠ 0) || !r.2.1.inBench, r.1, 3))
    ++ regions.map (fun r => (planeFault d map r, r.1, 3))
    ++ regions.map (fun r => (regions.any (fun q => decide (q.1 < r.1) && q.2.1.meets r.2.1), r.1, 3))
    ++ [(off (!d.expand) d.wuk, 8, 3), (off (!d.expand) d.wuv, 12, 3), (off (!d.bitmask) d.mask, 20, 3),
        (decide (d.statsOff % 64 ≠ 0) || !(benchRegion d.statsOff (8 * d.maxRows * d.heads)).inBench, 28, 3),
        (decide (d.outDst % 64 ≠ 0) || !(benchRegion d.outDst (d.maxRows * d.heads * d.outBytes)).inBench, 4, 3), (off (!bwd) d.doSrc, 32, 3), (off (!bwd) d.oSrc, 36, 3),
        (off (!bwd) d.dqDst, 40, 3), (off (!bwd) d.dcDst, 44, 3),
        (if bwd then !(d.gradFmt == .e4m3 || d.gradFmt == .e5m2) else d.gradFmt != .nofmt, 48, 3),
        (if bwd then decide (d.dcRecs = 0 ∨ 65535 < d.dcRecs) else decide (d.dcRecs ≠ 0), 52, 3)]

/-! #### Matrix and element-wise stages (R380; bytes 16 on, reported at byte 16) -/

/-- The bytes of a tensor's share hold n elements, and MX tensors name their scale plane. -/
def holds (img : Image) (ti n : Nat) : Bool :=
  let t := tensorAt img ti
  decide (ti < img.tensors.length) && decide (t.fmt ≠ .nofmt) && decide (fmtBytes t.fmt n ≤ t.bytes)
    && (!t.fmt.isMx || (match t.scales with
      | some k => decide ((n + 31) / 32 ≤ (tensorAt img k).bytes) && decide (k < img.tensors.length)
      | none => false))

/-- The trusses multiply MX by MX, or BF16 by BF16 (R86 to R88). -/
def trussPair (a b : Fmt) : Bool := (a.isMx && b.isMx) || (a == .bf16 && b == .bf16)

/-- The taps of a CONV divide the reduction evenly, in whole blocks, and stay within the share (R46). -/
def tapFault (img : Image) (d : MatDesc) : Bool :=
  let n := d.taps.length
  let inner := d.red / n
  let mx := (tensorAt img d.act).fmt.isMx
  decide (0 < n) && (decide (inner * n ≠ d.red) || d.taps.any (fun t =>
    (mx && decide (inner % 32 ≠ 0 ∨ t.off % 32 ≠ 0)) || !holds img d.act (t.off + d.vectors * inner)))

/-- The faults of a matrix stage's descriptor. Whether the stage's split across bents or devices cuts a 32-element block comes with
the named part of the image (splitBlock), since the spec gives a split no fields (R46; DESIGN CHOICE, log entry 39). -/
def matFaults (img : Image) (d : MatDesc) (stream : Bool) : List FieldFault :=
  let f (ti : Nat) : Fmt := (tensorAt img ti).fmt
  [(d.taps.isEmpty && !holds img d.act (d.vectors * d.red), 16, 0),
   (!holds img d.wgt (d.cols * d.red), 16, 0), (!d.leaveOpen && !holds img d.out (d.vectors * d.cols), 16, 0),
   (decide (d.vectors = 0 ∨ d.cols = 0 ∨ d.red = 0), 16, 0), (!trussPair (f d.act) (f d.wgt), 16, 0),
   (d.splitBlock || ((f d.act).isMx && decide (d.red % 32 ≠ 0)), 16, 0),
   (!d.leaveOpen && (!(f d.out).closes || ((f d.out).isMx && decide (d.cols % 32 ≠ 0))), 16, 0),
   ((d.groupsUsed stream (d.mxOut img)).any (fun k => decide (7 < k)) || (!d.leaveOpen && d.mxOut img && decide (d.group % 2 ≠ 0)), 16, 0),
   (stream && (decide (d.vectors = 0 ∨ 4 < d.vectors) || !(f d.wgt).isMx), 16, 0),
   (tapFault img d, 16, 0),
   (!stream && (d.staging img).any (fun g => decide (g.len = 0 ∨ g.base % 64 ≠ 0) || !g.inBench), 16, 0)]

/-- Inputs that the vector unit takes as FP32 words. -/
def eltInputs (op : VecOp) : Nat :=
  match op with
  | .fma => 3
  | .exp2 | .log2 | .recip | .rsqrt | .sin | .cos => 1
  | _ => 2

/-! #### One stage -/

/-- The stripe that a stage runs on; the others run on the whole bay (R270). -/
def StageWork.stripe : StageWork → Option Stripe
  | .attend d | .attendBwd d => some d.stripe
  | .scatterKv d => some d.stripe
  | _ => none
def stripesOf (l : List Stage) : List Stripe := l.filterMap (fun g => g.work.stripe)

/-- The common header (R379, R51, R52). -/
def headerFaults (g : Stage) : List FieldFault :=
  let bare := match g.work with | .exchange _ | .await _ | .scatterKv _ => true | _ => false
  [(if bare then decide ({ g.num with seed := 0 } ≠ {}) else g.num.reservedBit || g.num.rmode == .reserved, 2, 0),
   (bare && decide (g.num.seed ≠ 0), 4, 0), (bare && g.datumTab.isSome, 8, 0)]
    ++ (g.datumTab.getD []).mapIdx (fun k d => (decide (d < -512 ∨ 511 < d), 2 * k, 1))

/-- The faults of a stage's own fields. -/
def workFaults (s : State) (img : Image) (y : Bay) (ix : Nat) (g : Stage) : List FieldFault :=
  let joists := (bayJoists s y).length
  let before := img.stages.take ix
  match g.work with
  | .gemm d => matFaults img { d with taps := [] } false
  | .conv d => matFaults img d false
  | .gemvStream d => matFaults img { d with taps := [] } true
  | .attend d => attFaults y joists d g.map false (stripesOf before)
  | .attendBwd d => attFaults y joists d g.map true (stripesOf before)
  | .scatterKv d => stripeFaults joists y d.stripe 16 18 20 22 0 (stripesOf before)
      ++ [(decide (d.src % 64 ≠ 0 ∨ benchBytes ≤ d.src), 24, 0)]
  | .norm d => [(!holds img d.src d.count || !holds img d.gain d.count || !holds img d.bias d.count
      || !holds img d.out d.count || d.into.any (fun k => decide (7 < k)), 16, 0)]
  | .eltwise d => [(!holds img d.a d.count || (decide (2 ≤ eltInputs d.op) && !holds img d.b d.count)
      || (decide (3 ≤ eltInputs d.op) && !holds img d.c d.count) || !holds img d.out d.count || d.into.any (fun k => decide (7 < k)), 16, 0)]
  | .convert d => [(!holds img d.src d.count || !holds img d.out d.count, 16, 0)]
  | .pegSeq d => pegFaults s g d ix img.stages.length ++ pegListFaults d
  | .reduce d => redFaults d (openAfter img [] before)
  | .cull d => cullFaults y d
  | .stats d => statsFaults img d
  | .exchange d => exchangeFaults joists d
  | .await d => awaitFaults d

/-- A replayed stage may not write over its inputs (R56). -/
def replayFault (img : Image) (y : Bay) (g : Stage) : FieldFault :=
  (g.num.replay && anyMeet (stageReads img y g) (stageWrites img y g), 2, 0)

/-- The overlapping PEG_SEQ stages that a stage runs under (R195). -/
def overlapsAt (img : Image) (ix : Nat) : List PegDesc :=
  ((img.stages.take ix).mapIdx (fun k g => (k, g))).filterMap (fun e => match e.2.work with
    | .pegSeq d => if d.overlap ∧ ix < d.join then some d else none
    | _ => none)

def overlapFaults (img : Image) (y : Bay) (ix : Nat) (g : Stage) : List FieldFault :=
  (overlapsAt img ix).flatMap (fun d =>
    let named := pegRegions d (fun i => i.reads ++ i.writes)
    [((match g.work with | .pegSeq _ => true | _ => false), 0, 0),
     ((stageGroups img g).any (fun k => d.statGroups.contains k), (match g.work with | .reduce _ => 18 | _ => 16), 0),
     (anyMeet (stageWrites img y g) named, 16, 0),
     (anyMeet (stageReads img y g) (pegRegions d PegInstr.writes), 16, 0)])

/-- Where the first fault of stage ix lies, given the faults of the fields that its bytes reserve. -/
def stageFault (s : State) (img : Image) (y : Bay) (ix : Nat) (g : Stage) (raw : List FieldFault) : Option (Nat × Nat) :=
  firstFault (raw ++ headerFaults g ++ workFaults s img y ix g ++ replayFault img y g :: overlapFaults img y ix g)

/-! ### The whole image -/

/-- A tensor table entry (R378, R145, R147, R238). -/
def tensorFault (s : State) (img : Image) (y : Bay) (t : Tensor) : Bool :=
  let kept := (if hasCache y then [cacheRegion y] else []) ++ (if 0 < y.seqSlots then [ptRegion y] else [])
  (t.extents.any (fun e => decide ((if t.inSlice then sliceBytes s else benchBytes) < e.1 + e.2)
      || kept.any (Region.meets ⟨t.inSlice, e.1, e.2⟩)))
    || (match t.scales with | some k => decide (img.tensors.length ≤ k) || !t.fmt.isMx | none => false)
    || decide (t.extents.foldl (fun n e => n + e.2) 0 < t.bytes)

/-- A landing window table entry (R577). -/
def landingFault (img : Image) (k : Nat) (l : LandingDef) : Bool :=
  decide (15 < l.window) || (img.landing.take k).any (fun o => o.window = l.window)
    || decide (l.benchOff % 64 ≠ 0 ∨ l.extent % 64 ≠ 0 ∨ l.extent < 64 ∨ 65536 < l.extent ∨ benchBytes < l.benchOff + l.extent)

/-- BAD_STAGE, BAD_OFFSET and BAD_WHERE of the first fault of the image whose bytes are b (R373): the header, then the two
tables, then the stages in order. -/
def imageFault (s : State) (b : List Byte) (named : List Named) (img : Image) (y : Bay) : Option (Nat × Nat × Nat) :=
  match firstFault (headFaults b) with
  | some f => some (0xFFFE, f)
  | none =>
    match (img.tensors.mapIdx (fun k t => (k, t))).find? (fun e => tensorReserved b e.1 || tensorFault s img y e.2) with
    | some e => some (0xFFFD, e.1, 5)
    | none =>
      match (img.landing.mapIdx (fun k l => (k, l))).find? (fun e => landingReserved b e.1 || landingFault img e.1 e.2) with
      | some e => some (0xFFFD, e.1, 6)
      | none => (img.stages.mapIdx (fun k g => (k, g))).findSome? (fun e =>
          (stageFault s img y e.1 e.2 (stageReserved (descAt b e.1) (mapOf b) (namedAt b named e.1))).map (fun f => (e.1, f)))

/-! ### Unbounded stages (R309) -/

/-- The tensors that a stage reads or writes, each one port stream (DESIGN CHOICE, log entry 39). -/
def stageStreams (g : Stage) : List Nat :=
  match g.work with
  | .gemm d | .gemvStream d | .conv d => d.act :: d.wgt :: (if d.leaveOpen then [] else [d.out])
  | .norm d => [d.src, d.gain, d.bias, d.out]
  | .eltwise d => [d.a, d.b, d.c].take (eltInputs d.op) ++ [d.out]
  | .convert d => [d.src, d.out]
  | _ => []

/-- The rows, as row numbers in slice order, that a region of the slice touches. -/
def Region.rows (r : Region) : List Nat :=
  if r.inSlice ∧ 0 < r.len then (List.range ((r.base % 512 + r.len + 511) / 512)).map (fun i => r.base / 512 + i) else []
def rowBank (row : Nat) : Nat := (decodeSA (512 * row)).bankIx

/-- Two streams address one bank of a joist at different rows. -/
def rowsClash (l m : List Nat) : Bool := l.any (fun a => m.any (fun b => decide (a ≠ b ∧ rowBank a = rowBank b)))
def bankClash (img : Image) (g : Stage) : Bool :=
  let l := (stageStreams g).eraseDups
  let rows (t : Nat) : List Nat := (tensorRegions img t).flatMap Region.rows
  l.any (fun a => l.any (fun b => decide (a < b) && rowsClash (rows a) (rows b)))

/-- The stages marked unbounded (R309). -/
def unboundedStages (img : Image) (y : Bay) : List Nat :=
  (img.stages.mapIdx (fun k g => (k, g))).filterMap (fun e =>
    let banks := (stageReads img y e.2 ++ stageWrites img y e.2).flatMap Region.banks
    if e.2.map.paths.any (fun p => p.2 == .narrow) || bankClash img e.2 || (overlapsAt img e.1).any (fun d => d.banks.any banks.contains) then some e.1 else none)

end Sys2Proof
end

