-- ==== Sys2Proof/Machine/Jig.lean ====
section
/-! DEFINITION. The jig's shared operations: planned lengths, admission (R256 to R260, R294), ending steps (R260, R276,
R368), copy-on-write copies (R251) and the release of bays (R239). -/

namespace Sys2Proof.Machine

/-! ### Finding steps -/

def stepOf (s : State) (id : Nat) : Option Step := s.jig.steps.find? (fun x => x.id = id)
def setStep (id : Nat) (f : Step → Step) (s : State) : State :=
  s.onJig (fun j => { j with steps := j.steps.map (fun x => if x.id = id then f x else x) })
/-- A peer without the packets of a step that still wait for credits. -/
def Peer.without (bay id : Nat) (p : Peer) : Peer :=
  let keep (x : TxPkt) : Bool := !((x.step.map (fun e => decide (e.1 = bay ∧ e.2.1 = id))).getD false)
  { p with heldPkts := p.heldPkts.filter keep, counted := ((p.heldPkts.take p.counted).filter keep).length
           stalled := p.stalled && !(p.heldPkts.filter keep).isEmpty }
/-- The packets of a step that still wait for credits go with it: no EXCHANGE waits any more (R355). -/
def dropHeld (bay id : Nat) (s : State) : State :=
  s.onNet (fun n => { n with jobs := n.jobs.map (fun e =>
    (e.1, e.2.map (fun j => { j with peers := j.peers.map (Peer.without bay id) }))) })

/-- A step leaves the jig, with the arrival counts kept for it (R338). -/
def dropStep (id : Nat) (s : State) : State :=
  let s := match stepOf s id with
    | some x => dropHeld x.bay id (s.setBay x.bay (fun y =>
        { y with arrivals := y.arrivals.filter (fun e => e.1 / 16 ≠ x.jigSeq % 65536) }))
    | none => s
  s.onJig (fun j => { j with steps := j.steps.filter (fun x => x.id ≠ id) })
/-- The key of an arrival count: jig sequence count and window. -/
def arrivalKey (jigSeq w : Nat) : Nat := jigSeq % 65536 * 16 + w
def stepsOf (s : State) (bay : Nat) : List Step := s.jig.steps.filter (fun x => x.bay = bay)
def runningStep (s : State) (bay : Nat) : Option Step := (stepsOf s bay).find? (fun x => x.phase = .running)
def Step.names (x : Step) (q : Nat) : Bool := x.table.any (fun e => e.seqId = q)
def Step.appends (x : Step) (q : Nat) : Nat := ((x.table.filter (fun e => e.seqId = q)).map (fun e => e.append)).foldl (· + ·) 0
def Step.isQueued (x : Step) : Bool := x.phase == .queued
def Step.isArmed (x : Step) : Bool := x.phase == .armed || x.phase == .latched

/-- The planned length of a sequence: committed plus the appends of admitted steps not completed (R258). -/
def plannedLen (s : State) (q : Nat) : Nat :=
  ((s.seqRec q).map (fun r => r.length)).getD 0
    + (s.jig.steps.filter (fun x => !x.isQueued)).foldl (fun n x => n + x.appends q) 0

/-! ### Programs' stages -/

def isScatter (g : Stage) : Bool := match g.work with | .scatterKv _ => true | _ => false
/-- The attention descriptor of a stage. -/
def attOf (g : Stage) : Option AttDesc :=
  match g.work with
  | .attend d => some d
  | .attendBwd d => some d
  | _ => none
def bayStages (y : Bay) : List Stage := (y.program.map (fun p => p.stages)).getD []
/-- The entries that an attention stage covers (R281). -/
def covered (d : AttDesc) (table : List LtEntry) : List LtEntry :=
  if d.entryCount = 0 then table else (table.drop d.entryFirst).take d.entryCount
/-- The visible length of an entry (R277). -/
def visibleLen (d : AttDesc) (committed append : Nat) : Nat := if d.includeNew then committed + append else committed

/-! ### Admission -/

/-- What an admission would take. -/
structure Plan where
  free : List Nat
  planned : List (Nat × Nat) := []
  added : List (Nat × Nat) := []
  fromReserve : List (Nat × Nat) := []
  cows : List (Nat × Nat × Nat) := []
  written : List Nat := []
  deriving DecidableEq, Repr

/-- The outcome of an admission attempt. -/
inductive Admission where
  | admitted (s : State)
  | lacking
  | bad
  | held
  deriving DecidableEq, Repr

/-- Takes the page sets to add for one sequence: its reserve first, in ascending page index (R258). -/
def planAdd (q : Nat) : Nat → List Nat → Plan → Option Plan
  | 0, _, pl => some pl
  | n + 1, r :: rs, pl =>
    planAdd q n rs { pl with
      added := pl.added ++ [(q, r)]
      fromReserve := pl.fromReserve ++ [(q, r)]
      written := pl.written ++ [r] }
  | n + 1, [], pl =>
    match pickPage pl.free (fun _ => true) with
    | none => none
    | some p => planAdd q n [] { pl with
        free := pl.free.erase p
        added := pl.added ++ [(q, p)]
        written := pl.written ++ [p] }

def sortNat (l : List Nat) : List Nat := l.foldl (fun acc x => acc.takeWhile (fun y => decide (y ≤ x)) ++ x :: acc.dropWhile (fun y => decide (y ≤ x))) []

/-- Does the append of an entry need a copy-on-write (R251)? The page set it concerns, whose owner count the copies that the plan already
holds have lowered. -/
def cowSource (s : State) (y : Bay) (r : SeqRec) (planned append : Nat) (gone : List (Nat × Nat × Nat)) : Option Nat :=
  if append = 0 ∨ planned % y.pageTokens = 0 then none
  else (r.entries[planned / y.pageTokens]?).bind (fun p =>
    if 1 < ownerOf s r.bay p - (gone.filter (fun c => c.2.1 = p)).length then some p else none)

/-- Plans one length-table entry. -/
def planEntry (s : State) (y : Bay) (e : LtEntry) (pl : Plan) : Option Plan :=
  match s.seqRec e.seqId with
  | none => some pl
  | some r =>
    let len := plannedLen s e.seqId
    let pl := { pl with planned := pl.planned ++ [(e.seqId, len)] }
    let add := pagesFor y (len + e.append) - pagesFor y len
    let reserve := sortNat r.reserve
    let last := if e.append = 0 ∨ len % y.pageTokens = 0 then none else r.entries[len / y.pageTokens]?
    match cowSource s y r len e.append pl.cows with
    | none =>
      planAdd e.seqId add reserve { pl with written := pl.written ++ last.toList }
    | some src =>
      match reserve.find? (fun p => pageClass p = pageClass src) with
      | some t =>
        planAdd e.seqId add (reserve.erase t) { pl with
          cows := pl.cows ++ [(e.seqId, src, t)]
          fromReserve := pl.fromReserve ++ [(e.seqId, t)]
          written := pl.written ++ [t] }
      | none =>
        match (freeOf pl.free (pageClass src)).head? with
        | none => none
        | some t => planAdd e.seqId add reserve { pl with
            cows := pl.cows ++ [(e.seqId, src, t)]
            free := pl.free.erase t
            written := pl.written ++ [t] }

def planAll (s : State) (y : Bay) : List LtEntry → Plan → Option Plan
  | [], pl => some pl
  | e :: es, pl => (planEntry s y e pl).bind (planAll s y es)

/-- One staging page set for each lamination that the appends write (R294). -/
def planStaging : List Nat → List Nat → Option (List Nat)
  | [], _ => some []
  | lam :: ls, free =>
    match pickPage free (fun c => c / 4 = lam) with
    | none => none
    | some p => (planStaging ls (free.erase p)).map (fun l => p :: l)

/-- The faults that end a step at its admission (R258, R275, R297). -/
def admissionFault (s : State) (y : Bay) (table : List LtEntry) : Bool :=
  let att := (bayStages y).filterMap (fun g => match g.work with | .attendBwd d => some d | _ => none)
  let vision := (bayStages y).filterMap (fun g => (attOf g).bind (fun d => if d.vision then some (d.win * d.win) else none))
  table.any (fun e =>
    let len := plannedLen s e.seqId + e.append
    decide (y.tableLen < pagesFor y len) || decide (len < e.start + e.qlen) || vision.any (fun w2 => decide (w2 < len)))
  || att.any (fun d => (List.range d.stripe.s).any (fun k =>
      decide (d.dcRecs < ((covered d table).filter (fun e => 0 < e.qlen)).foldl (fun n e =>
        let v := visibleLen d (plannedLen s e.seqId) e.append
        n + (v + d.stripe.s - 1 - k) / d.stripe.s) 0)))

/-- R257: an earlier step that names the same sequence is still queued, or a copy-on-write must wait for its end. -/
def orderHeld (s : State) (y : Bay) (x : Step) : Bool :=
  let earlier := s.jig.steps.filter (fun z => z.id < x.id)
  x.table.any (fun e =>
    earlier.any (fun z => z.names e.seqId &&
      (z.isQueued || (match s.seqRec e.seqId with
        | none => false
        | some r => (cowSource s y r (plannedLen s e.seqId) e.append []).isSome))))

/-- Puts a plan into effect: page sets owned, tables rewritten, sources released (R247, R258). -/
def applyPlan (x : Step) (pl : Plan) (staging : List Nat) (s : State) : State :=
  let own (s : State) (e : Nat × Nat) : State :=
    if pl.fromReserve.contains e then s else onOwner x.bay e.2 (fun _ => 1) s
  let s := pl.added.foldl own s
  let s := pl.cows.foldl (fun s c => onOwner x.bay c.2.1 (· - 1) (own s (c.1, c.2.2))) s
  let s := ownPages x.bay staging s
  let s := (x.table.map (fun e => e.seqId)).foldl (fun s q =>
    match s.seqRec q with
    | none => s
    | some r =>
      let r1 := { r with
        reserve := r.reserve.filter (fun p => !pl.fromReserve.contains (q, p))
        entries := r.entries.map (fun p => match pl.cows.find? (fun c => c.1 = q ∧ c.2.1 = p) with
            | some c => c.2.2
            | none => p) ++ (pl.added.filter (fun e => e.1 = q)).map (fun e => e.2) }
      if r1 = r then s else putRecord q r1 s) s
  setStep x.id (fun z => { z with
    phase := if z.arm.isSome then .armed else .admitted
    lackedPages := false
    grant := { planned := pl.planned, added := pl.added, staging := staging,
               cows := pl.cows.map (fun c => (c.1, c.2.1, c.2.2, false)) } }) s

/-- One attempt to admit a step (R258). -/
def tryAdmit (s : State) (x : Step) : Admission :=
  match s.bayOf x.bay with
  | none => .bad
  | some y =>
    if orderHeld s y x then .held
    else if admissionFault s y x.table then .bad
    else
      match planAll s y x.table { free := freePages s x.bay y } with
      | none => .lacking
      | some pl =>
        let lams := if (bayStages y).any isScatter then (pl.written.map (fun p => p / 64)).eraseDups else []
        match planStaging lams pl.free with
        | none => .lacking
        | some st => .admitted (applyPlan x pl st s)

/-! ### Copy-on-write copies (R209, R210, R251) -/

/-- Copies n bytes between two key ranges of the slices; an uncorrectable codeword is copied as poison (R206). -/
def copyRange (src dst n : Nat) (m : Mem) : Mem :=
  let cells := m.slice.filter (fun e => decide (src ≤ e.1 ∧ e.1 < src + n))
  let marks := m.sliceMark.filter (fun e => decide (src / 8 ≤ e.1 ∧ e.1 < (src + n) / 8))
  { m with
    slice := cells.foldl (fun l e => mset 0 l (e.1 - src + dst) e.2) (wipeRange dst n m.slice)
    sliceMark := marks.foldl (fun l e => mset 0 l (e.1 - src / 8 + dst / 8) 2) (wipeRange (dst / 8) (n / 8) m.sliceMark)
    ce2Queue := m.ce2Queue.filter (fun u => !decide (dst / 8 ≤ u ∧ u < (dst + n) / 8)) }

/-- Every cached line of a page's rows leaves the slice cache before pegs read or write them (R162, R179). -/
def dropPage (j page : Nat) (l : List CacheLine) : List CacheLine :=
  (List.range 8).foldl (fun l r => (List.range 4).foldl (fun l b => cacheDropRow j (4 * (page / 64) + b) (8 * (page % 64) + r) l) l) l

/-- Copies page src into page dst on every joist of a bay, for its tenancy. -/
def copyPage (y : Bay) (src dst : Nat) (js : List Nat) (s : State) : State :=
  js.foldl (fun s j =>
    let s := s.onJoi (fun x => { x with cache := dropPage j dst (dropPage j src x.cache) })
    (s.onMem (fun m =>
      let m := copyRange (memKey true j (src * 16384)) (memKey true j (dst * 16384)) 16384 m
      { m with touched := (List.range 32).foldl (fun t i => mset false t (rowKey j (dst * 16384 + 512 * i)) true) m.touched })
      ).setJoist j (fun x => { x with touchedBy := some y.tenancy })) s

/-- The copies of a step that have not ended go on without it (R260: a copy that a step caused is kept). -/
def keepCopies (x : Step) (s : State) : State :=
  s.onJig (fun k => { k with orphans := k.orphans ++ (x.grant.cows.filter (fun c => !c.2.2.2)).map (fun c => (x.bay, c.2.1, c.2.2.1)) })

/-! ### Ending steps -/

/-- Releases what admission took for a step and no committed position needs (R260). -/
def dropGrant (x : Step) (s : State) : State :=
  let s := keepCopies x s
  let held := x.grant.added.filter (fun e => ((s.seqRec e.1).map (fun r => r.entries.contains e.2)).getD false)
  let s := releasePages x.bay (held.map (fun e => e.2) ++ x.grant.staging) s
  (x.table.map (fun e => e.seqId)).foldl (fun s q =>
    let mine := (x.grant.added.filter (fun e => e.1 = q)).map (fun e => e.2)
    match s.seqRec q with
    | none => s
    | some r => if mine = [] then s else putRecord q { r with entries := r.entries.filter (fun p => !mine.contains p) } s) s

def bayEpoch (s : State) (bay : Nat) : Nat := ((s.bayOf bay).map (fun y => y.epoch)).getD s.cfg.epoch

/-- A step that has not started ends (R368: STAGE 0xFFFF, no stage run). -/
def cancelOne (status : Status) (x : Step) (s : State) : State :=
  if (stepOf s x.id).isNone then s
  else
    let s := dropGrant x s
    post x.cx 0x0040 { status := status, result := [x.jigSeq, 0xFFFF, 0, 0], summary := some {},
                       bound := some {}, epoch := some (bayEpoch s x.bay) } (dropStep x.id s)

/-! ### Sessions end -/

/-- A job binding in progress goes, with the queue pairs it made; a binding in force stays (R326, R413). -/
def dropBinding (t : Nat) (s : State) : State :=
  match mget none s.net.binding t with
  | none => s
  | some j => (j.peers.foldl (fun s p => if p.qpn = 0 then s else removeQp p.qpn s) s).putBinding t none

/-- A command in progress ends without its effect: its binding or its draining APPLY goes (R372, R461). -/
def abandon (session seq : Nat) (s : State) : State :=
  let mine (c : Cmd) : Bool := decide (c.session = session ∧ c.seq = seq)
  let s := ((present s.net.binding).filter (fun e => mine e.2.cx)).foldl (fun s e => dropBinding e.1 s) s
  s.onCfg (fun c => { c with applying := if (c.applying.map (fun a => mine a.cx)).getD false then none else c.applying })

/-- The waiting steps and commands of a session complete with E_RESET, all but the command with one SEQ (R376, R399). -/
def endWork (i keepSeq : Nat) (s : State) : State :=
  let s := (s.jig.steps.filter (fun x => x.cx.session = i ∧ x.phase ≠ .running)).foldl (fun s x => cancelOne .reset x s) s
  (s.qci.taken.filter (fun t => t.session = i ∧ t.seq ≠ keepSeq ∧ t.opcode ≠ 0x0040)).foldl (fun s t =>
    post { session := i, seq := t.seq, tag := t.tag, port := t.port } t.opcode { status := .reset } (abandon i t.seq s)) s

/-- The session goes: its host queue pairs enter the error state, its slots are free, a firmware update it has open is
abandoned (R405, R425). -/
def dropSession (i : Nat) (s : State) : State :=
  let mine (k : Nat) : Bool := decide (((s.qp k).bind (fun q => q.session)) = some i)
  let s := purgePkts mine s
  let s := s.onNet (fun n => { n with rx := n.rx.filter (fun r => r.acked || !mine (qpKey r.pkt.port r.pkt.qpn)) })
  let s := s.onNet (fun n => { n with qps := n.qps.map (fun e =>
    (e.1, e.2.map (fun q => if q.session = some i then endKeys q else q))) })
  let s := s.onKp (fun k => { k with update := if (k.update.map (fun u => u.session)) = some i then none else k.update })
  let s := s.onQci (fun q => { q with half := mset none q.half i none, taken := q.taken.filter (fun t => t.session ≠ i) })
  s.putSession i none

/-- A session ends (R405). -/
def endSession (i keepSeq : Nat) (s : State) : State := dropSession i (endWork i keepSeq s)

/-- A session ends after its command with SEQ 0xFFFF_FFFF (R405). -/
def closeLast (cx : Cmd) (s : State) : State :=
  if cx.seq = 0xFFFFFFFF ∧ cx.session ≠ preSession then endSession cx.session cx.seq s else s
/-- Completes a command. -/
def finish (cx : Cmd) (op : Nat) (v : Verdict) (s : State) : State := closeLast cx (post cx op v s)

/-- A step that has not started ends, and its session where its command was the last. -/
def cancelStep (status : Status) (x : Step) (s : State) : State := closeLast x.cx (cancelOne status x s)

/-- Ends every step of a bay that has not started. -/
def cancelWaiting (status : Status) (bay : Nat) (s : State) : State :=
  ((stepsOf s bay).filter (fun x => x.phase ≠ .running)).foldl (fun s x => cancelStep status x s) s

/-- The pages a step has pinned are unpinned. -/
def dropPins (x : Step) (s : State) : State := unpinPages x.bay (x.pins.map (fun e => e.2.2)) s

/-- Pegs and joists of a bay stop their work: pegs finish the row operation in progress (R208, R466). -/
def idleJoists (js : List Nat) (s : State) : State :=
  s.onJoi (fun x => { x with
    pegs := x.pegs.filter (fun e => !js.contains (e.1 / 32))
    joists := js.foldl (fun m j => mmod {} m j (fun z => { z with
      pegBay := 0, pegStage := 0, pegList := [], pegBanks := [], pegBegun := false, inbox := [] })) x.joists })

/-- Divisor d and swallowed pulses s of a level (R502). -/
def levelDs (n : Nat) : Nat × Nat :=
  if n ≤ 5 then (2, n) else if n ≤ 9 then (3, n - 6) else if n ≤ 13 then (4, n - 10)
  else if n ≤ 16 then (5, n - 14) else (6, n - 17)

/-- Adds a cause to VOID. -/
def Step.voided (n : Nat) (x : Step) : Step := if x.void.contains n then x else { x with void := x.void ++ [n] }

/-- The step uses a bank of a joist: a stage of its program reads or writes bytes in it (R311). -/
def stepUses (s : State) (x : Step) (j bank : Nat) : Bool :=
  match s.bayOf x.bay with
  | none => false
  | some y =>
    (bayJoists s y).contains j && (y.program.toList.any (fun img => img.stages.any (fun g =>
      (stageReads img y g ++ stageWrites img y g).any (fun r => r.banks.contains bank))))
/-- A cause of VOID in a bank touches the running steps that use it. -/
def voidBank (n j bank : Nat) (s : State) : State :=
  s.onJig (fun k => { k with steps := k.steps.map (fun x =>
    if x.phase = .running ∧ stepUses s x j bank then x.voided n else x) })

/-- A finding makes the bound void: a CE2 or an uncorrectable read in a slice bank (R311). -/
def voids (f : Finding) : Bool := decide (f.unit < 24) && f.kind != .ce1

/-- Errors that a requester other than a stage of the step meets: they are met, and in a bank that a running step uses they make its bound
void (R310, R311). -/
def meetShared (l : List Finding) (s : State) : State :=
  (l.filter voids).foldl (fun s f => voidBank 4 f.joist f.unit s) (meetAll l s)

/-- The pegs copy one page set of a bay into another, with the errors that their reads meet (R205, R210, R251). -/
def copyMeeting (y : Bay) (src dst : Nat) (found : List Finding) (s : State) : State :=
  let js := bayJoists s y
  let fresh := (found.filter (fun f => js.contains f.joist && decide (f.unit < 24) && pageHasRow src f.unit (f.row % 512))).map
    (fun f => { classed s f with src := 3 })
  let old := (js.flatMap (fun j => poisonReads s true j (src * 16384) 16384 3)).filter (fun f => !justFound fresh f)
  copyPage y src dst js (meetShared (old ++ fresh) s)

/-- The copies of a bay that no step waits for. -/
def orphansOf (s : State) (bay : Nat) : List (Nat × Nat × Nat) := s.jig.orphans.filter (fun c => c.1 = bay)
def dropOrphans (bay : Nat) (s : State) : State := s.onJig (fun k => { k with orphans := k.orphans.filter (fun c => c.1 ≠ bay) })
/-- The copies of a bay that is released end with it. -/
def endOrphans (bay : Nat) (s : State) : State :=
  match s.bayOf bay with
  | none => s
  | some y => dropOrphans bay ((orphansOf s bay).foldl (fun s c => copyMeeting y c.2.1 c.2.2 [] s) s)

/-- The bound word of a step that has run, or was halted (R311). -/
def boundOf (x : Step) : Bound :=
  { void := (sortNat x.void).headD 0, start := x.startKind, div := (levelDs x.level).1, swallow := (levelDs x.level).2,
    hot := x.hot, reroute := x.reroute, awaited := x.awaited, awaitWait := x.awaitWait }

/-- The wait of a stage for landing data up to now (R311). -/
def Active.waited (s : State) (a : Active) : Nat := if a.waiting then hclkNow s - a.startedAt else 0
/-- A step whose waits are counted up to now. -/
def countWaits (s : State) (x : Step) : Step :=
  { x with awaitWait := sat 0xFFFFFFFF (x.active.foldl (fun n a => n + a.waited s) x.awaitWait) }

/-- What the completion of a halted running step reports (R368). -/
def haltedResult (s : State) (x : Step) : List Nat :=
  let stage := match sortNat (x.active.map (fun a => a.ix)) with
    | [] => x.nextIx - 1
    | i :: _ => i
  let b := ((s.bayOf x.bay).bind (fun y => (bayBents y).head?)).getD 0
  [x.jigSeq, stage, x.ended.length, aclkNow s b - x.startedAt]

/-- The ids of closed sequences are held until the step that named them has gone (R252). -/
def freeClosed (x : Step) (s : State) : State :=
  (x.table.map (fun e => e.seqId)).foldl (fun s q =>
    if ((s.seqRec q).map (fun r => !r.isOpen)).getD false && !s.jig.steps.any (fun z => z.names q) then s.putSeq q none else s) s

/-- Takes a halted running step out of the jig: its pins and what it was granted are given back, no length commits. -/
def stopStep (x : Step) (s : State) : State :=
  let js := ((s.bayOf x.bay).map (bayJoists s)).getD []
  let s := freeClosed x (idleJoists js (dropGrant x (dropPins x (dropStep x.id s))))
  s.setBay x.bay (fun y => { y with stage := 0xFFFF })

/-- A running step is halted and completes with a status at once, its summary all zero (R368). -/
def haltStep (status : Status) (x : Step) (s : State) : State :=
  let r := haltedResult s x
  finish x.cx 0x0040 { status := status, result := r, summary := some {}, bound := some (boundOf (countWaits s x)),
                       epoch := some x.epoch } (stopStep x s)

/-! ### Releasing a bay (R239, R475) -/

/-- Removes the slice windows of a bay. -/
def dropSlices (bay : Nat) (s : State) : State :=
  s.onBay (fun x => { x with slices := x.slices.filter (fun e => match e.2 with | some w => w.bay ≠ bay | none => true) })

/-- Retires a bay number, and its landing windows, for the peer queue pairs of its tenancy (R479, R574). Window 0xFF
stands for the bay number as a whole. -/
def retireKeys (bay : Nat) (y : Bay) (s : State) : State :=
  s.onBay (fun x => { x with retired := (x.retired ++ (bay, 0xFF, y.tenancy, y.bentMask) ::
    (present y.landing).map (fun e => (bay, e.1, y.tenancy, y.bentMask))).eraseDups })

/-- The R_Key of a window (R335). -/
def rkey (kind tenancy window nonce : Nat) : Nat :=
  kind * 2 ^ 28 + tenancy * 2 ^ 24 + window * 2 ^ 16 + nonce
/-- The R_Key of a landing window (R335, R336). -/
def landingKey (t bay w : Nat) (l : Landing) : Nat := rkey 1 t (bay + 64 * (w / 4)) (w % 4 * 2 ^ 14 + l.nonce)
/-- A nonce whose key no release has retired: the one drawn, or the next free one behind it; none once all are retired (R239; DESIGN
CHOICE, log entry 75). -/
def freshNonce (draw n : Nat) (dead : List Nat) (key : Nat → Nat) : Option Nat :=
  ((List.range (min n (dead.length + 1))).map (fun i => (draw + i) % n)).find? (fun x => !dead.contains (key x))

/-- A key is never issued again (R239, R410). -/
def buryKey (key : Nat) (s : State) : State := s.onBay (fun x => { x with deadKeys := (x.deadKeys ++ [key]).eraseDups })
/-- The keys of a bay's landing windows are never issued again. -/
def buryLanding (bay : Nat) (y : Bay) (s : State) : State :=
  (present y.landing).foldl (fun s e => buryKey (landingKey y.tenancy bay e.1 e.2) s) s

/-- The keys of a bay's landing and slice windows are never issued again (R239). -/
def buryKeys (bay : Nat) (y : Bay) (s : State) : State :=
  let slices := (present s.bay.slices).filter (fun e => e.2.bay = bay)
  s.onBay (fun x => { x with deadKeys := (x.deadKeys ++ (present y.landing).map (fun e => landingKey y.tenancy bay e.1 e.2)
    ++ slices.map (fun e => rkey 2 (e.1 / 64) (e.1 % 64) e.2.nonce)).eraseDups })

/-- Closes every open sequence of a bay and removes what its cache group holds. -/
def closeSeqs (bay : Nat) (s : State) : State :=
  (seqsOf s bay).foldl (fun s e => freeSeq e.1 e.2 (dropPages e.2 s)) s

/-- The bay, its program, windows and protections go; nothing of its steps is left (R239, steps 2 to 7). -/
def freeBay (bay : Nat) (s : State) : State :=
  match s.bayOf bay with
  | none => s
  | some y =>
    let js := bayJoists s y
    let s := dropOrphans bay (closeSeqs bay s)
    let s := dropSlices bay (buryKeys bay y (retireKeys bay y s))
    let s := s.onJoi (fun x => { x with cache := cacheUnprotectJoists js x.cache })
    let s := s.onRack (fun r => { r with
      owner := r.owner.filter (fun e => e.1 / 512 ≠ bay), pin := r.pin.filter (fun e => e.1 / 512 ≠ bay) })
    (s.onCfg (fun c => { c with scheduled := c.scheduled.filter (fun e => e.1 ≠ bay) })).putBay bay none

/-- BAY_RELEASE of a bay that runs no step (R239). -/
def releaseBay (bay : Nat) (s : State) : State := freeBay bay (endOrphans bay (cancelWaiting .reset bay s))

/-- The bays of a tenancy, and those with any joist in given bents. -/
def baysOfTenancy (s : State) (t : Nat) : List Nat :=
  (present s.bay.bays).filterMap (fun e => if e.2.tenancy = t then some e.1 else none)
def baysOnBents (s : State) (bents : List Nat) : List Nat :=
  (present s.bay.bays).filterMap (fun e => if bents.any (fun b => Nat.testBit e.2.bentMask b) then some e.1 else none)

/-! ### Holds -/

/-- No step of the bay starts while a CONFIG_APPLY drains it, the device drains for RETAIN or is not awake, or its tenancy
is being destroyed (R376, R383, R536). -/
def bayHeld (s : State) (bay : Nat) : Bool :=
  (match s.cfg.applying with | some a => (drainedBays s a.settings).contains bay | none => false)
    || (decide (s.pwr.retain ≠ 0) && !(decide (s.pwr.retain = 8) && ((s.bayOf bay).map (fun y =>
      (bayBents y).all (fun b => !s.pwr.exitOrder.contains b))).getD false))
    || (match (s.bayOf bay).bind (fun y => s.tenancy y.tenancy) with | some t => t.destroying.isSome | none => false)

/-! ### Bays under reset (R470) -/

/-- The bay is a released bay of a partition reset between FENCE and DONE. -/
def bayFenced (s : State) (bay : Nat) : Bool := s.pwr.resets.any (fun r => r.released.contains bay)
def bentFenced (s : State) (b : Nat) : Bool := s.pwr.resets.any (fun r => 0 < r.phase && r.bents.contains b)

end Sys2Proof.Machine
end

