-- ==== Sys2Proof/Machine/Power.lean ====
section
/-! DEFINITION. Clocks and power, shared operations: throttle levels (R502, R503, R505, R524), stops of a bent's clock
(R528), refresh bands (R164), requests for a partition reset (R465, R488), FAILED (R487) and what bring-up and the thermal
limits do to the whole device. -/

namespace Sys2Proof.Machine

/-! ### Throttle levels -/

/-- The level in force in a bent (R503); the transit domain of a tripped bent runs at level 17 (R498), and from FENCE to DONE of a
partition reset the bent keeps its level (R485). -/
def levelOf (s : State) (b : Nat) : Nat :=
  if (s.bent b).tripped then 17 else (s.bent b).heldLevel.getD (max (s.bent b).lTherm (max s.thm.lCap s.thm.lFc))

/-- ⌊n × f_level ÷ 1.7 GHz⌋: the frequency of a level is (16 − s) ÷ (8 × d) of nominal. -/
def scaled (n level : Nat) : Nat := n * (16 - (levelDs level).2) / (8 * (levelDs level).1)

/-- PEG_EFF (R505). -/
def pegEffOf (pegMax level : Nat) : Nat := max 1 (scaled pegMax level)

/-! ### The segments of pegs (R167, R197 to R202) -/

/-- n refresh commands issue: the pointer advances with each, and every 32nd takes a spare row along (R164). -/
def refreshes (n : Nat) (r : BankRefresh) : BankRefresh :=
  { r with pointer := (r.pointer + n) % 512, commands := (r.commands + n) % 512 }
/-- Postponed refreshes issue until the count is 3 or less (R167). -/
def below4 : Nat → BankRefresh → BankRefresh
  | 0, r => r
  | n + 1, r => if 3 < r.postponed then below4 n (refreshes 1 { r with postponed := r.postponed - 1 }) else r
/-- A segment boundary serves the refresh that fell due (R199). -/
def boundaryRefresh (r : BankRefresh) : BankRefresh := below4 4 (if r.due then refreshes 1 { r with due := false } else r)

/-- The active limit of a joist: of the PEG_MAX that the bay of its peg list has adopted, or else of its bent's (R201, R202). -/
def pegLimit (s : State) (j : Nat) : Nat :=
  let b := keyBent j
  let x := s.joist j
  match (if x.pegList = [] then none else s.bayOf x.pegBay) with
  | some y => pegEffOf (mget (s.bent b).pegMax y.pegMax b) (levelOf s b)
  | none => (s.bent b).pegEff

/-- The pegs of a joist in progress, in bank order after the one that last started (R201); a segment that the device issues goes
before the sequence's next one (R199). -/
def waitingBanks (s : State) (j : Nat) : List Nat :=
  let last := (s.joist j).lastBank
  ((List.range 24).map (fun i => (last + 1 + i) % 24)).filter (fun b =>
    (s.peg j b).busy && !(s.peg j b).inSegment && !(s.peg j b).held)
def segmentsOn (s : State) (j : Nat) : Nat := ((List.range 24).filter (fun b => (s.peg j b).inSegment)).length

/-- A bank's segment starts. -/
def startSegment (j bank : Nat) (s : State) : State :=
  ((s.setRefresh j bank (below4 4)).setPeg j bank (fun p => { p with inSegment := true, waiting := false })).setJoist j
    (fun x => { x with lastBank := bank, pegBegun := true })
/-- A bank's segment start is delayed by the limit; each start counts once in LIMIT_WAITS (R202). -/
def delaySegment (j bank : Nat) (s : State) : State :=
  if (s.peg j bank).waiting then s
  else (s.setPeg j bank (fun p => { p with waiting := true })).setBent (keyBent j) (fun x =>
    { x with limitWaits := x.limitWaits + 1 })

/-- Starts what the active limit allows, in order. -/
def startSegments (j : Nat) (s : State) : State :=
  let l := waitingBanks s j
  let room := pegLimit s j - segmentsOn s j
  (l.drop room).foldl (fun s b => delaySegment j b s) ((l.take room).foldl (fun s b => startSegment j b s) s)

/-- The joists on which a peg has something in progress. -/
def pegJoists (s : State) : List Nat := (s.joi.pegs.map (fun e => e.1 / 32)).eraseDups

/-- PEG_EFF follows the levels in every bent, at the same moment as they change; segments that it then allows start (R201). -/
def syncPegs (s : State) : State :=
  let s := (List.range 4).foldl (fun s b => s.setBent b (fun x => { x with pegEff := pegEffOf x.pegIn (levelOf s b) })) s
  (pegJoists s).foldl (fun s j => startSegments j s) s

/-! ### Sequences that the device itself issues (R209) -/

/-- A bank takes a segment of the device's own: none of the sequence's runs there, and the active limit has room. -/
def pegTurn (s : State) (j bank : Nat) : Bool := !(s.peg j bank).inSegment && decide (segmentsOn s j < pegLimit s j)

/-- A segment of the device's own waits in its bank, ahead of the sequence's next one; the limit counts its delay once. -/
def holdBank (j bank : Nat) (s : State) : State :=
  let t := s.setPeg j bank (fun p => { p with held := true })
  if (s.peg j bank).inSegment ∨ (s.peg j bank).held ∨ segmentsOn s j < pegLimit s j then t
  else t.setBent (keyBent j) (fun x => { x with limitWaits := x.limitWaits + 1 })

/-- The banks of the device's own segments are free again, and what waited behind them starts. -/
def freeBanks (l : List (Nat × Nat)) (s : State) : State :=
  let s := l.foldl (fun s e => s.setPeg e.1 e.2 (fun p => { p with held := false })) s
  ((l.map (fun e => e.1)).eraseDups).foldl (fun s j => startSegments j s) s

/-- The banks that hold a list of pages on a list of joists. -/
def pageBanks (js pages : List Nat) : List (Nat × Nat) :=
  js.flatMap (fun j => ((pages.map (fun p => p / 64)).eraseDups).flatMap (fun l => (List.range 4).map (fun b => (j, 4 * l + b))))

/-- Codewords that a segment's reads have corrected twice are written back at its end, each before any other access to it
(R217). -/
def writeBack (j bank : Nat) (s : State) : State :=
  s.onMem (fun m => { m with ce2Queue := m.ce2Queue.filter (fun u =>
    !decide (u / 2 ^ 20 = j ∧ (decodeSA (8 * u % 2 ^ 23)).bankIx = bank)) })

/-- Banks before a sequence of the device's own: postponed refreshes issue until the count is 3 or less (R167). -/
def readyBanks (l : List (Nat × Nat)) (s : State) : State := l.foldl (fun s e => s.setRefresh e.1 e.2 (below4 4)) s
/-- And at its end: refreshes, and then write-backs (R199, R217). -/
def endBanks (l : List (Nat × Nat)) (s : State) : State :=
  l.foldl (fun s e => writeBack e.1 e.2 (s.setRefresh e.1 e.2 boundaryRefresh)) s

/-- A sequence of the device's own over banks: it runs when every bank takes it, and waits till then. -/
def ownSequence (l : List (Nat × Nat)) (f : State → State) (s : State) : State :=
  if l.all (fun e => pegTurn s e.1 e.2) then freeBanks l (endBanks l (f (readyBanks l s))) else l.foldl (fun s e => holdBank e.1 e.2 s) s

/-- 1/960 cycles of ACLK that a bent's joists count in one keeper cycle of 136 periods of 3.4 GHz (R524). -/
def aclkStep (level : Nat) : Nat := 136 * (16 - (levelDs level).2) * (60 / (levelDs level).1)

/-! ### Stopping and starting a bent -/

/-- A drop has stopped ACLK in all bents, and its cause stands (R30). -/
def dropped (s : State) : Bool := s.kp.coolantLoss || s.thm.hubTripped

/-- The joist clock of a bent stops: 120 A/µs at an emergency stop, 40 at an orderly one (R528). -/
def stopBent (rate b : Nat) (s : State) : State := s.setBent b (fun x => { x with stopped := true, ballast := rate })
/-- A bent's transit domain stops with its joists: at a drop, a loss of its PLL, an entry to RETAIN (R30, R525, R537). -/
def stopTransit (b : Nat) (s : State) : State := s.setBent b (fun x => { x with transit := false })

/-- A sill's PLL has lock: its transit domain runs, unless a drop has stopped ACLK in all bents (R30). -/
def startTransit (b : Nat) (s : State) : State := s.setBent b (fun x => { x with sillLock := true, transit := !dropped s })
/-- Every refresh that waits issues, and none is left (R168). -/
def refreshAll (r : BankRefresh) : BankRefresh := { refreshes (r.postponed + bit 0 r.due) r with postponed := 0, due := false }
/-- The laminations of a bent enter self-refresh after what becomes of the refreshes that wait, and scrubbing stops (R228). -/
def enterSelfRefresh (f : BankRefresh → BankRefresh) (b : Nat) (s : State) : State :=
  (s.onRfr (fun m => (m.map (fun e => if keyBent (e.1 / 32) = b then (e.1, f e.2) else e)).filter (fun e => e.2 ≠ {}))).setBent b
    (fun x => { x with inSelfRefresh := true, refreshOn := false })
/-- The controller issues every refresh that waits before it places the laminations in self-refresh (R168). -/
def selfRefresh (b : Nat) (s : State) : State := enterSelfRefresh refreshAll b s
/-- The laminations refresh themselves once MCLK is gone: what waited does not issue, and is counted no more (R525). -/
def ownRefresh (b : Nat) (s : State) : State := enterSelfRefresh (fun r => { r with postponed := 0, due := false }) b s
/-- They leave it, and refresh resumes in the band that the lamination temperature selects (R164): the hot one from 85 °C on, the normal one
below, with the count of cool samples begun anew (DESIGN CHOICE, log entry 87: R164 has no row for such a start). -/
def resumeRefresh (b : Nat) (s : State) : State :=
  s.setBent b (fun x => { x with inSelfRefresh := false, refreshOn := true, hot := x.forceHot || decide (85 * 16 ≤ x.lamT),
                                 coolSamples := 0 })
/-- The joist clock runs again, unless a drop has stopped ACLK in all bents (R30). -/
def startBent (b : Nat) (s : State) : State := s.setBent b (fun x => { x with stopped := dropped s, ballast := 0 })

/-- Keys of the joists of a bent. -/
def inBent (b j : Nat) : Bool := decide (keyBent j = b)

/-- The slice controllers of a bent are reset: scrub pointers at row 0, refresh pointers and counts at reset (R228). -/
def resetControllers (b : Nat) (s : State) : State :=
  (s.onRfr (fun m => m.filter (fun e => !inBent b (e.1 / 32)))).onEcc (fun x =>
    { x with scrub := x.scrub.filter (fun e => !inBent b (e.1 / 32)),
             writebacks := x.writebacks.filter (fun e => !inBent b e.1)
             sparesOut := x.sparesOut.filter (fun k => !inBent b (k / 32)) })
  |>.onMem (fun m => { m with ce2Queue := m.ce2Queue.filter (fun u => !inBent b (u / 2 ^ 20)) })

/-- Benches, caches, groups, pegs and registers of a bent's joists at their reset values; microcode is lost (R467). -/
def clearJoists (b : Nat) (s : State) : State :=
  (s.onJoi (fun x => { x with
    joists := x.joists.filterMap (fun e => if inBent b e.1 then
      (match e.2.touchedBy with | none => none | some t => some (e.1, { touchedBy := some t })) else some e)
    groups := x.groups.filter (fun e => !inBent b (e.1 / 8))
    pegs := x.pegs.filter (fun e => !inBent b (e.1 / 32))
    cache := x.cache.filter (fun c => !inBent b c.joist)
    capture := x.capture.filter (fun e => !inBent b (e.1 / 32)) })).onMem (fun m => { m with
    bench := wipeRange (b * 1344 * 2 ^ 18) (1344 * 2 ^ 18) m.bench
    sramMark := m.sramMark.filter (fun e => !inBent b (e.1 / 2 ^ 30))
    benchMark := wipeRange (b * 1344 * 2 ^ 15) (1344 * 2 ^ 15) m.benchMark })

/-! ### Bays and steps under a stop -/

/-- Every step of every bay that is defined, halted or cancelled with a status. -/
def endAllSteps (status : Status) (s : State) : State :=
  s.jig.steps.foldl (fun s x => if x.phase = .running then haltStep status x s else cancelStep status x s) s

/-! ### What the bound word gathers while a step runs (R311) -/

/-- The pairs of bents between which the tree of a bay passes results: the XOR 1 level, then the XOR 2 level (R121). -/
def treeLinks (bents : List Nat) : List (Nat × Nat) :=
  let pairs := [0, 2].filterMap (fun b => if bents.contains b && bents.contains (b + 1) then some (b + 1, b) else none)
  match bents.filter (fun b => decide (b < 2)), bents.filter (fun b => decide (2 ≤ b)) with
  | lo :: _, hi :: _ => pairs ++ [(hi, lo)]
  | _, _ => pairs

/-- The bents outside a pair whose transit domains the traffic of some pairs crosses, as the bay has adopted its routes. -/
def crossing (y : Bay) (l : List (Nat × Nat)) : List Nat := l.flatMap (fun e => y.routes.between.getD (4 * e.1 + e.2) [])

/-- The bent of a bay joist index (R270). -/
def placeBent (y : Bay) (i : Nat) : Nat := (bayBents y).getD (i / (y.w * y.h)) 0
/-- The pairs of bents between which the tree of a stripe passes states, sender first (R288). -/
def stripeLinks (y : Bay) (p : Stripe) : List (Nat × Nat) :=
  ((List.range (Nat.log2 p.s)).flatMap (fun v => (List.range p.s).filterMap (fun k =>
    let a := placeBent y (p.first + k + 2 ^ v)
    let b := placeBent y (p.first + k)
    if k % 2 ^ (v + 1) = 0 ∧ k + 2 ^ v < p.s ∧ a ≠ b then some (a, b) else none))).eraseDups

/-- The bents whose transit domains a stage of a bay crosses besides those that run it (R23, R26, R305): merges go up the bay's tree, or
the stripe's, and results come back down it where every joist receives them; exchanges go from the bents of their senders to the hub. -/
def stageVia (y : Bay) (w : StageWork) : List Nat :=
  let up := treeLinks (bayBents y)
  let back := up.map (fun e => (e.2, e.1))
  let hub (l : List Nat) : List Nat := l.flatMap (fun b => y.routes.toHub.getD b [])
  let level (x : Exch) : List Nat := if x.count = 0 then [] else hub ((bayBents y).take 1)
  match w with
  | .reduce d => crossing y (if d.toAll then up ++ back else up) ++ level d.exch
  | .cull d => crossing y (if d.toAll then up ++ back else up) ++ level d.exch
  | .stats _ => crossing y up
  | .norm _ => crossing y (up ++ back)
  | .attend d => crossing y (stripeLinks y d.stripe)
  | .attendBwd d => let l := stripeLinks y d.stripe; crossing y (l ++ l.map (fun e => (e.2, e.1)))
  | .exchange d => hub (((List.range d.count).map (fun i => placeBent y (d.first + i))).eraseDups)
  | .await _ => hub (bayBents y)
  | _ => []

/-- The bents whose period in force a step's bound follows: those of its bay, and those that its stages cross. -/
def boundBents (y : Bay) : List Nat :=
  bayBents y ++ (match y.program with | none => [] | some p => p.stages.flatMap (fun g => stageVia y g.work))

/-- One running step takes note of the clock, the band and the scrub rate of its bay's bents as they stand. -/
def noteStep (s : State) (x : Step) : Step :=
  match s.bayOf x.bay with
  | none => x
  | some y =>
    let x := if (bayBents y).any (fun b => decide (1 < (s.bent b).rate)) then x.voided 8 else x
    { x with level := (boundBents y).foldl (fun n b => max n (levelOf s b)) x.level
             hot := x.hot || (bayBents y).any (fun b => (s.bent b).hot)
             reroute := x.reroute || y.routes.rerouted }

/-- Every running step takes note of a change. -/
def noteSteps (s : State) : State :=
  s.onJig (fun j => { j with steps := j.steps.map (fun x => if x.phase = .running then noteStep s x else x) })

/-- A cause of VOID touches the running steps of the bays that hold a joist (causes 4 and 5) or of one bay. -/
def voidJoist (n j : Nat) (s : State) : State :=
  s.onJig (fun k => { k with steps := k.steps.map (fun x =>
    if x.phase = .running ∧ ((s.bayOf x.bay).map (fun y => (bayJoists s y).contains j)).getD false then x.voided n else x) })
def voidBay (n bay : Nat) (s : State) : State :=
  s.onJig (fun k => { k with steps := k.steps.map (fun x => if x.phase = .running ∧ x.bay = bay then x.voided n else x) })

/-! ### FAILED (R487) -/

/-- The device enters FAILED: cause 0 reset over 50 ms, 1 framer stopped, 2 R439 broken. -/
def enterFailed (cause : Nat) (s : State) : State :=
  if s.kp.stage = 0xC then s
  else
    let s := logEvent 0x000E 0 [(cause : Int)] (alertOn 1 (s.onKp (fun k => { k with stage := 0xC })))
    (s.jig.steps.filter (fun x => x.phase ≠ .running)).foldl (fun s x => cancelStep .failed x s) s

/-! ### Partition resets (R465, R466, R488) -/

/-- Bents under partition reset now. -/
def bentsInReset (s : State) : List Nat := s.pwr.resets.flatMap (fun r => r.bents)

/-- Requests a partition reset: bents already under reset are joined, the others begin one of their own. -/
def requestReset (bents : List Nat) (cause : Nat) (cx : Option Cmd) (s : State) : State :=
  let fresh := bents.filter (fun b => !(bentsInReset s).contains b)
  s.onPwr (fun p =>
    let old := p.resets.map (fun r =>
      if r.bents.any (fun b => bents.contains b) then { r with cxs := r.cxs ++ cx.toList } else r)
    if fresh = [] then { p with resets := old }
    else { p with
      nextReset := p.nextReset + 1
      resets := old ++ [{ id := p.nextReset, bents := fresh, cxs := cx.toList, startedAt := usNow s, cause := cause }] })

def resetOf (s : State) (id : Nat) : Option PReset := s.pwr.resets.find? (fun r => r.id = id)
def setReset (id : Nat) (f : PReset → PReset) (s : State) : State :=
  s.onPwr (fun p => { p with resets := p.resets.map (fun r => if r.id = id then f r else r) })

/-- An interrupted step of a released bay: taken out of the jig now, its completion kept for DONE. -/
def shelveStep (id : Nat) (status : Status) (x : Step) (s : State) : State :=
  let r := haltedResult s x
  let v : Verdict := { status := status, result := r, summary := some {}, bound := some (boundOf (countWaits s x)), epoch := some x.epoch }
  setReset id (fun z => { z with late := z.late ++ [(x.cx, 0x0040, v)] }) (stopStep x s)

/-! ### Bent-scope settings return to the record (R489, R490) -/

/-- The record in force: the payload of the location that CFG_STATUS names, or nothing. -/
def recordSettings (s : State) : List Setting :=
  if s.cfg.sequence = 0 then [] else ((mget none s.kp.records s.cfg.location).map (fun r => r.payload)).getD []

/-- The value that the record, or else the factory, gives a setting. -/
def recordValue (s : State) (block inst num : Nat) : List Nat :=
  match (recordSettings s).reverse.find? (fun x => decide (idOf x = settingId block inst num) && decide (settingFault s x = 0)) with
  | some x => x.value
  | none => (factory block num).getD []

/-- Does a bent-scope setting in force differ from the record? -/
def bentDiffers (s : State) (b : Nat) : Bool :=
  [1, 2, 3, 4].any (fun n => decide (settingOf s 1 b n ≠ recordValue s 1 b n))
/-- The bent-scope settings of a bent return to the record. -/
def returnBent (b : Nat) (s : State) : State :=
  ([1, 2, 3, 4].foldl (fun s n =>
    putSetting { block := 1, inst := b, num := n, value := recordValue s 1 b n } s) s).setBent b (fun x =>
      { x with pegIn := x.pegMax })

/-- A bay adopts Boundary settings at once: those of its bents take effect and it shows the epoch (R202, R383, R385). -/
def adoptNow (bay epoch : Nat) (l : List Setting) (s : State) : State :=
  let s := (l.filter (fun x => x.block = 1 ∧ x.num = 3)).foldl (fun s x => s.setBent x.inst (fun b =>
    { b with pegIn := x.value.headD 8 })) s
  let m := (l.filter (fun x => x.block = 1 ∧ x.num = 3)).map (fun x => (x.inst, x.value.headD 8))
  let ports := (l.filter (fun x => x.block = 2 ∧ x.num = 6)).map (fun x => x.inst)
  syncPegs (s.setBay bay (fun y =>
    { y with tallyDscp := y.tallyDscp.filter (fun e => !ports.contains e.1), epoch := epoch, pegMax := m.foldl (fun t e => mins e.1 e.2 (mdel e.1 t)) y.pegMax }))

end Sys2Proof.Machine
end

