-- ==== Sys2Proof/Machine/Command.lean ====
section
/-! DEFINITION. How a command runs: it is taken, checked, has its effect and completes (R361, R363, R366, R372), and how a
session ends (R376, R405). -/

namespace Sys2Proof.Machine

/-- A command's effect, with its completion if it completes now. -/
structure Ans where
  s : State
  v : Option Verdict := none
  deriving DecidableEq, Repr

/-- Completes with OK and a result. -/
def Ans.ok (s : State) (result : List Nat := []) : Ans := ⟨s, some { status := .ok, result := result }⟩
/-- Completes with a status and no effect beyond the state given. -/
def Ans.fail (s : State) (st : Status) (result : List Nat := []) : Ans := ⟨s, some { status := st, result := result }⟩
/-- Completes later. -/
def Ans.later (s : State) : Ans := ⟨s, none⟩

/-- The framer has taken the command: TAKEN and the SEQ expected next (R361), and when it was taken (R372). -/
def noteTaken (cx : Cmd) (op : Nat) (s : State) : State :=
  let s := match sessionRec s cx.session with
    | none => s
    | some x => s.putSession cx.session (some { x with
        taken := max x.taken cx.seq, expect := max x.expect (cx.seq + 1) })
  s.onQci (fun q =>
    if q.taken.any (fun t => t.session = cx.session ∧ t.seq = cx.seq) then q
    else { q with taken := q.taken ++ [{ session := cx.session, seq := cx.seq, opcode := op, tag := cx.tag,
                                         deadline := cx.deadline, at_ := usNow s, port := cx.port }] })

/-- Runs a command of the catalogue: dropped where the device takes none, ignored where its session does not exist,
completed with the first fault found, or run. -/
def qci (cx : Cmd) (op : Nat) (body : State → Ans) (s : State) : Host.Outcome State Fault Refusal :=
  if !listening s then .next (discard cx.port s)
  else if callerOf s cx.session = none then .next s
  else
    match gate s cx op with
    | some st => .next (finish cx op { status := st } (noteTaken cx op s))
    | none =>
      match body (noteTaken cx op s) with
      | ⟨t, some v⟩ => .next (finish cx op v t)
      | ⟨t, none⟩ => .next t

/-! ### What commands name -/

/-- The tenancy of a command's session. -/
def tenantOf (s : State) (cx : Cmd) : Option Nat :=
  match callerOf s cx.session with
  | some (.tenant t) => some t
  | _ => none

/-- Is the caller the operator, or anyone in the pre-session slot who may act as one? -/
def isOperator (s : State) (cx : Cmd) : Bool :=
  match callerOf s cx.session with
  | some (.tenant _) => false
  | _ => true

/-- The caller's tenancy; TENANCY_DESTROY in progress holds it against every change (R372). -/
def withTenancy (cx : Cmd) (f : Nat → Tenancy → Ans) (s : State) : Ans :=
  match (tenantOf s cx).bind (fun t => (s.tenancy t).map (fun x => (t, x))) with
  | none => .fail s .auth
  | some (t, x) => if x.destroying.isSome then .fail s .busy else f t x

/-- The bay that a tenancy's command names: it is not under reset, defined and the caller's own (R255, R470). -/
def withBay (cx : Cmd) (bay : Nat) (f : Bay → Ans) (s : State) : Ans :=
  withTenancy cx (fun t _ =>
    if bayFenced s bay then .fail s .fenced
    else match s.bayOf bay with
      | none => .fail s .badDesc
      | some y =>
        if y.tenancy ≠ t then .fail s .auth
        else if (bayBents y).any (bentFenced s) then .fail s .fenced
        else f y) s

/-- The sequence that a tenancy's command names (R250 to R253, R470). -/
def withSeq (cx : Cmd) (q : Nat) (f : SeqRec → Bay → Ans) (s : State) : Ans :=
  match s.seqRec q with
  | none => .fail s .badDesc
  | some r => if r.isOpen then withBay cx r.bay (f r) s else .fail s .badDesc

/-- A random draw: E_FAILED while a health test fails (R396). -/
def withRandom (f : BitVec 256 → State → Ans) (s : State) : Ans :=
  if s.kp.randomOk then f (Config.random (drawNo s)) (spend 1 s) else .fail s .failed

end Sys2Proof.Machine
end

