-- ==== Sys2Proof/Machine/Registers.lean ====
section
/-! DEFINITION. The registers: every block of R550 to R562 and what each register reads as, who may read it (R552), the
latched high words (R549), and the status window (R565 to R568). -/

namespace Sys2Proof.Machine

/-! ### Keeper block (R553 to R455) -/

/-- FUSE_MAP (R455). -/
def fuseMap (f : Fuses) : Nat :=
  fld 0 4 f.variant + fld 4 6 f.lamEn.toNat + fld 10 6 f.oeEn.toNat + fld 16 6 f.logicalRows + bit 22 f.testPortOff
    + fld 23 2 f.revoke.toNat
/-- A keeper register, loaded at the KEEPER stage; before it the registers read the values of a production EF-GK40. -/
def keeperReg (s : State) (off : Nat) : Nat :=
  let f := s.kp.fuses
  let variant := if s.kp.loaded then f.variant else 0
  let rows := if s.kp.loaded then f.logicalRows else 0x28
  if off = 0x000 then fld 0 8 0xA1 + fld 8 4 variant + fld 16 8 1 + fld 24 8 1
  else if off = 0x004 then fld 0 8 1 + fld 8 8 1 + fld 16 6 rows
  else if off = 0x008 then (if s.kp.loaded then f.serial.toNat % 2 ^ 32 else 0)
  else if off = 0x00C then (if s.kp.loaded then f.serial.toNat / 2 ^ 32 else 0)
  else if off = 0x010 then
    if s.kp.loaded then fuseMap f else fld 4 6 0x3F + fld 10 6 0x3F + fld 16 6 0x28 + bit 22 true
  else if off = 0x014 then (if s.kp.loaded then f.macBase.toNat % 2 ^ 32 else 0)
  else if off = 0x018 then (if s.kp.loaded then f.macBase.toNat / 2 ^ 32 else 0)
  else 0

/-- The 64-bit DEV_ID (R554). -/
def devId (s : State) : Nat := keeperReg s 0x000 + 2 ^ 32 * keeperReg s 0x004

/-! ### Hub block (R555) -/

/-- The device is READY. -/
def isReady (s : State) : Bool := decide (s.kp.stage = 0xA)

/-- IDLE: no bay has an admitted, armed or running step, and no hub DMA channel is busy (R534). -/
def isIdle (s : State) : Bool :=
  isReady s && s.jig.steps.all Step.isQueued && s.net.rx.isEmpty

/-- STATE of POWER_STATE: the entry to RETAIN begins with CLOSE (R537). -/
def powerStateNo (s : State) : Nat :=
  if 7 ≤ s.pwr.retain then 3 else if 2 ≤ s.pwr.retain then 2 else if isIdle s then 1 else 0

def maskWhere (n : Nat) (p : Nat → Bool) : Nat := maskOf ((List.range n).filter p)

/-- The temperature of a register, signed in 1/16 °C (R516). -/
def tempHalf (v : Int) : Nat := signed 16 v

/-- The inlet in force: the hint, or the thermistor (R513). -/
def inletOf (s : State) : Int := match s.thm.hint with | some h => h.inlet | none => s.thm.thermistor

/-- The instance of a binding's peer (R355). -/
def tallyWord (s : State) (n : Nat) : Nat :=
  match (present s.net.jobs).find? (fun e => decide (e.2.creditBase ≤ n ∧ n < e.2.creditBase + e.2.peers.length)) with
  | none => 0
  | some e =>
    match e.2.peers[n - e.2.creditBase]? with
    | none => 0
    | some p => fld 0 17 (p.entry.grant + p.returned - p.sent) + bit 17 p.stalled + fld 24 8 (sat 0xFF (p.waits / 256))

def eccLogWord (s : State) (n : Nat) : Nat :=
  let l := mget {} s.ecc.logs n
  fld 0 8 l.head + bit 8 l.wrapped + bit 9 (tableFull s) + fld 16 16 l.lost

def raiseStatus (s : State) : Nat :=
  fld 0 4 s.kp.stage + bit 4 s.kp.fastPath + bit 5 s.kp.retRejected
    + fld 6 4 (maskWhere 4 (fun b => (s.bent b).degraded || (s.bent b).outOfService)) + fld 16 16 (if s.kp.faultKind = 0 then sat 0xFFFF s.kp.bootMs else 0)

def hubReg (s : State) (off : Nat) : Nat :=
  if 0x1000 ≤ off then tallyWord s ((off - 0x1000) / 4)
  else if off = 0x000 then
    bit 0 s.cfg.defaulted + bit 1 s.cfg.fallback + bit 2 (!s.cfg.staged.isEmpty) + bit 3 s.cfg.applying.isSome
      + fld 4 2 s.cfg.location + bit 6 s.cfg.skipped + fld 16 16 s.cfg.sequence
  else if off = 0x004 then s.cfg.epoch
  else if off = 0x008 then fld 0 16 s.qci.framer + fld 16 8 s.qci.jigBeat + bit 24 s.kp.framerStall
  else if off = 0x00C then raiseStatus s
  else if off = 0x010 then
    fld 0 2 (powerStateNo s) + fld 2 4 (maskWhere 4 (fun b => (s.bent b).up)) + fld 6 4 (maskWhere 4 (fun b => (s.bent b).sillLock))
      + fld 10 6 (maskWhere 6 (fun e => (s.engine e).pllLock)) + bit 16 s.pwr.hubLock + bit 17 s.pwr.pllLoss
  else if off = 0x014 then
    fld 0 4 s.pwr.wakeCause + fld 4 4 s.pwr.wakePort + fld 8 4 s.pwr.wakeTenancy + bit 12 s.pwr.wakeNamed
      + fld 16 16 s.pwr.spurious
  else if off = 0x018 then
    fld 0 16 (maskWhere 16 (fun t => (s.job t).isSome))
      + fld 16 16 (maskWhere 16 (fun t => ((s.job t).map (fun j => j.scribeMode)).getD false))
  else if off = 0x01C then s.net.jobEpoch
  else if off = 0x020 then tempHalf s.thm.hubT + 2 ^ 16 * tempHalf s.thm.keeperT
  else if off = 0x024 then
    bit 0 s.thm.sensorBroken + bit 1 s.thm.sensorDisagree + bit 2 s.thm.coolingDegraded + bit 3 s.thm.hint.isSome
      + bit 4 s.thm.inletDisagree + bit 5 (decide (0 < s.thm.lCap ∨ 0 < s.thm.lFc))
      + fld 6 4 (maskWhere 4 (fun b => decide (0 < (s.bent b).lTherm))) + fld 10 4 (maskWhere 4 (fun b => (s.bent b).tripped))
      + fld 14 6 (maskWhere 6 (fun e => (s.engine e).tripped)) + bit 20 s.kp.coolantLoss
  else if off = 0x028 then fld 0 16 s.thm.rth + fld 16 16 s.kp.baseline
  else if off = 0x02C then fld 0 12 s.thm.pcap + fld 12 2 s.thm.pcapSource + fld 16 12 s.thm.p10ms
  else if off = 0x030 then eccLogWord s 4
  else 0

/-! ### Bent common block (R557) -/

/-- The level that a bent's loop and the device's loops ask for (R503, R545). -/
def deviceLevel (s : State) : Nat := max s.thm.lCap s.thm.lFc

def bentReg (s : State) (b off : Nat) : Nat :=
  let x := s.bent b
  if off = 0x000 then bit 0 x.hot + bit 1 x.forceHot + fld 4 3 x.postponePeak + fld 16 16 x.forced
  else if off = 0x004 then fld 0 12 x.rate + fld 16 16 x.passes
  else if off = 0x008 then fld 0 4 x.pegMax + fld 4 4 x.pegEff + fld 16 16 (sat 0xFFFF (x.limitWaits / 256))
  else if off = 0x00C then
    fld 0 3 (levelDs (levelOf s b)).1 + fld 4 4 (levelDs (levelOf s b)).2 + fld 8 6 (levelOf s b) + fld 16 6 x.lTherm
      + fld 24 6 (deviceLevel s) + bit 30 x.stopped
  else if off = 0x010 then tempHalf x.sillT + 2 ^ 16 * tempHalf x.lamT
  else if off = 0x014 then tempHalf x.capT + 2 ^ 16 * tempHalf (inletOf s)
  else if off = 0x018 then (mget 0 s.kp.cycleTotals b + mget 0 s.kp.cyclesQueued b) % 2 ^ 32
  else if off = 0x01C then
    fld 0 16 x.scribeEpoch + bit 16 x.isFenced + fld 17 7 (sat 0x7F x.resets) + fld 24 8 (sat 0xFF (x.stale / 256))
  else if off = 0x020 then eccLogWord s b
  else 0

/-! ### Port and engine blocks (R558, R559) -/

def portStatus (x : Port) : Nat :=
  fld 0 2 x.link + fld 2 4 x.laneSignal.toNat + bit 6 x.lightOff + bit 7 x.laserFault + bit 8 x.linkDegraded
    + bit 9 x.neighMismatch + bit 10 (!x.paused.isEmpty) + fld 16 16 x.linkDowns

/-- The offsets of the 64-bit counters of R558. -/
def counterOffset (off : Nat) : Bool :=
  (decide (0x100 ≤ off ∧ off < 0x178) || decide (0x180 ≤ off ∧ off < 0x1A8) || decide (0x1C0 ≤ off ∧ off < 0x1E8))
    && decide (off % 8 = 0)

def portReg (s : State) (p off : Nat) : Nat :=
  let x := s.port p
  if off = 0 then portStatus x
  else if counterOffset off then mget 0 x.counters off % 2 ^ 32
  else if counterOffset (off - 4) then mget 0 x.counters (off - 4) / 2 ^ 32
  else 0

def engineReg (s : State) (e off : Nat) : Nat :=
  let x := s.engine e
  if off = 0 then tempHalf x.temp
  else if off = 4 then
    fld 0 2 x.state + fld 2 8 x.lanes.toNat + bit 10 x.laserPresent + bit 11 x.laserOn + bit 12 x.laserFault
  else 0

/-! ### Joist block (R560, R561) -/

/-- The logical row of a physical joist in its column, where it holds one. -/
def logicalRow (s : State) (b p : Nat) : Option Nat :=
  ((usableRows s.kp.hidden (rowLimit s) b (p % 32)).take (s.bent b).rows).findIdx? (fun r => r = p / 32)

/-- Is the ACLK of a joist gated: a spare's always, a joist's that belongs to no bay, and a bay's while the bay is gated? -/
def clockGated (s : State) (j : Nat) : Bool :=
  (logicalRow s (keyBent j) (keyIndex j)).isNone
    || !(present s.bay.bays).any (fun e => (bayJoists s e.2).contains j && !e.2.gated)

/-- JOIST_STATE. -/
def joistState (s : State) (b p : Nat) : Nat :=
  let j := joistKey b p
  if !s.kp.remapFixed then 1
  else if s.kp.fuses.defects.contains j then 2
  else
    match s.kp.retired.find? (fun e => e.1 = j) with
    | some e => 3 + fld 24 2 e.2
    | none =>
      if (s.bent b).outOfService then 4
      else match logicalRow s b p with
        | some r => fld 8 5 (p % 32) + fld 16 6 r
        | none => 1

/-- SPARES_OUT: no usable spare row remains, or a row found the remap table full (R223, R231). -/
def noSpare (s : State) (j i : Nat) : Bool :=
  (lowestFree (spareUsable s j i) 0 16).isNone || s.ecc.sparesOut.contains (bankKey j i)

def ceWord (s : State) (j i : Nat) : Nat :=
  if 20 ≤ i ∧ i < 24 ∧ bankCount s ≤ i then 0
  else
    let c := mget {} s.ecc.ce (j * 32 + i)
    fld 0 16 c.ce1 + fld 16 16 (if i = 24 then 0 else c.ce2)

def ueWord (s : State) (j i : Nat) : Nat :=
  if 20 ≤ i ∧ i < 24 ∧ bankCount s ≤ i then 0
  else
    let c := mget {} s.ecc.ue (j * 32 + i)
    fld 0 16 c.ue + fld 16 8 c.poisonRd + (if i = 24 then 0 else fld 24 5 (sparesUsed s j i).length + bit 29 (noSpare s j i))

def joistReg (s : State) (b p off : Nat) : Nat :=
  let j := joistKey b p
  if off = 0x000 then joistState s b p
  else if off = 0x004 then fld 0 16 (s.joist j).feedHold + fld 16 16 (s.joist j).drainHold
  else if off = 0x008 then maskWhere 24 (fun i => (s.peg j i).busy) + bit 24 (s.joist j).pegHalted
  else if 0x040 ≤ off ∧ off < 0x060 then (s.group j ((off - 0x40) / 4)).datumCtl.toNat
  else if 0x060 ≤ off ∧ off < 0x080 then (s.group j ((off - 0x60) / 4)).amaxExp.toNat
  else if 0x100 ≤ off ∧ off < 0x164 then ceWord s j ((off - 0x100) / 4)
  else if 0x180 ≤ off ∧ off < 0x1E4 then ueWord s j ((off - 0x180) / 4)
  else 0

/-! ### Bay block (R562) -/

/-- The step at the head of a bay's queue: the first by priority, then by submission (R256). -/
def headStep (s : State) (bay : Nat) : Option Step :=
  ((stepsOf s bay).filter Step.isQueued).foldl (fun h x =>
    match h with
    | none => some x
    | some y => if x.prio < y.prio then some x else some y) none

def bayState (s : State) (bay : Nat) : Nat :=
  match s.bayOf bay with
  | none => 0
  | some y =>
    let l := stepsOf s bay
    bit 0 true + bit 1 y.reserved + bit 2 y.trigOn + bit 3 (l.any (fun x => x.phase == .running))
      + bit 4 (((headStep s bay).map (fun x => x.lackedPages)).getD false)
      + fld 8 3 (l.filter Step.isArmed).length
      + fld 16 11 (l.filter (fun x => x.phase == .queued || x.phase == .admitted)).length

def rackFree (s : State) (bay : Nat) : Nat :=
  match s.bayOf bay with
  | none => 0
  | some y =>
    if hasCache y then
      fld 0 9 (freePages s bay y).length
        + fld 9 9 ((seqsOf s bay).foldl (fun n e => n + e.2.reserve.length) 0)
        + fld 18 5 (minClass s bay y) + fld 24 8 (sat 0xFF y.waits)
    else 0

def bayReg (s : State) (bay off : Nat) : Nat :=
  let y := s.bayOf bay
  if off = 0x000 then bayState s bay
  else if off = 0x004 then
    match y with
    | none => 0
    | some y => fld 0 15 y.matched + fld 16 16 y.unmatched
  else if off = 0x008 then rackFree s bay
  else if off = 0x00C then
    match y with
    | none => 0xFFFF
    | some y => fld 0 16 y.stage + fld 16 16 y.ends
  else if off = 0x010 then (y.map (fun y => y.epoch)).getD 1
  else 0

/-! ### Addresses (R550, R551) -/

/-- A block of the register space. -/
inductive Block where
  | keeper | hub | bent (b : Nat) | port (p : Nat) | engine (e : Nat) | joist (b p : Nat) | bay (n : Nat)
  deriving DecidableEq, Repr

/-- The block and offset of an address; none outside every block of the variant, or off a 4-byte boundary. -/
def blockOf (s : State) (a : Nat) : Option (Block × Nat) :=
  if a % 4 ≠ 0 then none
  else if 0x08000000 ≤ a ∧ a < 0x08001000 then some (.keeper, a - 0x08000000)
  else if 0x10000000 ≤ a ∧ a < 0x10002000 then some (.hub, a - 0x10000000)
  else if 0x20000000 ≤ a ∧ a < 0x20400000 ∧ a % 0x100000 < 0x1000 then some (.bent (a / 0x100000 % 0x100), a % 0x100000)
  else if 0x30000000 ≤ a ∧ a < 0x300C0000 ∧ a % 0x10000 < 0x1000 ∧ portPresent s (a / 0x10000 % 0x100) then
    some (.port (a / 0x10000 % 0x100), a % 0x10000)
  else if 0x38000000 ≤ a ∧ a < 0x38060000 ∧ a % 0x10000 < 0x1000 ∧ enginePresent s (a / 0x10000 % 0x100) then
    some (.engine (a / 0x10000 % 0x100), a % 0x10000)
  else if 0x40000000 ≤ a ∧ a < 0x48000000 ∧ a % 0x2000000 < 1344 * 0x1000 then
    some (.joist ((a - 0x40000000) / 0x2000000) (a % 0x2000000 / 0x1000), a % 0x1000)
  else if 0x60000000 ≤ a ∧ a < 0x60040000 then some (.bay ((a - 0x60000000) / 0x1000), a % 0x1000)
  else none

def blockReg (s : State) : Block → Nat → Nat
  | .keeper, off => keeperReg s off
  | .hub, off => hubReg s off
  | .bent b, off => bentReg s b off
  | .port p, off => portReg s p off
  | .engine e, off => engineReg s e off
  | .joist b p, off => joistReg s b p off
  | .bay n, off => bayReg s n off

/-- May the caller read it (R552)? -/
def mayRead (s : State) (c : Caller) (k : Block) (off : Nat) : Bool :=
  match c with
  | .tenant t =>
    match k with
    | .hub => decide (off < 0x1000)
    | .joist b p => (baysOfTenancy s t).any (fun n =>
        ((s.bayOf n).map (fun y => (bayJoists s y).contains (joistKey b p))).getD false)
    | .bay n => (baysOfTenancy s t).contains n
    | _ => true
  | _ => true

/-- Registers that are the low words of 64-bit values (R549). -/
def isLowWord : Block → Nat → Bool
  | .keeper, off => decide (off = 0 ∨ off = 8 ∨ off = 0x14)
  | .port _, off => counterOffset off
  | _, _ => false

/-- One read: a low word latches its high word, and a high word that is latched reads as latched (R549). -/
def readReg (a : Nat) (k : Block) (off : Nat) (s : State) : Nat × State :=
  if isLowWord k off then
    (blockReg s k off, s.onQci (fun q =>
      { q with latch := mset none q.latch (a + 4) (some (BitVec.ofNat 32 (blockReg s k (off + 4)))) }))
  else
    match mget none s.qci.latch a with
    | some w => (w.toNat, s.onQci (fun q => { q with latch := mset none q.latch a none }))
    | none => (blockReg s k off, s)

/-! ### The status window (R565 to R568) -/

/-- The session entries of R568: mailbox, first slot and four words. -/
def sessionEntry (i : Nat) (x : Session) : Nat × Nat × List Word :=
  (x.mailbox, x.slotFirst,
    [BitVec.ofNat 32 (i + fld 16 8 x.slotCount + bit 24 x.isSealed + bit 25 (decide (x.mailbox = 0xFF ∧ i ≠ preSession))),
     BitVec.ofNat 32 x.taken, BitVec.ofNat 32 x.done, BitVec.ofNat 32 (fld 0 16 x.mbxOrder + fld 16 16 x.lost)])

/-- The session entries in force; the pre-session slot always has one. -/
def sessionEntries (s : State) : List (Nat × Nat × List Word) :=
  ((present s.qci.sessions).filter (fun e => e.1 ≠ preSession)).map (fun e => sessionEntry e.1 e.2)
    ++ [sessionEntry preSession ((sessionRec s preSession).getD emptyPre)]

/-- The words of the window that every mailbox shares, and of the bays, by word offset; header word 0 names the
mailbox and is formed when the window is read. -/
def windowWord (s : State) (w : Nat) : Nat :=
  let o := 4 * w
  if o < 0x40 then
    if o = 4 then (s.qci.snap + 1) % 2 ^ 32
    else if o = 8 then hclkNow s % 2 ^ 32
    else if o = 12 then hclkNow s / 2 ^ 32 % 2 ^ 32
    else if 16 ≤ o ∧ o < 32 then keeperReg s (o - 16)
    else if o = 32 then s.kp.running.version
    else 0
  else if o < 0x80 then hubReg s (o - 0x40)
  else if o < 0xA0 then keeperReg s (o - 0x80)
  else if 0x100 ≤ o ∧ o < 0x200 then bentReg s ((o - 0x100) / 64) (o % 64)
  else if 0x200 ≤ o ∧ o < 0x2C0 then
    let p := (o - 0x200) / 16
    if portPresent s p then
      portReg s p (if o % 16 = 0 then 0 else if o % 16 = 4 then 0x138 else if o % 16 = 8 then 0x148 else 0x140)
    else 0
  else if 0x300 ≤ o ∧ o < 0x360 then
    if enginePresent s ((o - 0x300) / 16) then engineReg s ((o - 0x300) / 16) (o % 16) else 0
  else if 0x1000 ≤ o ∧ o < 0x2000 then bayReg s ((o - 0x1000) / 64) (o % 64)
  else if 0x2000 ≤ o ∧ o < 0x2000 + 4 * 5376 then joistState s ((w - 0x800) / 1344) ((w - 0x800) % 1344)
  else if 0x8000 ≤ o ∧ o < 0x9000 then tallyWord s ((o - 0x8000) / 4)
  else 0

/-- A new snapshot (R565). -/
def snapshot (s : State) : State :=
  s.onQci (fun q => { q with
    snap := (q.snap + 1) % 2 ^ 32
    snapStamp := hclkNow s
    window := (List.range 16384).filterMap (fun w =>
      let v := windowWord s w
      if v % 2 ^ 32 = 0 then none else some (w, BitVec.ofNat 32 v))
    winBays := (present s.bay.bays).map (fun e => (e.1, e.2.tenancy))
    winSessions := sessionEntries s
    winTaken := true })

/-- The word at a word offset of the snapshot as a mailbox shows it (R566). -/
def snapWord (s : State) (mailbox w : Nat) : Word :=
  let q := s.qci
  let o := 4 * w
  if !q.winTaken then 0
  else if w = 0 then BitVec.ofNat 32 (1 + fld 16 8 mailbox)
  else if 0x400 ≤ o ∧ o < 0x600 then
    match q.winSessions.find? (fun e => e.1 = mailbox ∧ e.2.1 = (o - 0x400) / 16) with
    | some e => e.2.2.getD (w % 4) 0
    | none => if w % 4 = 0 then 0xFFFE else 0
  else if mailbox ≠ 0xFF ∧ 0x1000 ≤ o ∧ o < 0x2000 ∧ !q.winBays.contains ((o - 0x1000) / 64, mailbox) then 0
  else if mailbox ≠ 0xFF ∧ 0x8000 ≤ o ∧ o < 0x9000 then 0
  else mget 0 q.window w

end Sys2Proof.Machine
end

