-- ==== Sys2Proof/Machine/Sessions.lean ====
section
/-! DEFINITION. The session commands: HELLO, ATTEST, SESSION_OPEN in its three forms and SESSION_CLOSE (R358, R364,
R373, R398 to R405, R415, R416). -/

namespace Sys2Proof.Machine

/-! ### HELLO -/

/-- Ring entries are a power of two from 64 to 4,096 (R364). -/
def ringOk (n : Nat) : Bool := decide (64 ≤ n ∧ n ≤ 4096) && decide (2 ^ Nat.log2 n = n)

/-- A pre-session HELLO with SEQ 1 restarts the pre-session series (R360). -/
def restartSeries (cx : Cmd) (s : State) : State :=
  if cx.session = preSession ∧ cx.seq = 1 then
    s.putSession preSession (some { (sessionRec s preSession).getD emptyPre with expect := 2, taken := 1, done := 0 })
  else s

/-- FLAGS of HELLO's result: open mode, and whether a tenancy exists. -/
def helloFlags (s : State) : Nat := bit 0 (openMode s) + bit 1 (!(present s.ten).isEmpty)

def execHello (cx : Cmd) (ringVa ringKey ringEntries : Nat) (s : State) : Host.Outcome State Fault Refusal :=
  qci cx 0x0001 (fun s =>
    let s := restartSeries cx s
    let result := [devId s, s.kp.running.version, helloFlags s, cx.port]
    if cx.session = preSession then
      if ringOk ringEntries then
        .ok (s.putSession preSession (some { (sessionRec s preSession).getD emptyPre with
          ring := { va := ringVa, key := ringKey, entries := ringEntries } })) result
      else .fail s .badDesc
    else .ok s result) s

/-! ### ATTEST -/

/-- SHA-256 of bytes. -/
def sha (l : List Byte) : BitVec 256 := Config.digest (l.map BitVec.toNat)
/-- SHA-256 of a public key (R416). -/
def keyDigest (k : BitVec 512) : BitVec 256 := sha (pointBytes k)

/-- Every setting of the variant in ascending ID with the value in force (R387, R416). -/
def settingsInForce (s : State) : List Setting :=
  [0, 1, 2, 3, 4].flatMap (fun block => (List.range 16).flatMap (fun inst => (List.range 0x12).filterMap (fun num =>
    let x : Setting := { block := block, inst := inst, num := num, value := settingOf s block inst num }
    if (factory block num).isSome && settingInstance s { x with value := (factory block num).getD [] } then some x else none)))

/-- The fuse array's image of 768 bytes (R454). -/
def fuseBytes (f : Fuses) : List Byte :=
  fieldBytes 32 [(0, 8, f.serial.toNat), (8, 6, f.macBase.toNat), (16, 4, fuseMap f)] ++ beBytes 32 f.fwKey0.toNat
    ++ beBytes 32 f.fwKey1.toNat ++ (List.range 672).map (fun i =>
      BitVec.ofNat 8 (maskOf ((List.range 8).filter (fun k => f.defects.contains (joistKey (i / 168) (8 * (i % 168) + k))))))

/-- The firmware commit word is consistent (R425, R426). -/
def commitOk (k : Keeper) : Bool := decide (k.commitLo + k.commitHi = 0xFFFFFFFF)

/-- M_PROGRAM of a tenancy: its programs in ascending bay order. -/
def programDigest (s : State) (t : Nat) : BitVec 256 :=
  sha ((present s.bay.bays).flatMap (fun e =>
    if e.2.tenancy = t then (match e.2.program with | some p => leBytes 1 e.1 ++ beBytes 32 p.sha.toNat | none => []) else []))

/-- The attestation report (R416) for a tenancy (0xFF: none) and a session. -/
def reportFor (s : State) (t session : Nat) (nonce : BitVec 256) : Report :=
  let owner := match s.tenancy t with
    | some x => keyDigest x.ownerKey
    | none => match s.kp.operatorKey with
      | some k => keyDigest k
      | none => 0
  let r : Report :=
    { openMode := openMode s, operatorKey := s.kp.operatorKey.isSome, updateOpen := !commitOk s.kp,
      afterRecovery := s.kp.afterRecovery, cfgDefaulted := s.cfg.defaulted, fwVersion := s.kp.running.version,
      serial := s.kp.fuses.serial, devId := devId s, fwCounter := s.kp.fwCounter, cfgEpoch := s.cfg.epoch,
      tenancy := t, session := session, settingsSeq := s.cfg.sequence, nonce := nonce, mRom := Config.romDigest,
      mFw := s.kp.running.sha, mUcode := s.kp.running.ucodeSha, mFuse := sha (fuseBytes s.kp.fuses),
      mSettings := sha ((settingsInForce s).flatMap settingTlv),
      mProgram := if t = 0xFF then 0 else programDigest s t, mOwner := owner, signature := 0 }
  { r with signature := Config.identitySign s.kp.identityKey (sha ((reportBytes r).take 320)) }

/-- CHAIN_LEN and the chain, of at most 4,096 bytes (R395, R415). -/
def chainCerts (s : State) : List Byte :=
  (Config.deviceCert s.kp.fuses.serial (devId s) (Config.publicKey s.kp.identityKey) ++ Config.caCert ++ Config.rootCert).take 4096
def chainBytes (s : State) : List Byte := leBytes 4 (chainCerts s).length ++ chainCerts s

/-- A signature, r then s, verifies under a public key over a digest (R397). -/
def signedBy (key : BitVec 512) (d : BitVec 256) (sig : BitVec 512) : Bool :=
  let r : BitVec 256 := (sig >>> 256).truncate 256
  decide (sig.truncate 256 = Config.ecdsaS key d r false ∨ sig.truncate 256 = Config.ecdsaS key d r true)

/-- A reply longer than its buffer is cut, and the full length goes to RESULT bytes 12 to 15 (R370). -/
def replied (cx : Cmd) (buf : Reply) (size : Nat) (data : ReplyData) (result : List Nat) (s : State) : Ans :=
  match writeReply cx buf size data s with
  | (s, true) => ⟨s, some { status := .ok, result := [size], truncated := true }⟩
  | (s, false) => .ok s result

def execAttest (cx : Cmd) (nonce : BitVec 256) (chain : Bool) (reply : Reply) (s : State) :
    Host.Outcome State Fault Refusal :=
  qci cx 0x0002 (fun s =>
    let r := reportFor s ((tenantOf s cx).getD 0xFF) cx.session nonce
    let c := if chain then chainBytes s else []
    replied cx reply (384 + c.length) (.report r c) [] s) s

/-! ### SESSION_OPEN -/

/-- The fields of a SESSION_OPEN body lie in range (R373, R401). -/
def openBodyOk (s : State) (b : OpenBody) : Bool :=
  (decide (b.mailbox = 0xFF ∨ b.mailbox < 16)) && [1, 2, 4, 8, 16].contains b.slotCount && ringOk b.ringEntries
    && decide (b.hostQpn < 2 ^ 24 ∧ b.hostPsn < 2 ^ 24 ∧ b.ephForm = 4) && decide (b.portMask ≠ 0)
    && (bitsOf 12 b.portMask.toNat).all (portPresent s)

/-- An IP address in a field of 16 bytes: IPv6, or IPv4 in the first 4 with the rest zero (R373, R375, R386). -/
def ipBytes (ip : Nat) : List Byte := if isV6 ip then beBytes 16 ip else beBytes 4 ip ++ List.replicate 12 0

/-- Bytes 0 to 251 of a SESSION_OPEN body (R373, R401), with FLAGS and, with ENROLL, the key to enrol. -/
def openBytes (b : OpenBody) (flags : Nat) (enroll : Option (BitVec 512)) : List Byte :=
  leBytes 1 b.mailbox ++ leBytes 1 b.slotCount ++ leBytes 2 b.portMask.toNat ++ leBytes 4 b.hostQpn ++ leBytes 4 b.hostPsn
    ++ ipBytes b.hostIp ++ leBytes 2 b.ringEntries ++ leBytes 2 0 ++ leBytes 8 b.ringVa ++ leBytes 4 b.ringKey ++ leBytes 20 0
    ++ leBytes 1 flags ++ leBytes 3 0 ++ leBytes 1 b.ephForm ++ beBytes 64 b.hostEph.toNat ++ leBytes 3 0 ++ beBytes 32 b.hostNonce.toNat
    ++ (match enroll with | some k => leBytes 1 b.keyForm ++ beBytes 64 k.toNat | none => leBytes 65 0) ++ leBytes 3 0
    ++ leBytes 8 b.reply.va ++ leBytes 4 b.reply.key ++ leBytes 4 b.reply.len
/-- What HOST_SIG signs (R401). -/
def openDigest (s : State) (b : OpenBody) (flags : Nat) (enroll : Option (BitVec 512)) : BitVec 256 :=
  sha (ascii "AFIAN-QCI-1 open" ++ openBytes b flags enroll ++ leBytes 8 s.kp.fuses.serial.toNat)
/-- The first aligned run of free slots of a mailbox (R358). -/
def freeSlots (s : State) (mailbox count : Nat) : Option Nat :=
  let taken := ((present s.qci.sessions).filter (fun e => e.1 ≠ preSession ∧ e.2.mailbox = mailbox)).map
    (fun e => (e.2.slotFirst, e.2.slotCount))
  ((List.range (32 / count)).map (fun k => k * count)).find? (fun first =>
    !(decide (mailbox = 0xFF ∧ first = 0)) && taken.all (fun x => decide (first + count ≤ x.1 ∨ x.1 + x.2 ≤ first)))

/-- Sessions that some command in progress still names. -/
def namedSessions (s : State) : List Nat :=
  s.jig.steps.map (fun x => x.cx.session) ++ (present s.net.binding).map (fun e => e.2.cx.session)
    ++ (s.cfg.applying.map (fun a => a.cx.session)).toList ++ (s.pwr.retainCx.map (fun c => c.session)).toList
    ++ s.bnt.filterMap (fun e => e.2.margining.map (fun c => c.session))
    ++ (present s.ten).filterMap (fun e => e.2.destroying.map (fun c => c.session))
    ++ s.pwr.resets.flatMap (fun r => r.cxs.map (fun c => c.session) ++ r.late.map (fun l => l.1.session))

/-- The lowest session id that is neither open nor named by a command in progress. -/
def freeSessionId (s : State) : Option Nat :=
  lowestFree (fun i => (s.session i).isNone && !(namedSessions s).contains i) 0 0xFFFE

/-- Bytes 0 to 103 of the reply of R403. -/
def replyHead (eph : BitVec 512) (nonce : BitVec 256) (i : Nat) : List Byte :=
  pointBytes eph ++ leBytes 3 0 ++ beBytes 32 nonce.toNat ++ leBytes 2 i ++ leBytes 2 0

/-- The session, its slots, queue pairs and ring (R358, R373). A sealed session draws its keys (R404), whose ephemeral private half the
device does not keep, and writes the reply of R403; `signed` is what HOST_SIG signs. -/
def openSession (cx : Cmd) (b : OpenBody) (signed : Option (BitVec 256)) (s : State) : Ans :=
  match freeSlots s b.mailbox b.slotCount, freeSessionId s with
  | some first, some i =>
    if !qpsFree s (bitsOf 12 b.portMask.toNat).length then .fail s .noResource else
    let isSealed := signed.isSome
    let qpn := s.net.nextQpn
    let psn := Config.freeNat (drawNo s) % 2 ^ 24
    let eph := Config.random (drawNo s + 1)
    let nonce := Config.random (drawNo s + 2)
    let s := spend 3 s
    let prk := Config.hkdfExtract (nums (beBytes 32 b.hostNonce.toNat ++ beBytes 32 nonce.toNat))
      (nums (beBytes 32 (Config.ecdh eph b.hostEph).toNat))
    let keyFor (x : String) : BitVec 256 :=
      if isSealed then Config.hkdfExpand prk (nums (ascii "AFIAN-QCI-1 " ++ ascii x ++ leBytes 8 s.kp.fuses.serial.toNat ++ leBytes 2 i))
      else 0
    let key := if b.mailbox = 0xFF then 0x30000000 else ((s.tenancy b.mailbox).map (fun t => t.windowKey)).getD 0
    let x : Session :=
      { mailbox := b.mailbox, slotFirst := first, slotCount := b.slotCount, isSealed := isSealed,
        ring := { va := b.ringVa, key := b.ringKey, entries := b.ringEntries }, ports := b.portMask,
        hostQpn := b.hostQpn, hostPsn := b.hostPsn, hostIp := b.hostIp, devQpn := qpn, devPsn := psn, windowKey := key,
        kCmd := keyFor "cmd", kCpl := keyFor "cpl" }
    let s := (s.putSession i (some x)).onNet (fun n => { n with nextQpn := qpnAfter n.nextQpn })
    let s := (bitsOf 12 b.portMask.toNat).foldl (fun s p =>
      let q : Qp := { port := p, session := some i, isSealed := isSealed, rxPsn := b.hostPsn, txPsn := psn }
      askAll p (s.putQp (qpKey p qpn) (some { q with
        pmtu := pmtuFor s p, rxKey := keyFor "h2d", txKey := keyFor "d2h", remote := b.hostQpn
        srcPort := Config.portHash qpn b.hostQpn }))) s
    let pub := Config.publicKey eph
    let s := match signed with
      | some h => (writeReply cx b.reply 192 (.sessionKeys pub nonce i (Config.identitySign s.kp.identityKey
          (sha (ascii "AFIAN-QCI-1 dev " ++ beBytes 32 h.toNat ++ replyHead pub nonce i))))
          (deliverKeys [keyFor "cmd", keyFor "cpl", keyFor "h2d", keyFor "d2h"] s)).1
      | none => s
    .ok s [i, first, qpn, psn, key]
  | _, _ => .fail s .noResource

/-- The key under which HOST_SIG of a SESSION_OPEN without flags must verify (R402). -/
def openKey (s : State) (mailbox : Nat) : Option (BitVec 512) :=
  if mailbox = 0xFF then s.kp.operatorKey else (s.tenancy mailbox).map (fun t => t.ownerKey)

def execSessionOpen (cx : Cmd) (body : OpenBody) (sig : BitVec 512) (s : State) : Host.Outcome State Fault Refusal :=
  qci cx 0x0003 (fun s =>
    if !openBodyOk s body then .fail s .badDesc
    else if openMode s then
      if body.mailbox = 0xFF then openSession cx body none s else .fail s .badDesc
    else
      match (if body.mailbox = 0xFF then some false else (s.tenancy body.mailbox).map (fun t => t.destroying.isSome)) with
      | none => .fail s .badDesc
      | some true => .fail s .busy
      | some false =>
        if body.reply.len < 192 then .fail s .badDesc
        else if !((openKey s body.mailbox).map (fun k => signedBy k (openDigest s body 0 none) sig)).getD false then .fail s .auth
        else if !s.kp.randomOk then .fail s .failed
        else openSession cx body (some (openDigest s body 0 none)) s) s

/-- The sessions other than the pre-session slot that p accepts. -/
def sessionsWhere (s : State) (p : Session → Bool) : List Nat :=
  (present s.qci.sessions).filterMap (fun e => if e.1 ≠ preSession ∧ p e.2 then some e.1 else none)

/-- A device whose test port is not fused off stays in open mode: it enrols no key (R456). -/
def execSessionOpenEnroll (cx : Cmd) (body : OpenBody) (key : BitVec 512) (sig : BitVec 512) (s : State) :
    Host.Outcome State Fault Refusal :=
  qci cx 0x0003 (fun s =>
    if !openBodyOk s body || decide (body.reply.len < 192 ∨ body.keyForm ≠ 4) then .fail s .badDesc
    else if cx.session ≠ preSession ∨ !openMode s ∨ body.mailbox ≠ 0xFF ∨ !signedBy key (openDigest s body 1 (some key)) sig ∨ !s.kp.fuses.testPortOff then .fail s .auth
    else if !mramOpen s then .fail s .tempRange
    else if !s.kp.randomOk then .fail s .failed
    else
      let s := s.onKp (fun k => { k with operatorKey := some key })
      openSession cx body (some (openDigest s body 1 (some key))) ((sessionsWhere s (fun x => !x.isSealed)).foldl (fun s i => endSession i 0 s) s)) s

def execSessionOpenUnenroll (cx : Cmd) (body : OpenBody) (sig : BitVec 512) (s : State) :
    Host.Outcome State Fault Refusal :=
  qci cx 0x0003 (fun s =>
    let sealedOperator := ((s.session cx.session).map (fun x => x.isSealed && decide (x.mailbox = 0xFF))).getD false
    if !sealedOperator || decide (body.mailbox ≠ 0xFF)
        || !((s.kp.operatorKey.map (fun k => signedBy k (openDigest s body 2 none) sig)).getD false) then .fail s .auth
    else if (present s.ten) ≠ [] then .fail s .busy
    else if !mramOpen s then .fail s .tempRange
    else
      let s := s.onKp (fun k => { k with operatorKey := none })
      let s := (sessionsWhere s (fun _ => true)).foldl (fun s i =>
        if i = cx.session then s else endSession i 0 s) s
      .later (dropSession cx.session (post cx 0x0003 { status := .ok } (endWork cx.session cx.seq s)))) s

/-! ### SESSION_CLOSE -/

/-- A reserved bay that the session defined holds the session open (R376). -/
def holdsReserved (s : State) (i : Nat) : Bool :=
  (present s.bay.bays).any (fun e => e.2.reserved && decide (e.2.session = i))

def execSessionClose (cx : Cmd) (session : Nat) (s : State) : Host.Outcome State Fault Refusal :=
  qci cx 0x0004 (fun s =>
    if session = preSession ∨ (s.session session).isNone then .fail s .badDesc
    else if !isOperator s cx && decide (session ≠ cx.session) then .fail s .auth
    else if holdsReserved s session then .fail s .busy
    else if session = cx.session then
      .later (dropSession session (post cx 0x0004 { status := .ok } (endWork session cx.seq s)))
    else .ok (endSession session 0 s)) s

end Sys2Proof.Machine
end

