-- ==== Sys2Proof/Machine/Tenancies.lean ====
section
/-! DEFINITION. Tenancies: TENANCY_CREATE, TENANCY_DESTROY and zeroisation (R373, R374, R376, R398, R417 to R420). -/

namespace Sys2Proof.Machine

/-- A random nonce that is not zero: control windows never carry NONCE 0 (R356). -/
def controlNonce (r : BitVec 256) : Nat := r.toNat % 0xFFFF + 1


def execTenancyCreate (cx : Cmd) (tenancy hangMode bentMask maxBays : Nat) (keyForm : Nat) (key : BitVec 512)
    (s : State) : Host.Outcome State Fault Refusal :=
  qci cx 0x0010 (fun s =>
    if openMode s then .fail s .sealed
    else if (15 < tenancy ∧ tenancy ≠ 0xFF) ∨ 1 < hangMode ∨ 15 < bentMask ∨ bentMask = 0 ∨ maxBays = 0 ∨ 64 < maxBays
        ∨ keyForm ≠ 0x04 then .fail s .badDesc
    else
      match (if tenancy = 0xFF then lowestFree (fun t => (s.tenancy t).isNone) 0 16 else some tenancy) with
      | none => .fail s .noResource
      | some t =>
        if (s.tenancy t).isSome then .fail s .busy
        else withRandom (fun r s =>
          match freshNonce (controlNonce r - 1) 0xFFFF s.bay.deadKeys (fun n => rkey 3 t 0 (n + 1)) with
          | none => .fail s .noResource
          | some n =>
          let wk := rkey 3 t 0 (n + 1)
          .ok (s.putTenancy t (some { hangMode := hangMode, bentMask := bentMask, maxBays := maxBays, ownerKey := key,
                                      windowKey := wk })) [t, wk]) s) s

def execTenancyDestroy (cx : Cmd) (tenancy : Nat) (s : State) : Host.Outcome State Fault Refusal :=
  qci cx 0x0011 (fun s =>
    match s.tenancy tenancy with
    | none => .fail s .badDesc
    | some t =>
      if t.destroying.isSome then .fail s .busy
      else .later (s.putTenancy tenancy (some { t with destroying := some cx }))) s

/-! ### Zeroisation (R419) -/

/-- Joists whose TOUCHED_BY names a tenancy. -/
def touchedJoists (s : State) (t : Nat) : List Nat :=
  s.joi.joists.filterMap (fun e => if e.2.touchedBy = some t then some e.1 else none)

/-- The rows of a list of joists that the touch map marks become zero, with their marks. -/
def zeroTouched (js : List Nat) (m : Mem) : Mem :=
  let hit (j sa : Nat) : Bool := js.contains j && mget false m.touched (rowKey j sa)
  { m with
    slice := mkeep (fun k => !hit (k / 2 ^ 23) (k % 2 ^ 23)) m.slice
    sliceMark := mkeep (fun u => !hit (u / 2 ^ 20) (8 * u % 2 ^ 23)) m.sliceMark
    hidden := mkeep (fun k => !js.contains (k / (24 * 528 * 512))) m.hidden
    hiddenMark := mkeep (fun k => !js.contains (k / (24 * 528 * 64))) m.hiddenMark
    ce2Queue := m.ce2Queue.filter (fun u => !js.contains (u / 2 ^ 20))
    touched := mkeep (fun k => !js.contains (k / (24 * 512))) m.touched }

/-- Step 2: what the joists hold outside their slices is cleared, microcode and boot state kept. -/
def clearTenantJoists (js : List Nat) (s : State) : State :=
  (s.onJoi (fun x => { x with
    joists := js.foldl (fun m j => mmod {} m j (fun z => { z with inbox := [], closeBuf := [], vregs := 0, touchedBy := none })) x.joists
    groups := x.groups.filter (fun e => !js.contains (e.1 / 8))
    pegs := x.pegs.filter (fun e => !js.contains (e.1 / 32))
    cache := x.cache.filter (fun c => !js.contains c.joist)
    capture := x.capture.filter (fun e => !js.contains (e.1 / 32)) })).onMem (fun m => js.foldl (fun m j => wipeBench j m) m)

/-- The tenancy that a queue pair serves. -/
def qpTenancy (s : State) (key : Nat) : Option Nat :=
  (s.qp key).bind (fun q =>
    match q.peer with
    | some p => some p.1
    | none => (q.session.bind s.session).map (fun x => x.mailbox))

/-- Steps 3 and 4: the hub's copies of a tenancy's data, its windows, its binding and its keys. -/
def dropTenantHub (t : Nat) (s : State) : State :=
  let s := s.onNet (fun n => { n with
    rx := n.rx.filter (fun r => qpTenancy s (qpKey r.pkt.port r.pkt.qpn) ≠ some t)
    store := n.store.filter (fun p => qpTenancy s p.qpn ≠ some t)
    waiting := n.waiting.filter (fun p => qpTenancy s p.qpn ≠ some t)
    qps := n.qps.map (fun e => (e.1, e.2.map (fun q =>
      if (q.peer.map (fun p => p.1)) = some t then endKeys q else q))) })
  let s := s.onBay (fun x => { x with slices := x.slices.filter (fun e => e.1 / 64 ≠ t),
                                      retired := x.retired.filter (fun e => e.2.2.1 ≠ t) })
  let s := s.onQci (fun q => { q with slots := q.slots.filter (fun e => e.1 / 16384 ≠ t), commits := q.commits.filter (fun e => e.1 ≠ t) })
  (s.putJob t none).putBinding t none

/-- Bents that some tenancy has touched. -/
def touchedBents (s : State) : List Nat :=
  (List.range 4).filter (fun b => s.joi.joists.any (fun e => inBent b e.1 && e.2.touchedBy.isSome))

/-- TENANT_DATA of the bents that no tenancy has touched is cleared, while MRAM may be written (R419, R422). -/
def dropTenantFlags (s : State) : State :=
  if mramOpen s then
    s.onKp (fun k => { k with tenantData := k.tenantData.filter (fun e => (touchedBents s).contains e.1) })
  else s

/-- The tenancy's bays are released, its sessions closed and its data zeroed. -/
def zeroiseTenancy (t : Nat) (s : State) : State :=
  let s := (baysOfTenancy s t).foldl (fun s n => releaseBay n s) s
  let s := (sessionsWhere s (fun x => decide (x.mailbox = t))).foldl (fun s i => endSession i 0 s) s
  let s := buryKey (((s.tenancy t).map (fun x => x.windowKey)).getD 0) (dropTenantHub t s)
  let js := touchedJoists s t
  let s := clearTenantJoists js (s.onMem (zeroTouched js))
  dropTenantFlags (s.putTenancy t none)

/-- Zeroisation waits for the tenancy's running steps and for a partition reset of its bents (R376, R429). -/
def zeroiseReady (s : State) (t : Nat) (x : Tenancy) : Bool :=
  (baysOfTenancy s t).all (fun n => (runningStep s n).isNone && !bayFenced s n)
    && (bitsOf 4 x.bentMask).all (fun b => !bentFenced s b)

def execTenancyZeroise (tenancy : Nat) (s : State) : Host.Outcome State Fault Refusal :=
  match s.tenancy tenancy with
  | none => .next s
  | some x =>
    match x.destroying with
    | none => .next s
    | some cx =>
      if zeroiseReady s tenancy x then .next (finish cx 0x0011 { status := .ok } (zeroiseTenancy tenancy s))
      else .next s

end Sys2Proof.Machine
end

