-- ==== Sys2Proof/Machine/Topology.lean ====
section
/-! DEFINITION. The links between the dies, the routes over them and the topology report (R22, R23, R26, R439, R441). -/

namespace Sys2Proof.Machine

/-! ### Links and routes -/

/-- The number of hub link i of bent b, and of bridge link i of a bundle, in the order of R441. -/
def hubLink (b i : Nat) : Nat := 64 + 8 * b + i
/-- The first bridge link of the bundle between a bent and its XOR 1 or XOR 2 neighbour. -/
def bundle1 (b : Nat) : Nat := if b < 2 then 0 else 16
def bundle2 (b : Nat) : Nat := if b % 2 = 0 then 32 else 48

def linkUp (s : State) (n : Nat) : Bool := decide ((s.link n).state = 0)
def linksUp (s : State) (first n : Nat) : Nat := maskOf ((List.range n).filter (fun i => linkUp s (first + i)))
def hubLinks (s : State) (b : Nat) : Nat := linksUp s (hubLink b 0) 8
def xor1Links (s : State) (b : Nat) : Nat := linksUp s (bundle1 b) 16
def xor2Links (s : State) (b : Nat) : Nat := linksUp s (bundle2 b) 16
def xor1 (b : Nat) : Nat := b ^^^ 1
def xor2 (b : Nat) : Nat := b ^^^ 2

/-- HUB_ROUTE: own links, through bent b XOR 1, or none (R26, R439): the way to bent b XOR 1 may itself be a detour. -/
def hubRoute (s : State) (b : Nat) : Nat :=
  if hubLinks s b ≠ 0 then 0 else if hubLinks s (xor1 b) ≠ 0 then 1 else 2

/-- A diagonal route over b XOR 1 has a link on both of its bridges (R23). -/
def diagonalOk (s : State) (b : Nat) : Bool := decide (xor1Links s b ≠ 0) && decide (xor2Links s (xor1 b) ≠ 0)

/-- The bents between bent a and bent b: none for neighbours, or the other two where their bundle is empty (R26); for a diagonal
pair bent a XOR 1, or bent a XOR 2 where that way lacks a link (R23). -/
def viaBents (s : State) (a b : Nat) : List Nat :=
  if a = b then []
  else if b = xor1 a then (if xor1Links s a ≠ 0 then [] else [xor2 a, xor2 b])
  else if b = xor2 a then (if xor2Links s a ≠ 0 then [] else [xor1 a, xor1 b])
  else if diagonalOk s a then [xor1 a] else [xor2 a]

/-- The bents between bent b and the hub (R26). -/
def viaHub (s : State) (b : Nat) : List Nat := if hubRoute s b = 1 then xor1 b :: viaBents s b (xor1 b) else []

/-- A route stands under R26: a bundle has no link, or a bent no hub link. -/
def anyReroute (s : State) : Bool :=
  [0, 2].any (fun b => xor1Links s b = 0) || [0, 1].any (fun b => xor2Links s b = 0) || (List.range 4).any (fun b => hubRoute s b ≠ 0)

/-- The routes as the links stand. -/
def routesNow (s : State) : Routes :=
  { between := (List.range 16).map (fun i => viaBents s (i / 4) (i % 4)), toHub := (List.range 4).map (viaHub s)
    rerouted := anyReroute s }

/-- The bents joined to bent 0 by bridges in service. -/
def joined (s : State) : List Nat :=
  let grow (l : List Nat) : List Nat := (l ++ l.flatMap (fun b =>
    (if xor1Links s b ≠ 0 then [xor1 b] else []) ++ (if xor2Links s b ≠ 0 then [xor2 b] else []))).eraseDups
  grow (grow (grow [0]))

/-! ### The topology report -/

/-- Links lost: failed in training or retired. -/
def linksLost (s : State) : Bool := s.lnk.any (fun e => e.2.state = 1 ∨ e.2.state = 2)
def anyDegraded (s : State) : Bool := (List.range 4).any (fun b => (s.bent b).degraded || (s.bent b).outOfService)

/-- The parts of the report (R441), as bytes: 32 of header, 48 for a bent, 8 for an engine and a port, 4 for a link. -/
def reportHeader (s : State) : List Nat :=
  record [(2, 1), (1, if s.kp.faultKind ≠ 0 then 2 else if anyDegraded s || linksLost s then 1 else 0), (1, s.kp.faultKind),
    (1, s.kp.faultIndex), (1, bit 0 s.kp.fastPath + bit 1 s.kp.retRejected + bit 2 s.kp.coldStart), (2, 0), (8, s.kp.bootStamp),
    (4, s.kp.bootMs), (12, 0)]

/-- Physical joists of a column that cannot be used, in the two-bit form of COLUMN_LOSS. -/
def columnLoss (s : State) (b : Nat) : Nat :=
  (List.range 32).foldl (fun n c =>
    n + min 3 (rowLimit s - (usableRows (unusable s) (rowLimit s) b c).length) * 4 ^ c) 0

def reportBent (s : State) (b : Nat) : List Nat :=
  let x := s.bent b
  let rows := if x.outOfService then 0 else x.rows
  let serving := 32 * rows
  let mine (l : List Nat) : Nat := (l.filter (inBent b)).length
  record [(1, bit 0 x.sillPresent + bit 1 x.up + bit 2 x.degraded + bit 3 x.outOfService),
    (1, maskOf ((bitsOf 6 s.kp.fuses.lamEn.toNat).filter (fun n => !x.absentLams.contains n))), (1, rows), (1, 0), (2, serving),
    (2, (usableJoists s b).length - serving), (2, mine s.kp.fuses.defects), (2, mine (s.kp.retired.map (fun e => e.1))),
    (1, hubLinks s b), (1, hubRoute s b), (2, xor1Links s b), (2, xor2Links s b), (2, 0), (8, columnLoss s b),
    (1, (mget {} s.ecc.margin b).result), (1, sat 0xFF x.selfTestRetired), (18, 0)]

def reportEngine (s : State) (e : Nat) : List Nat :=
  let x := s.engine e
  record [(1, if enginePresent s e then x.state else 2), (1, x.lanes.toNat), (1, x.hEye), (1, x.vEye),
    (1, bit 0 x.laserPresent + bit 1 x.laserOn + bit 2 x.laserFault), (3, 0)]

def reportPort (s : State) (p : Nat) : List Nat := record [(1, (s.port p).link), (1, (s.port p).neigh), (6, 0)]
def reportLink (s : State) (n : Nat) : List Nat :=
  record [(1, (s.link n).state), (1, (s.link n).hEye), (1, (s.link n).vEye), (1, (s.link n).worstLane)]

def topologyReport (s : State) : List (List Nat) :=
  [reportHeader s] ++ (List.range 4).map (reportBent s) ++ (List.range 6).map (reportEngine s)
    ++ (List.range 12).map (reportPort s) ++ (List.range 96).map (reportLink s)

/-! ### Microcode packets (R446, R447) -/

/-- A field of the header of the image in MRAM, by offset and size (R421). -/
def imageField (s : State) (off n : Nat) : Nat := leNat (readBytes s.kp.imageBytes off n)
/-- The microcode section's packets as a bit mask (R446). -/
def allPackets (s : State) : Nat := 2 ^ (s.kp.running.ucodeLen / 512) - 1

/-- IMAGE_ID of the broadcast: the first four bytes of M_UCODE (R446). -/
def imageId (s : State) : BitVec 32 := s.kp.running.ucodeSha.truncate 32

/-- The microcode section's bytes from one on. -/
def ucodeBytes (s : State) (from_ n : Nat) : List Byte := readBytes s.kp.imageBytes (imageField s 28 4 + from_) n
/-- The header flit of packet n (R446). -/
def ucodeHeader (s : State) (n : Nat) : List Byte :=
  let crc (l : List Byte) : Nat := (Config.crc32c (l.map BitVec.toNat)).toNat
  fieldBytes 64 [(0, 4, (imageId s).toNat), (4, 1, n), (5, 1, s.kp.running.ucodeLen / 512), (8, 4, crc (ucodeBytes s (512 * n) 512)),
    (12, 4, crc (ucodeBytes s 0 s.kp.running.ucodeLen))]
/-- The lowest hub link in service of a bent, or of the one that its hub traffic crosses (R26, R447). -/
def ucodeLink (s : State) (b : Nat) : Option Nat :=
  let own (b : Nat) : Option Nat := ((List.range 8).find? (fun i => linkUp s (hubLink b i))).map (hubLink b)
  (own b).orElse (fun _ => own (xor1 b))
/-- Packet n goes to a bent, or by unicast to one of its joists (R447, R449). -/
def sendUcode (b n : Nat) (j : Option Nat) (s : State) : State :=
  match ucodeLink s b with
  | some l => s.send (.ucode l j (ucodeHeader s n) (ucodeBytes s (512 * n) 512))
  | none => s
/-- The whole section goes by unicast to one joist (R451). -/
def sendSection (j : Nat) (s : State) : State :=
  (List.range (s.kp.running.ucodeLen / 512)).foldl (fun s n => sendUcode (keyBent j) n (some j) s) s
/-- What a repair round resends: to each joist, by unicast, every packet that it misses (R449). -/
def resendUcode (missing : List (Nat × BitVec 32)) (s : State) : State :=
  missing.foldl (fun s e => (bitsOf 32 e.2.toNat).foldl (fun s n => sendUcode (keyBent e.1) n (some e.1) s) s) s

end Sys2Proof.Machine
end

