-- ==== Sys2Proof/Machine/BaysPrograms.lean ====
section
/-! DEFINITION. Bays, programs and windows: BAY_DEFINE, BAY_RELEASE, BAY_ARM, PROGRAM_LOAD, PROGRAM_UNLOAD, WEIGHTS_BIND
(R237 to R239, R263, R266, R334 to R336, R373, R374, R417, R418, R577) and STEP_RUN (R255, R259, R262, R263, R275). -/

namespace Sys2Proof.Machine

/-! ### BAY_DEFINE -/

/-- Every field lies in the range of R237. -/
def bayRangesOk (b : BayBody) : Bool :=
  decide (b.bay < 64 ∧ 1 ≤ b.bentMask ∧ b.bentMask ≤ 15 ∧ b.c0 < 32 ∧ b.r0 < 40 ∧ 1 ≤ b.w ∧ b.w ≤ 32 ∧ 1 ≤ b.h ∧ b.h ≤ 40)
    && [16, 32, 64].contains b.pageTokens && decide (b.pageFirst ≤ 383 ∧ b.pageCount ≤ 384 ∧ b.ptBase % 16384 = 0
      ∧ b.seqSlots ≤ 4096 ∧ (0 < b.pageCount → 1 ≤ b.tableLen ∧ b.tableLen ≤ b.pageCount) ∧ (b.pageCount = 0 → b.seqSlots = 0))

/-- The bay that a body describes. -/
def bayOfBody (b : BayBody) (t session epoch : Nat) : Bay :=
  { tenancy := t, session := session, bentMask := b.bentMask, c0 := b.c0, r0 := b.r0, w := b.w, h := b.h,
    reserved := b.reserved, pageTokens := b.pageTokens, pageFirst := b.pageFirst, pageCount := b.pageCount,
    ptBase := b.ptBase, seqSlots := b.seqSlots, tableLen := b.tableLen, epoch := epoch, gated := true }

/-- The rectangle lies in the logical grid of every bent, and the regions in the populated slice, apart (R238). -/
def bayPlaceOk (s : State) (y : Bay) : Bool :=
  decide (y.c0 + y.w ≤ 32) && (bayBents y).all (fun b => decide (y.r0 + y.h ≤ (s.bent b).rows))
    && (decide (y.pageCount = 0) || decide (y.pageFirst + y.pageCount ≤ pageTop s))
    && decide (y.ptBase + y.seqSlots * recordSize y ≤ sliceBytes s)
    && !(decide (0 < y.pageCount ∧ 0 < y.seqSlots) && (ptRegion y).meets (cacheRegion y))

/-- The joists of every defined bay. -/
def usedJoists (s : State) : List Nat := (present s.bay.bays).flatMap (fun e => bayJoists s e.2)

/-- Some joist was touched by another tenancy that still exists (R417). -/
def touchedByOther (s : State) (t : Nat) (js : List Nat) : Bool :=
  js.any (fun j => match (s.joist j).touchedBy with | some u => decide (u ≠ t) && (s.tenancy u).isSome | none => false)

def execBayDefine (cx : Cmd) (body : BayBody) (s : State) : Host.Outcome State Fault Refusal :=
  qci cx 0x0020 (fun s => withTenancy cx (fun t x =>
    let y := bayOfBody body t cx.session s.cfg.epoch
    let js := bayJoists s y
    if !bayRangesOk body || !bayPlaceOk s y then .fail s .badDesc
    else if body.bentMask &&& x.bentMask ≠ body.bentMask then .fail s .auth
    else if (bayBents y).any (fun b => (s.bent b).tripped) then .fail s .throttledTrip
    else if bayFenced s body.bay || (bayBents y).any (bentFenced s) then .fail s .fenced
    else if (s.bayOf body.bay).isSome || js.any (usedJoists s).contains || touchedByOther s t js
        || (bayBents y).any (fun b => (s.bent b).margining.isSome) then .fail s .busy
    else if 4096 < (present s.bay.bays).foldl (fun n e => n + e.2.seqSlots) body.seqSlots then .fail s .noResource
    else if x.maxBays ≤ (baysOfTenancy s t).length then .fail s .noResource
    else if !mramOpen s then .fail s .tempRange
    else
      let s := s.onKp (fun k => { k with tenantData := (bayBents y).foldl (fun m b => mset false m b true) k.tenantData })
      -- the bay of the joists changes (R161)
      let s := s.onJoi (fun x => { x with cache := cacheUnprotectJoists js x.cache })
      .ok (s.putBay body.bay (some { y with routes := routesNow s, pegMax := (bayBents y).map (fun b => (b, (s.bent b).pegMax)) }))) s) s

/-! ### BAY_RELEASE, BAY_ARM -/

def execBayRelease (cx : Cmd) (bay : Nat) (s : State) : Host.Outcome State Fault Refusal :=
  qci cx 0x0021 (fun s => withBay cx bay (fun _ =>
    if (runningStep s bay).isSome then .fail s .busy else .ok (releaseBay bay s)) s) s

/-- The armed steps of a bay that have not started, queued ones with ARM included. -/
def armedSteps (s : State) (bay : Nat) : List Step :=
  (stepsOf s bay).filter (fun x => x.arm.isSome && (x.isQueued || x.isArmed))

/-- A tag stands in one of the bay's armed slots; all four are full (R263). -/
def tagArmed (s : State) (bay tag : Nat) : Bool := (stepsOf s bay).any (fun x => x.isArmed && x.arm == some tag)
def slotsFull (s : State) (bay : Nat) : Bool := decide (4 ≤ ((stepsOf s bay).filter Step.isArmed).length)

def execBayArm (cx : Cmd) (bay on window : Nat) (s : State) : Host.Outcome State Fault Refusal :=
  qci cx 0x0022 (fun s => withBay cx bay (fun y =>
    if 1 < on ∨ 15 < window ∨ (on = 1 ∧ (mget none y.landing window).isNone) then .fail s .badDesc
    else if on = 1 then .ok (s.setBay bay (fun y => { y with trigOn := true, trigWindow := window }))
    else .ok ((armedSteps s bay).foldl (fun s x => cancelStep .reset x s) (s.setBay bay (fun y => { y with trigOn := false })))) s) s

/-! ### PROGRAM_LOAD, PROGRAM_UNLOAD -/

/-- The landing windows of a program, each with a fresh nonce of 14 bits (R335, R577). -/
def landingNonce (s : State) (draw t bay w : Nat) : Option Nat :=
  freshNonce (Config.random draw).toNat (2 ^ 14) s.bay.deadKeys (fun n =>
    landingKey t bay w { benchOff := 0, extent := 0, session := 0, nonce := n })

def landingWindows (s : State) (session bay t : Nat) (img : Image) : NMap (Option Landing) :=
  (img.landing.mapIdx (fun k l => (k, l))).foldl (fun m e =>
    let x : Landing := { benchOff := e.2.benchOff, extent := e.2.extent, session := session, nonce := 0 }
    mset none m e.2.window ((landingNonce s (drawNo s + e.1) t bay e.2.window).map (fun n => { x with nonce := n }))) []


def landingKeys (y : Bay) (bay : Nat) : List Nat :=
  (List.range 16).map (fun w => match mget none y.landing w with | some l => landingKey y.tenancy bay w l | none => 0)

/-- The joists of a window's bay, and the slice bytes that a range of its addresses reaches (R337). -/
def windowPieces (js : List Nat) (base extent a n : Nat) : List (Nat × Nat × Nat × Nat) :=
  (js.mapIdx (fun k j => (k, j))).filterMap (fun e =>
    let lo := max a (e.1 * extent)
    let hi := min (a + n) ((e.1 + 1) * extent)
    if lo < hi then some (e.2, base + (lo - e.1 * extent), hi - lo, lo - a) else none)

/-- Some unit that the framer's read of the image meets is bad (R219). -/
def imageBad (s : State) (w : SliceWin) (offset length : Nat) : Bool :=
  match s.bayOf w.bay with
  | none => false
  | some y => (windowPieces (bayJoists s y) w.addr w.extent offset length).any (fun p => badMem s.mem true p.1 p.2.1 p.2.2.1)

/-- The errors that a hub DMA read of a window range meets: those that it finds, and the bad units that it covers (R219, R221, R224). -/
def windowMeets (s : State) (w : SliceWin) (offset length : Nat) (found : List Finding) : List Finding :=
  let pieces := ((s.bayOf w.bay).map (fun y => windowPieces (bayJoists s y) w.addr w.extent offset length)).getD []
  let inRange (f : Finding) : Bool := pieces.any (fun p => decide (p.1 = f.joist ∧ f.unit < 24
    ∧ memKey true p.1 p.2.1 / 8 ≤ markKey f ∧ 8 * markKey f < memKey true p.1 p.2.1 + p.2.2.1))
  let fresh := (found.filter (fun f => inRange f || (f.joist == hubJoist && f.unit == 0x31))).map (fun f => { classed s f with src := 2 })
  (pieces.flatMap (fun p => poisonReads s true p.1 p.2.1 p.2.2.1 2)).filter (fun f => !justFound fresh f) ++ fresh

/-- A command reads a slice window through hub DMA: an uncorrectable unit halts the window's channel (R219). -/
def readingWindow (t window offset : Nat) (w : SliceWin) (read : HubRead) (k : State → Ans) (s : State) : Ans :=
  let met := windowMeets s w offset read.count read.found
  let s := meetShared met s
  if imageBad s w offset read.count || met.any (fun f => f.kind == .ue) then
    .fail (s.putSlice t window (some { w with halted := true })) .dmaUe
  else k s

/-- The bytes that a range of a slice window's addresses holds (R337). -/
def windowBytes (s : State) (w : SliceWin) (offset length : Nat) : List Byte :=
  match s.bayOf w.bay with
  | none => []
  | some y => (windowPieces (bayJoists s y) w.addr w.extent offset length).flatMap (fun p => readMem s.mem true p.1 p.2.1 p.2.2.1)

/-- Bytes of the programs loaded over all bays. -/
def loadedBytes (s : State) : Nat := (present s.bay.bays).foldl (fun n e => n + ((e.2.program.map (fun p => p.bytes)).getD 0)) 0

/-- RESULT of a PROGRAM_LOAD that finds a fault. -/
def badImage (stage offset where_ : Nat) : List Nat := [0, 0, 0xFFFF, stage, offset, where_]

/-- SHA-256 of bytes. -/
def bytesDigest (b : List Byte) : BitVec 256 := Config.digest (b.map BitVec.toNat)

/-- The program takes its place: its windows get keys, and the reply and the result are written (R335, R373). -/
def placeProgram (cx : Cmd) (bay : Nat) (y : Bay) (img : Image) (reply : Reply) (s : State) : Ans :=
  if img.landing ≠ [] ∧ !s.kp.randomOk then .fail s .failed
  else if img.landing.any (fun l => (landingNonce s 0 y.tenancy bay l.window).isNone) then .fail s .noResource
  else
    let unb := unboundedStages img y
    let y := { y with program := some img, unbounded := unb, landing := landingWindows s cx.session bay y.tenancy img }
    let s := (spend img.landing.length s).putBay bay (some y)
    let result := [img.stages.length, unb.length, unb.headD 0xFFFF]
    match writeReply cx reply 64 (.keys (landingKeys y bay)) s with
    | (s, true) => ⟨s, some { status := .ok, result := result ++ [0, 0, 0, 64], truncated := true }⟩
    | (s, false) => .ok s (result ++ [0, 0, 0])

def execProgramLoad (cx : Cmd) (bay window offset : Nat) (read : HubRead) (digest : BitVec 256) (named : List Named) (reply : Reply)
    (s : State) : Host.Outcome State Fault Refusal :=
  qci cx 0x0030 (fun s => withBay cx bay (fun y =>
    let length := read.count
    match s.sliceWin y.tenancy window with
    | none => .fail s .badDesc
    | some w =>
      let joists := ((s.bayOf w.bay).map (fun z => (bayJoists s z).length)).getD 0
      if 63 < window ∨ offset % 64 ≠ 0 ∨ length < 64 ∨ 1048576 < length ∨ joists * w.extent < offset + length then
        .fail s .badDesc
      else if bayFenced s w.bay then .fail s .fenced
      else if y.program.isSome then .fail s .busy
      else if w.halted then .fail s .dmaUe
      else readingWindow y.tenancy window offset w read (fun s =>
        let b := windowBytes s w offset length
        let img := decodeImage b named digest
        if bytesDigest b ≠ digest then .fail s .badDesc (badImage 0xFFFE 0 0)
        else if 2097152 < loadedBytes s + length then .fail s .noResource
        else
          match imageFault s b named img y with
          | some f => .fail s .badDesc (badImage f.1 f.2.1 f.2.2)
          | none => placeProgram cx bay y img reply s) s) s) s

def execProgramUnload (cx : Cmd) (bay : Nat) (s : State) : Host.Outcome State Fault Refusal :=
  qci cx 0x0031 (fun s => withBay cx bay (fun y =>
    if stepsOf s bay ≠ [] then .fail s .busy
    else .ok (buryLanding bay y (s.putBay bay (some { y with program := none, unbounded := [], landing := [] })))) s) s

/-! ### WEIGHTS_BIND -/

def execWeightsBind (cx : Cmd) (window bay access addr extent : Nat) (s : State) : Host.Outcome State Fault Refusal :=
  qci cx 0x0032 (fun s => withBay cx bay (fun y =>
    if 63 < window ∨ 3 < access ∨ addr % 64 ≠ 0 ∨ extent % 64 ≠ 0 ∨ extent < 64 ∨ 6291456 < extent
        ∨ sliceBytes s < addr + extent then .fail s .badDesc
    else withRandom (fun r s =>
      match freshNonce r.toNat (2 ^ 16) s.bay.deadKeys (rkey 2 y.tenancy window) with
      | none => .fail s .noResource
      | some nonce =>
        let w : SliceWin := ⟨bay, Nat.testBit access 0, Nat.testBit access 1, addr, extent, nonce, cx.session, false⟩
        let s := match s.sliceWin y.tenancy window with
          | some old => buryKey (rkey 2 y.tenancy window old.nonce) s
          | none => s
        .ok (s.putSlice y.tenancy window (some w)) [rkey 2 y.tenancy window nonce]) s) s) s

/-! ### STEP_RUN -/

/-- The length table's own faults (R255, R13): a sequence named twice, not open, or of another bay; fields out of range. -/
def tableFault (s : State) (bay : Nat) (table : List LtEntry) : Bool :=
  decide (64 < table.length) || decide ((table.map (fun e => e.seqId)).eraseDups.length ≠ table.length)
    || table.any (fun e => decide (65535 < e.start ∨ 65535 < e.qlen ∨ 65535 < e.append)
      || (match s.seqRec e.seqId with | some r => !r.isOpen || decide (r.bay ≠ bay) | none => true))

/-- R275: rows beyond MAX_ROWS, appends without a SCATTER_KV stage, queries beyond a VISION window. -/
def rowsFault (y : Bay) (table : List LtEntry) : Bool :=
  ((bayStages y).filterMap attOf).any (fun d =>
      decide (d.maxRows < (covered d table).foldl (fun n e => n + e.qlen) 0)
        || (d.vision && table.any (fun e => decide (d.win * d.win < e.start + e.qlen))))
    || (table.any (fun e => decide (0 < e.append)) && !(bayStages y).any isScatter)

def execStepRun (cx : Cmd) (bay prio : Nat) (arm : Bool) (armTag admitTimeout : Nat) (table : List LtEntry) (s : State) :
    Host.Outcome State Fault Refusal :=
  qci cx 0x0040 (fun s => withBay cx bay (fun y =>
    if 7 < prio ∨ 65535 < armTag ∨ 10000000 < admitTimeout ∨ (!arm ∧ armTag ≠ 0) then .fail s .badDesc
    else if y.reserved ∧ y.session ≠ cx.session then .fail s .auth
    else if y.program.isNone then .fail s .busy
    else if tableFault s bay table || rowsFault y table then .fail s .badDesc
    else if arm ∧ !y.trigOn then .fail s .busy
    else if arm ∧ tagArmed s bay armTag then .fail s .badDesc
    else if arm ∧ slotsFull s bay then .fail s .noResource
    else if 1024 ≤ s.jig.steps.length then .fail s .noResource
    else
      let x : Step := { id := s.jig.nextId, bay := bay, cx := cx, prio := prio, arm := if arm then some armTag else none,
                        table := table, jigSeq := y.jigNext, admitTimeout := admitTimeout }
      .later ((s.setBay bay (fun y => { y with jigNext := (y.jigNext + 1) % 2 ^ 32 })).onJig (fun j =>
        { j with steps := j.steps ++ [x], nextId := j.nextId + 1 }))) s) s

end Sys2Proof.Machine
end

