-- ==== Sys2Proof/Machine/ConfigCmds.lean ====
section
/-! DEFINITION. Configuration: CONFIG_STAGE, CONFIG_APPLY with its drain, CONFIG_COMMIT and CONFIG_READ (R383 to R392). -/

namespace Sys2Proof.Machine

/-! ### CONFIG_STAGE -/

/-- The staged set with one entry added: it replaces an earlier entry of its setting and goes to the end (R384). -/
def stageEntry (l : List Setting) (x : Setting) : List Setting := l.filter (fun y => idOf y ≠ idOf x) ++ [x]
def execConfigStage (cx : Cmd) (clear : Bool) (entries : List Setting) (s : State) : Host.Outcome State Fault Refusal :=
  qci cx 0x0070 (fun s =>
    let set := entries.foldl stageEntry (if clear then [] else s.cfg.staged)
    if 444 < tlvBytes entries then .fail s .badDesc
    else if s.cfg.applying.isSome then .fail s .busy
    else if 4096 < tlvBytes set then .fail s .noResource
    else .ok (s.onCfg (fun c => { c with staged := set }))) s

/-! ### CONFIG_APPLY -/

/-- The index of the first entry that keeps the set from applying: a fault of its own, or the first with which the combined
rules of R339, R347 and R538 fail. -/
def firstBad (s : State) (l : List Setting) : Option Nat :=
  match l.findIdx? (fun x => decide (settingFault s x ≠ 0)) with
  | some k => some k
  | none =>
    if settingsAgree s l then none
    else (List.range l.length).find? (fun k => !settingsAgree s (l.take (k + 1)))

/-- Ports that carry peer queue pairs of a bound job. -/
def peerPorts (s : State) : List Nat := (present s.net.jobs).flatMap (fun e => e.2.peers.map (fun p => p.entry.port))

/-- A MAX_FRAME below 4,224 on a port that carries a peer queue pair of a bound job (R352). -/
def shrinksFrame (s : State) (l : List Setting) : Bool :=
  l.any (fun x => decide (x.block = 2 ∧ x.num = 2 ∧ x.value.headD 0 < 4224) && (peerPorts s).contains x.inst)

/-- A bay has drained: no step runs on it, or a partition reset has released it (R384, R488). -/
def bayDrained (s : State) (bay : Nat) : Bool := (runningStep s bay).isNone || bayFenced s bay

def isBoundary (x : Setting) : Bool := decide (settingClass x.block x.num = .boundary)

/-- Bays that the Boundary settings of a list affect. -/
def boundaryBays (s : State) (l : List Setting) : List Nat := ((l.filter isBoundary).flatMap (affected s)).eraseDups

/-- One bay takes its share of the Boundary settings: at once when it runs no step, else at its next boundary (R383). -/
def scheduleBay (epoch : Nat) (l : List Setting) (bay : Nat) (s : State) : State :=
  let mine := (l.filter isBoundary).filter (fun x => (affected s x).contains bay)
  if (runningStep s bay).isNone then adoptNow bay epoch mine s
  else s.onCfg (fun c => { c with scheduled := c.scheduled ++ [(bay, epoch, mine)] })

/-- PEG_MAX of a bent on which no bay lies is adopted at once. -/
def adoptFree (l : List Setting) (s : State) : State :=
  syncPegs ((l.filter (fun x => decide (x.block = 1 ∧ x.num = 3) && (affected s x).isEmpty)).foldl (fun s x =>
    s.setBent x.inst (fun b => { b with pegIn := x.value.headD 8 })) s)

/-- A bay in which a step runs goes on with the DSCP of tally data that it has adopted, until its boundary (R383). -/
def keepDscp (l : List Setting) (s : State) : State :=
  let ports := (l.filter (fun x => x.block = 2 ∧ x.num = 6)).map (fun x => x.inst)
  ((boundaryBays s l).filter (fun b => (runningStep s b).isSome)).foldl (fun t b => t.setBay b (fun y => { y with
    tallyDscp := ports.foldl (fun m p => mset none m p (some (tallyDscpOf s p b))) y.tallyDscp })) s

/-- Steps 4 and 5 of R385 over a set of settings: the epoch rises, Quiesce and Live settings take effect, Boundary settings
are adopted or scheduled. -/
def applySet (l : List Setting) (s : State) : State :=
  let now := (l.filter (fun x => !isBoundary x))
  let s := s.onCfg (fun c => { c with epoch := (c.epoch + 1) % 2 ^ 32 })
  let shown := ((now.flatMap (affected s)).eraseDups).filter (fun b =>
    !((boundaryBays s l).contains b && (runningStep s b).isSome))
  let s := noteSteps (putSettings l (noteSteps (keepDscp l s)))
  let s := shown.foldl (fun s b => s.setBay b (fun y => { y with epoch := s.cfg.epoch })) s
  adoptFree l ((boundaryBays s l).foldl (fun s b => scheduleBay s.cfg.epoch l b s) s)

/-- Bays that have not yet adopted a Boundary setting. -/
def toAdopt (s : State) : Nat := ((s.cfg.scheduled.map (fun e => e.1)).eraseDups).length

/-- A CONFIG_APPLY whose bays have drained completes. -/
def applyDone (l : List Setting) (s : State) : Ans :=
  let s := s.onCfg (fun c => { c with applying := none })
  if shrinksFrame s l then .fail s .busy
  else
    let s := applySet l s
    .ok (s.onCfg (fun c => { c with staged := [] })) [s.cfg.epoch, toAdopt s]

def execConfigApply (cx : Cmd) (baseEpoch timeout : Nat) (s : State) : Host.Outcome State Fault Refusal :=
  qci cx 0x0071 (fun s =>
    let l := s.cfg.staged
    if timeout = 0 ∨ 10000 < timeout then .fail s .badDesc
    else if s.cfg.applying.isSome then .fail s .busy
    else if baseEpoch ≠ s.cfg.epoch then .fail s .epoch
    else
      match firstBad s l with
      | some k => .fail s .badDesc [tlvBytes (l.take k)]
      | none =>
        if shrinksFrame s l then .fail s .busy
        else if (drainedBays s l).all (bayDrained s) then applyDone l s
        else .later (s.onCfg (fun c => { c with applying := some { cx := cx, timeout := timeout, settings := l } }))) s

def execConfigApplyDrained (s : State) : Host.Outcome State Fault Refusal :=
  match s.cfg.applying with
  | none => .next s
  | some a =>
    if (drainedBays s a.settings).all (bayDrained s) then
      let r := applyDone a.settings s
      .next (finish a.cx 0x0071 (r.v.getD { status := .ok }) r.s)
    else .next s

def execConfigApplyTimeout (s : State) : Host.Outcome State Fault Refusal :=
  match s.cfg.applying with
  | none => .next s
  | some a => .next (finish a.cx 0x0071 { status := .busy } (s.onCfg (fun c => { c with applying := none })))

/-! ### CONFIG_COMMIT -/

/-- The CRC of a record's bytes (R388). -/
def recordCheck (r : SettingsRecord) : BitVec 32 :=
  let payload := r.payload.flatMap settingTlv
  Config.crc32c ((leBytes 4 r.sequence ++ leBytes 4 payload.length ++ leBytes 4 r.epoch ++ leBytes 4 r.fwVersion ++ payload).map
    BitVec.toNat)
/-- COMMIT of a record is consistent, and the record is valid (R390). -/
def recordCommitted (r : SettingsRecord) : Bool := decide (r.commitLo = r.sequence ∧ r.commitHi = 2 ^ 32 - 1 - r.sequence)
def recordValid (r : SettingsRecord) : Bool := recordCommitted r && (r.check == recordCheck r)

/-- The valid records, by location. -/
def validRecords (s : State) : List (Nat × SettingsRecord) := (present s.kp.records).filter (fun e => recordValid e.2)
def topSequence (s : State) : Nat := (validRecords s).foldl (fun n e => max n e.2.sequence) 0

/-- The record that a commit writes (R388, R389). -/
def recordNow (s : State) (q : Nat) : SettingsRecord :=
  let r : SettingsRecord :=
    { sequence := q, epoch := s.cfg.epoch, fwVersion := s.kp.running.version,
      payload := settingsInForce s, check := 0, commitLo := q, commitHi := 2 ^ 32 - 1 - q }
  { r with check := recordCheck r }

def execConfigCommit (cx : Cmd) (s : State) : Host.Outcome State Fault Refusal :=
  qci cx 0x0072 (fun s =>
    if s.cfg.applying.isSome then .fail s .busy
    else if !mramOpen s then .fail s .tempRange
    else
      let q := topSequence s + 1
      let s := s.onKp (fun k => { k with records := mset none k.records (q % 4) (some (recordNow s q)) })
      .ok (s.onCfg (fun c => { c with location := q % 4, sequence := q, defaulted := false, skipped := false })) [q, q % 4]) s

/-! ### CONFIG_READ -/

/-- The settings that byte 16 of the body chooses (R387). -/
def settingsBy (s : State) (which : Nat) : List Setting :=
  if which = 0 then settingsInForce s
  else if which = 1 then s.cfg.staged
  else if which = 2 then recordSettings s
  else (settingsInForce s).map (fun x => { x with value := (factory x.block x.num).getD [] })

def execConfigRead (cx : Cmd) (which : Nat) (reply : Reply) (s : State) : Host.Outcome State Fault Refusal :=
  qci cx 0x0073 (fun s =>
    if 3 < which then .fail s .badDesc
    else replied cx reply (tlvBytes (settingsBy s which)) (.settings (settingsBy s which)) [] s) s

end Sys2Proof.Machine
end

