-- ==== Sys2Proof/Machine/Firmware.lean ====
section
/-! DEFINITION. Firmware updates: FW_BEGIN, FW_CHUNK, FW_FINISH (R421 to R425). -/

namespace Sys2Proof.Machine

/-- The boot ROM revision of a production device (R554). -/
def romRev : Nat := 1

def imageVersion (s : State) : Nat := imageField s 4 4
def imageKey (s : State) : Nat := imageField s 12 1
def imageRomMin (s : State) : Nat := imageField s 16 4
def imageUcodeLen (s : State) : Nat := imageField s 32 4
def imageLength (s : State) : Nat := imageField s 8 4
/-- MAGIC, LENGTH and the sections are consistent, and the reserved fields are zero. -/
def imageShaped (s : State) : Bool :=
  let n := imageLength s
  decide (imageField s 0 4 = 0x31574641 ∧ 224 ≤ n ∧ n ≤ 8388608 ∧ imageField s 24 4 ≤ 4194304
    ∧ imageField s 20 4 + imageField s 24 4 ≤ n ∧ imageField s 28 4 + imageUcodeLen s ≤ n
    ∧ imageField s 13 3 = 0 ∧ imageField s 36 28 = 0 ∧ imageField s 129 31 = 0)
/-- The bytes of the image from one on. -/
def imageRange (s : State) (from_ n : Nat) : List Byte := readBytes s.kp.imageBytes from_ n
def beNat (l : List Byte) : Nat := leNat l.reverse
/-- X and Y of PUBKEY, and the image's signature (R421). -/
def imagePubkey (s : State) : BitVec 512 := BitVec.ofNat 512 (beNat (imageRange s 65 64))
def imageSignature (s : State) : BitVec 512 := BitVec.ofNat 512 (beNat (imageRange s (imageLength s - 64) 64))
/-- The fused hash of a firmware key. -/
def fusedKey (s : State) (i : Nat) : BitVec 256 := if i = 0 then s.kp.fuses.fwKey0 else s.kp.fuses.fwKey1
/-- PUBKEY is the firmware key that the image names, that key is not revoked, and the image verifies under it (R423). -/
def imageSigned (s : State) : Bool :=
  decide (imageKey s < 2 ∧ imageField s 64 1 = 4) && !s.kp.fuses.revoke.getLsbD (imageKey s)
    && decide (sha (imageRange s 64 65) = fusedKey s (imageKey s))
    && signedBy (imagePubkey s) (sha (imageRange s 0 (imageLength s - 64))) (imageSignature s)
/-- M_FW and M_UCODE of the image, with what the report and the broadcast take of its header (R416). -/
def imageNow (s : State) : FwImage :=
  { version := imageVersion s, sha := sha (imageRange s 0 (imageLength s))
    ucodeSha := sha (imageRange s (imageField s 28 4) (imageUcodeLen s)), ucodeLen := imageUcodeLen s }

/-- What R423 asks of an image. -/
def imageAccepted (s : State) : Bool :=
  imageShaped s && imageSigned s && decide (s.kp.fwCounter ≤ imageVersion s) && decide (imageRomMin s ≤ romRev)
/-- SHA-256 of the region up to a transfer's LENGTH equals its DIGEST (R425). -/
def imageDigestOk (s : State) (length : Nat) (digest : BitVec 256) : Bool := decide (sha (imageRange s 0 length) = digest)

/-- Another session holds the firmware object (R424). -/
def updateElsewhere (s : State) (cx : Cmd) : Bool := (s.kp.update.map (fun u => decide (u.session ≠ cx.session))).getD false

def execFwBegin (cx : Cmd) (length version : Nat) (digest : BitVec 256) (s : State) : Host.Outcome State Fault Refusal :=
  qci cx 0x0090 (fun s =>
    if length < 224 ∨ 8388608 < length then .fail s .badDesc
    else if version < s.kp.fwCounter then .fail s .auth
    else if updateElsewhere s cx then .fail s .busy
    else if !mramOpen s then .fail s .tempRange
    else .ok (s.onKp (fun k => { k with
      commitLo := 0, commitHi := 0,
      update := some { session := cx.session, length := length, version := version, digest := digest } }))) s

/-- Image bytes go into the image region of MRAM. -/
def storeImage (off : Nat) (data : List Byte) (s : State) : State :=
  s.onKp (fun k => { k with imageBytes := writeBytes k.imageBytes off data })

def execFwChunk (cx : Cmd) (offset : Nat) (data : List Byte) (s : State) : Host.Outcome State Fault Refusal :=
  qci cx 0x0091 (fun s =>
    match s.kp.update with
    | none => .fail s .badDesc
    | some u =>
      if data = [] ∨ 888 < data.length ∨ u.length < offset + data.length then .fail s .badDesc
      else if updateElsewhere s cx then .fail s .busy
      else if !mramOpen s then .fail s .tempRange
      else .ok (storeImage offset data s)) s

/-- Steps 4 and 5 of R425: the counter rises and the commit word is written last. -/
def commitImage (s : State) : State :=
  s.onKp (fun k => { k with
    fwCounter := max k.fwCounter (imageVersion s)
    commitLo := imageVersion s % 2 ^ 32, commitHi := 2 ^ 32 - 1 - imageVersion s % 2 ^ 32 })

def execFwFinish (cx : Cmd) (_v : Unit) (s : State) : Host.Outcome State Fault Refusal :=
  qci cx 0x0092 (fun s =>
    match s.kp.update with
    | none => .fail s .badDesc
    | some u =>
      if updateElsewhere s cx then .fail s .busy
      else if !mramOpen s then .fail s .tempRange
      else
        let s := s.onKp (fun k => { k with update := none })
        if imageDigestOk s u.length u.digest && imageAccepted s then .ok (commitImage s) [imageVersion s] else .fail s .auth) s

end Sys2Proof.Machine
end

