-- ==== Sys2Proof/Machine/Raise.lean ====
section
/-! DEFINITION. What a warm device reset, the fall of PWROK and the loss of the reference clock leave of the machine (R486,
R489, R525, R530, R531), and how bring-up starts (R430). -/

namespace Sys2Proof.Machine

/-- R at boot: the cooling baseline, or 2,294/65,536 °C/W without one (R506). -/
def bootRth (s : State) : Nat := if s.kp.baseline = 0 then 0x08F6 else s.kp.baseline

/-- Every bent as the reset leaves it: stopped, its ballast releasing the current it had, its laminations in self-refresh
where they were refreshed or refreshing themselves. -/
def bentsHeld (rate : Nat) (s : State) : NMap Bent :=
  (List.range 4).foldl (fun m b =>
    mset {} m b { ballast := if (s.bent b).stopped then 0 else rate,
                  inSelfRefresh := (s.bent b).refreshOn || (s.bent b).inSelfRefresh }) []

/-- Every part but the keeper and MRAM at its reset value (R486, R489): what the slices hold and the margin results stay. -/
def clearDies (rate : Nat) (s : State) : State :=
  { s with
    cfg := {}
    qci := {}
    ten := []
    bay := {}
    rack := {}
    jig := {}
    joi := {}
    mem := { slice := s.mem.slice, sliceMark := s.mem.sliceMark, hidden := s.mem.hidden, hiddenMark := s.mem.hiddenMark }
    rfr := []
    ecc := { margin := s.ecc.margin, strobe := s.ecc.strobe, badSpares := s.ecc.badSpares }
    bnt := bentsHeld rate s
    lnk := []
    net := {}
    thm := { keeperT := s.thm.keeperT, thermistor := s.thm.thermistor, rth := bootRth s }
    pwr := { pwrok := s.pwr.pwrok, rstN := s.pwr.rstN, vddKeep := s.pwr.vddKeep, refclk := s.pwr.refclk,
             alerts := s.pwr.alerts.filter (fun c => c = 8), thermtrip := s.kp.coolantLoss || s.kp.keeperTrip } }

/-- What a reset ends in the keeper: an open update, the remap writes that the hub still retried, the bring-up it conducted. -/
def keeperHeld (k : Keeper) : Keeper :=
  { k with
    update := none
    linkKey := 0
    linkCount := 0
    remaps := k.remaps.filterMap (fun r =>
      if r.unwritten then (if r.isDone then some { r with isDone := false, unwritten := false } else none) else some r)
    framerStall := false
    mgmtTaken := []
    mgmt := []
    recovery := none
    afterRecovery := false
    stage := 0
    raising := false
    fastPath := false
    retRejected := false
    bootMs := 0
    bootStamp := 0
    hubHeld := true
    faultKind := 0
    faultIndex := 0
    bcast := {}
    retired := []
    remapFixed := false
    hidden := [] }

/-- Every die but the keeper is held in reset, and bring-up does not run. -/
def holdDies (rate : Nat) (s : State) : State := (clearDies rate s).onKp keeperHeld

/-- Bring-up starts at T0 (R430, R529): the KEEPER stage follows. -/
def startRaise (cold full : Bool) (s : State) : State :=
  s.onKp (fun k => { k with stage := 0, raising := true, coldStart := cold, fullTests := full, t0 := keeperNow s })

/-- A warm device reset (R486), with FULL_TESTS or another ground that bars the fast path: FAILED and TOPOLOGY_MISMATCH
end only without it (R440, R487). -/
def warmReset (rate : Nat) (full : Bool) (s : State) : State :=
  startRaise false (full || decide (s.kp.stage = 0xB ∨ s.kp.stage = 0xC)) (holdDies rate s)

/-! ### Ports of an engine -/

/-- Both ports of an engine go down, unless disabled. -/
def dropEnginePorts (e : Nat) (s : State) : State :=
  [2 * e, 2 * e + 1].foldl (fun s p => if (s.port p).link = 3 then s else dropLink p 0 s) s

end Sys2Proof.Machine
end

