-- ==== Sys2Proof/Machine/Retain.lean ====
section
/-! DEFINITION. RETAIN: POWER_RETAIN with its drain, the phases of entry, the wakes and the phases of exit (R536 to R543,
R547, R548). -/

namespace Sys2Proof.Machine

/-! ### POWER_RETAIN -/

/-- Something would end RETAIN: a sentry port, or light on a port (R536). -/
def canWake (s : State) : Bool := decide (sentryPort s ≠ 0xFF) || (portsOf s).any (fun p => Nat.testBit (wakeLight s) p)

/-- What bars the entry to RETAIN for now (R536). -/
def retainBusy (s : State) : Bool :=
  !s.pwr.resets.isEmpty || s.cfg.applying.isSome || s.kp.update.isSome || s.bnt.any (fun e => e.2.margining.isSome)
    || (present s.ten).any (fun e => e.2.destroying.isSome) || decide (s.pwr.retain ≠ 0)

def execPowerRetain (cx : Cmd) (timeout : Nat) (s : State) : Host.Outcome State Fault Refusal :=
  qci cx 0x0080 (fun s =>
    if timeout = 0 ∨ 10000 < timeout then .fail s .badDesc
    else if retainBusy s then .fail s .busy
    else if (List.range 4).any (fun b => (s.bent b).tripped) then .fail s .throttledTrip
    else if !canWake s then .fail s .badDesc
    else .later (s.onPwr (fun p =>
      { p with retain := 1, retainCx := some cx, retainTimeout := timeout, retainFrom := usNow s }))) s

/-- The drain has ended: no step runs, no other command is in progress, the store and the hub DMA channels are empty. -/
def retainDrained (s : State) (cx : Cmd) : Bool :=
  s.jig.steps.all (fun x => !(x.phase == .running)) && s.net.store.isEmpty && s.net.waiting.isEmpty && s.net.rx.isEmpty
    && s.qci.taken.all (fun t => decide (t.opcode = 0x0040 ∨ (t.session = cx.session ∧ t.seq = cx.seq)))

def execRetainDrainDone (s : State) : Host.Outcome State Fault Refusal :=
  match s.pwr.retainCx with
  | none => .next s
  | some cx =>
    if s.pwr.retain = 1 ∧ retainDrained s cx then
      .next (s.onPwr (fun p => { p with retain := 2, retainDrain := usNow s - p.retainFrom }))
    else .next s

def execRetainDrainTimeout (s : State) : Host.Outcome State Fault Refusal :=
  match s.pwr.retainCx with
  | none => .next s
  | some cx =>
    if s.pwr.retain = 1 then
      .next (finish cx 0x0080 { status := .busy } (s.onPwr (fun p => { p with retain := 0, retainCx := none })))
    else .next s

/-! ### Entry (R537) -/

/-- The engine that serves the sentry port stays lit. -/
def isSentryEngine (s : State) (e : Nat) : Bool := decide (sentryPort s ≠ 0xFF ∧ sentryPort s / 2 = e)

/-- Ports other than the sentry port go dark, and the lasers of other engines are disabled. -/
def goDark (s : State) : State :=
  let s := (List.range 12).foldl (fun s p =>
    if p = sentryPort s ∨ (s.port p).link = 3 then s else dropLink p 0 s) s
  (List.range 6).foldl (fun s e =>
    if isSentryEngine s e then s else s.setEngine e (fun x => { x with laserOn := false })) s

def execRetainClose (s : State) : Host.Outcome State Fault Refusal :=
  match s.pwr.retainCx with
  | none => .next s
  | some cx =>
    if s.pwr.retain = 2 then
      let s := finish cx 0x0080 { status := .ok, result := [s.pwr.retainDrain] } s
      .next ((goDark s).onPwr (fun p => { p with retain := 3, retainCx := none }))
    else .next s

def execRetainStop (s : State) : Host.Outcome State Fault Refusal :=
  if s.pwr.retain = 3 then
    let s := (List.range 4).foldl (fun s b => stopTransit b (stopBent 40 b s)) s
    .next ((s.onQci (fun q => { q with framerHalted := true })).onPwr (fun p => { p with retain := 4 }))
  else .next s

def execRetainSelfRefresh (s : State) : Host.Outcome State Fault Refusal :=
  if s.pwr.retain = 4 then
    .next (((List.range 4).foldl (fun s b => selfRefresh b s) s).onPwr (fun p => { p with retain := 5 }))
  else .next s

/-- Bents that exit restores, the ones that hold bays of a tenancy first (R542). -/
def exitFirst (s : State) (bents : List Nat) : List Nat :=
  let mine (b : Nat) : Bool := s.pwr.wakeNamed && decide (s.pwr.wakeCause = 1)
    && (baysOfTenancy s s.pwr.wakeTenancy).any (fun n => ((s.bayOf n).map (fun y => Nat.testBit y.bentMask b)).getD false)
  bents.filter mine ++ bents.filter (fun b => !mine b)

/-- Exit begins (R542, R548). -/
def beginExit (s : State) : State :=
  s.onPwr (fun p => { p with retain := 7, wakePending := false, exitOrder := exitFirst s p.exitOrder })

/-- The sill, hub and non-sentry engine PLLs stop, and the bents are gated behind retention. -/
def gatePower (s : State) : State :=
  let up := (List.range 4).filter (fun b => (s.bent b).up)
  let s := (List.range 4).foldl (fun s b => s.setBent b (fun x => { x with up := false, sillLock := false })) s
  let s := (List.range 6).foldl (fun s e =>
    if isSentryEngine s e then s else s.setEngine e (fun x => { x with pllLock := false })) s
  s.onPwr (fun p => { p with retain := 6, hubLock := false, exitOrder := up })

def execRetainRetention (s : State) : Host.Outcome State Fault Refusal :=
  if s.pwr.retain = 5 then
    let t := gatePower s
    .next (if t.pwr.wakePending then beginExit t else t)
  else .next s

/-! ### Wakes (R539 to R541, R547, R548) -/

/-- A wake in RETAIN starts the exit; during entry it waits for the entry to complete; during the exit it has no effect.
A wake that is not caused by a valid wake frame counts in SPURIOUS. -/
def wake (cause port : Nat) (s : State) : State :=
  if s.pwr.retain < 2 then s
  else
    let s := if cause = 1 then s else s.onPwr (fun p => { p with spurious := sat 0xFFFF (p.spurious + 1) })
    if 7 ≤ s.pwr.retain ∨ s.pwr.wakePending then s
    else
      let s := s.onPwr (fun p => { p with wakeCause := cause, wakePort := port })
      if s.pwr.retain = 6 then beginExit s else s.onPwr (fun p => { p with wakePending := true })

def execLightWake (port : Nat) (s : State) : Host.Outcome State Fault Refusal :=
  onPort port (fun s =>
    let dark := !(s.port port).lit
    let s := s.setPort port (fun x => { x with lit := true })
    if dark && Nat.testBit (wakeLight s) port then wake 4 port s else s) s

def execFrameWake (port : Nat) (s : State) : Host.Outcome State Fault Refusal :=
  onPort port (fun s => if port = sentryPort s then wake 2 port s else s) s

/-- The tag of a wake frame (R540). -/
def wakeTag (x : Session) (f : WakeFrame) : BitVec 128 :=
  gcmTag x.kCmd ([0, 0, 0, 6] ++ leBytes 8 f.counter) (fieldBytes 16 [(0, 2, 1), (2, 1, f.tenancy), (4, 2, f.session), (8, 8, f.counter)]) []

/-- The first check of R541 that a wake frame fails: 1 session, 2 tenancy, 3 COUNTER, 4 tag. -/
def wakeFault (s : State) (f : WakeFrame) : Option Nat :=
  match s.session f.session with
  | none => some 1
  | some x =>
    if f.tenancy ≠ 0xFF ∧ x.mailbox ≠ 0xFF ∧ x.mailbox ≠ f.tenancy then some 2
    else if f.counter ≤ x.mgmtCounter then some 3
    else if !x.isSealed ∨ f.tag ≠ wakeTag x f then some 4
    else none

/-- What a valid wake frame names to the exit. -/
def nameTenancy (t : Nat) (s : State) : State :=
  if s.pwr.retain < 7 ∧ !s.pwr.wakePending then
    s.onPwr (fun p => { p with wakeNamed := decide (t ≠ 0xFF), wakeTenancy := if t = 0xFF then 0 else t })
  else s

def execWakeFrameRx (f : WakeFrame) (s : State) : Host.Outcome State Fault Refusal :=
  onPort f.port (fun s =>
    if s.pwr.retain < 2 ∨ f.port ≠ sentryPort s then s
    else
      match wakeFault s f with
      | some c => wake 3 f.port (logEvent 0x000C (0x30 + f.port) [(f.port : Int), f.session, c] s)
      | none => wake 1 f.port (nameTenancy f.tenancy (s.setSession f.session (fun x => { x with mgmtCounter := f.counter })))) s

/-! ### Exit (R542, R543) -/

/-- The hub's PLL and the engines' lock, the framer resumes, and every laser that may be on is enabled. -/
def resumeHub (s : State) : State :=
  let s := (List.range 6).foldl (fun s e =>
    if (s.engine e).state = 0 ∧ enginePresent s e then s.setEngine e (fun x => { x with pllLock := true }) else s) s
  lightLasers ((s.onQci (fun q => { q with framerHalted := false })).onPwr (fun p =>
    { p with hubLock := true, retain := if p.exitOrder.isEmpty then 0 else 8 }))

def execRetainExitHub (s : State) : Host.Outcome State Fault Refusal :=
  if s.pwr.retain = 7 then .next (resumeHub s) else .next s

/-- One bent is restored from retention; a tripped one is passed over. -/
def restoreBent (b : Nat) (s : State) : State :=
  if (s.bent b).tripped then s
  else resumeRefresh b (startBent b (startTransit b (s.setBent b (fun x => { x with up := true }))))

def execRetainExitBent (bent : Nat) (s : State) : Host.Outcome State Fault Refusal :=
  onBent bent (fun s =>
    if s.pwr.retain = 8 ∧ s.pwr.exitOrder.head? = some bent then
      (restoreBent bent s).onPwr (fun p =>
        { p with exitOrder := p.exitOrder.drop 1, retain := if p.exitOrder.length = 1 then 0 else 8 })
    else s) s

end Sys2Proof.Machine
end

