-- ==== Sys2Proof/Machine/Net.lean ====
section
/-! DEFINITION. The network side's shared operations: windows (R334 to R337, R574), seals (R409 to R411), the tally (R341 to
R346), the host pool (R339, R347, R348), NAKs and queue pair errors (R329, R480), and sending exchange data (R343, R381). -/

namespace Sys2Proof.Machine

/-! ### Packets and queue pairs -/

def pktKey (p : Pkt) : Nat := qpKey p.port p.qpn
def isRead (p : Pkt) : Bool := p.op == .read
/-- RoCEv2 payload of a received packet: seal header and tag included on a sealed queue pair (R342, R409). -/
def payloadBytes (q : Qp) (p : Pkt) : Nat := if isRead p then 0 else p.data.length + (if q.isSealed then 24 else 0)
/-- The cells of a payload (R342). -/
def cellCost (n : Nat) : Nat := ceilDiv n 256 + 1

/-- The PSNs that a READ takes. -/
def readSpan (q : Qp) (n : Nat) : Nat := max 1 (ceilDiv n (dataRoom q))

/-- The tenancy that a queue pair belongs to: of its binding, or of its session's mailbox; 0xFF for the device's. -/
def qpOwner (s : State) (q : Qp) : Nat :=
  match q.peer with
  | some p => p.1
  | none => ((q.session.bind s.session).map (fun x => x.mailbox)).getD 0xFF

def qpError (key : Nat) (e : QpErr) (s : State) : State := s.setQp key (fun q => { q with err := e })

/-- A NAK (R558): 0 sequence error, 1 invalid request, 2 remote access error, 3 remote operational error, 4 receiver not
ready. -/
def sendNak (key psn kind : Nat) (s : State) : State :=
  frameOut (key / 2 ^ 24) [(0x180 + 8 * kind, 1)] (.nak key psn kind) s
/-- The last PSN before which everything received has reached its destination (R330). -/
def ackPoint (key : Nat) (s : State) : Nat :=
  let next := match s.net.rx.find? (fun r => decide (qpKey r.pkt.port r.pkt.qpn = key) && !r.acked) with
    | some r => r.pkt.psn
    | none => ((s.qp key).map (fun q => q.rxPsn)).getD 0
  (next + 2 ^ 24 - 1) % 2 ^ 24
/-- An ACK for everything up to there (R328). -/
def sendAck (key : Nat) (s : State) : State :=
  sendFrame (key / 2 ^ 24) (.ack key (ackPoint key s)) (s.setQp key (fun q => { q with unacked := 0 }))

/-- The response packets of a READ (R329, R409): each carries up to a path MTU of data, under the PSNs that the request takes. -/
def responsePkts (key va room psn : Nat) (isSealed first : Bool) : Nat → List Byte → List TxPkt
  | 0, _ => []
  | n + 1, data =>
    let last := decide (data.length ≤ room)
    let x : TxPkt :=
      { qpn := key, psn := psn, port := key / 2 ^ 24, va := va, data := data.take room, response := true
        size := min room data.length + (if isSealed then 24 else 0)
        opcode := if first then (if last then 0x10 else 0x0D) else if last then 0x0F else 0x0E }
    if last then [x] else x :: responsePkts key (va + room) room ((psn + 1) % 2 ^ 24) isSealed false n (data.drop room)
/-- The responses go, or wait for room in the store (R339, R340). -/
def respondAll (key va psn : Nat) (q : Qp) (data : List Byte) (s : State) : State :=
  (responsePkts key va (dataRoom q) psn q.isSealed true (data.length + 1) data).foldl (fun s x => transmit x s) s

/-! ### Windows -/

/-- What an R_Key names. -/
inductive Target where
  | landing (bay w : Nat)
  | slice (t w : Nat)
  | control (mailbox : Nat)
  | handshake (t k : Nat)
  deriving DecidableEq, Repr

/-- The bay and landing window number of a key (R335, R336). -/
def keyBay (k : Nat) : Nat := k / 2 ^ 16 % 64
def keyWindow (k : Nat) : Nat := k / 2 ^ 22 % 4 * 4 + k / 2 ^ 14 % 4

/-- Is the key retired for the peer queue pairs of a tenancy (R479, R574)? -/
def keyRetired (s : State) (t k : Nat) : Bool :=
  s.bay.retired.any (fun e => decide (e.1 = keyBay k ∧ e.2.2.1 = t ∧ (e.2.1 = 0xFF ∨ e.2.1 = keyWindow k)))

/-- The window that a key names on a queue pair (R334 to R336, R356, R413, R574); none where it names none. -/
def resolve (s : State) (q : Qp) (k : Nat) : Option Target :=
  let t := qpOwner s q
  match q.peer with
  | some p =>
    if k = 0 then
      (mget none s.net.binding p.1).bind (fun j => (j.peers[p.2]?).bind (fun x =>
        if s.qp x.qpn = some q then some (.handshake p.1 p.2) else none))
    else if k / 2 ^ 28 ≠ 1 ∨ keyRetired s t k then none
    else (s.bayOf (keyBay k)).bind (fun y =>
      if y.tenancy = t then (mget none y.landing (keyWindow k)).map (fun _ => .landing (keyBay k) (keyWindow k)) else none)
  | none =>
    if k = 0x30000000 then (if t = 0xFF then some (.control 0xFF) else none)
    else if k / 2 ^ 24 % 16 ≠ t then none
    else if k / 2 ^ 28 = 3 then
      (s.tenancy t).bind (fun x => if x.windowKey = k then some (.control t) else none)
    else if k / 2 ^ 28 = 1 then
      (s.bayOf (keyBay k)).bind (fun y => (mget none y.landing (keyWindow k)).bind (fun l =>
        if y.tenancy = t ∧ l.nonce = k % 2 ^ 14 ∧ q.session = some l.session then
          some (.landing (keyBay k) (keyWindow k)) else none))
    else if k / 2 ^ 28 = 2 ∧ k / 2 ^ 16 % 256 < 64 then
      (s.sliceWin t (k / 2 ^ 16 % 64)).bind (fun w =>
        if w.nonce = k % 2 ^ 16 ∧ q.session = some w.session then some (.slice t (k / 2 ^ 16 % 64)) else none)
    else none

/-- The bay of a window. -/
def targetBay (s : State) : Target → Option Nat
  | .landing b _ => some b
  | .slice t w => (s.sliceWin t w).map (fun x => x.bay)
  | _ => none
def targetBents (s : State) (g : Target) : List Nat :=
  (((targetBay s g).bind s.bayOf).map bayBents).getD []
/-- Base address and extent on each joist. -/
def targetExtent (s : State) : Target → Nat × Nat
  | .landing b w => (((s.bayOf b).bind (fun y => mget none y.landing w)).map (fun l => (l.benchOff, l.extent))).getD (0, 0)
  | .slice t w => ((s.sliceWin t w).map (fun x => (x.addr, x.extent))).getD (0, 0)
  | _ => (0, 0)
/-- The joists of a window's bay. -/
def targetJoists (s : State) (g : Target) : List Nat := (((targetBay s g).bind s.bayOf).map (bayJoists s)).getD []
/-- The channel that serves the window is halted (R220). -/
def targetHalted (s : State) : Target → Bool
  | .landing b _ => ((s.bayOf b).map (fun y => y.dmaHalted)).getD false
  | .slice t w => ((s.sliceWin t w).map (fun x => x.halted)).getD false
  | _ => false
/-- The channel halts (R219). -/
def haltTarget (g : Target) (s : State) : State :=
  match g with
  | .landing b _ => s.setBay b (fun y => { y with dmaHalted := true })
  | .slice t w => match s.sliceWin t w with
    | some x => s.putSlice t w (some { x with halted := true })
    | none => s
  | _ => s

/-- Bounds and access of a packet in a window (R334, R337, R356). -/
def accessOk (s : State) (g : Target) (p : Pkt) : Bool :=
  let n := if isRead p then p.len else p.data.length
  match g with
  | .control _ =>
    match p.op with
    | .write => decide (p.va + n ≤ 0x4000)
    | .read => decide (0x10000 ≤ p.va ∧ p.va + n ≤ 0x20000)
    | _ => false
  | .handshake _ _ => p.op == .writeImm
  | .landing _ _ => decide (p.va + n ≤ (targetJoists s g).length * (targetExtent s g).2)
  | .slice t w =>
    decide (p.va + n ≤ (targetJoists s g).length * (targetExtent s g).2)
      && (match s.sliceWin t w, p.op with
        | some x, .write => x.canWrite
        | some x, .read => x.canRead
        | _, _ => false)

/-- The runs of n bytes from address a of a window of extent z on each joist: bay joist index, offset, length (R337). -/
def windowRuns (z : Nat) : Nat → Nat → Nat → List (Nat × Nat × Nat)
  | 0, _, _ => []
  | fuel + 1, a, n =>
    if n = 0 ∨ z = 0 then []
    else
      let k := min n (z - a % z)
      (a / z, a % z, k) :: windowRuns z fuel (a + k) (n - k)

/-! ### Seals (R407, R409 to R411, R479) -/

/-- The generations that a receiver accepts: the current one, the next, and the previous while it is kept. -/
def genOk (q : Qp) (g : Nat) : Bool :=
  decide (g = q.rxGen ∨ g = (q.rxGen + 1) % 256) || decide (g = (q.rxGen + 255) % 256 ∧ mget 0 q.rxCount g ≠ 0)

/-- The receive key of a generation (R411). -/
def keyAt (q : Qp) (g : Nat) : BitVec 256 :=
  if g = q.rxGen then q.rxKey else if g = (q.rxGen + 1) % 256 then nextKey q.rxKey else q.rxOld
/-- The BTH opcode of a received packet (R409). -/
def bthOpcode (p : Pkt) : Nat :=
  match p.op with
  | .write => if p.first then (if p.last then 0x0A else 0x06) else if p.last then 0x08 else 0x07
  | .writeImm => if p.first then 0x0B else 0x09
  | .read => 0x0C
  | .send => 0x04
  | .other => 0xFF
def rxHead (p : Pkt) : List Byte := sealHead p.keyGen p.scribe p.counter
def rxNonce (q : Qp) (p : Pkt) : List Byte := pktNonce q.remote (rxHead p)
/-- The tag that a packet's seal must carry (R409). -/
def rxTag (q : Qp) (p : Pkt) : BitVec 128 :=
  gcmTag (keyAt q p.keyGen) (rxNonce q p)
    (pktAad (rxHead p) (bthOpcode p) (p.qpn % 2 ^ 24) (if p.op = .send then 0 else p.va) (if p.op = .writeImm then p.imm else 0)) p.data
/-- A packet with its data opened. -/
def openPkt (q : Qp) (p : Pkt) : Pkt :=
  if q.isSealed && !isRead p then { p with data := gcm (keyAt q p.keyGen) (rxNonce q p) p.data } else p

/-- The seal of a packet verifies and its COUNTER is fresh (R410); READ requests and unsealed traffic carry none (R412). -/
def sealPasses (q : Qp) (p : Pkt) : Bool :=
  !q.isSealed || isRead p || (decide (p.tag = rxTag q p) && genOk q p.keyGen && decide (mget 0 q.rxCount p.keyGen ≤ p.counter))

/-- The accepted COUNTER is kept; acceptance at the next generation drops the previous one (R410, R411). -/
def acceptSeal (p : Pkt) (q : Qp) : Qp :=
  if !q.isSealed ∨ isRead p then q
  else
    let q := if p.keyGen = q.rxGen ∨ p.keyGen = (q.rxGen + 255) % 256 then q
      else { q with rxGen := p.keyGen, rxCount := mset 0 q.rxCount ((q.rxGen + 255) % 256) 0
                    rxOld := q.rxKey, rxKey := nextKey q.rxKey }
    { q with rxCount := mset 0 q.rxCount p.keyGen (p.counter + 1) }

/-- The binding of a peer queue pair. -/
def bindingOf (s : State) (q : Qp) : Option Job := q.peer.bind (fun p => s.job p.1)
def inScribeMode (s : State) (q : Qp) : Bool := ((bindingOf s q).map (fun j => j.scribeMode)).getD false

/-- The bents of a window whose scribe epoch refuses a packet, or all of them where its SCRIBE is not the binding's
(R479). -/
def staleBents (s : State) (q : Qp) (p : Pkt) (bents : List Nat) : List Nat :=
  match bindingOf s q with
  | some j =>
    if !j.scribeMode then []
    else if p.scribe ≠ j.epoch % 65536 then bents
    else bents.filter (fun b => decide (j.epoch ≤ (s.bent b).scribeEpoch))
  | none => []

def countStale (bents : List Nat) (s : State) : State :=
  bents.foldl (fun s b => s.setBent b (fun x => { x with stale := x.stale + 1 })) s

/-! ### Tally: the receiving side (R342, R344, R346) -/

/-- The cells that a peer's packets hold now. -/
def cellsHeld (s : State) (key : Nat) : Nat :=
  (s.net.rx.filter (fun r => (pktKey r.pkt) = key)).foldl (fun n r => n + r.cells) 0
def grantOf (s : State) (q : Qp) : Nat :=
  ((bindingOf s q).bind (fun j => q.peer.bind (fun p => j.peers[p.2]?))).map (fun p => p.entry.grant) |>.getD 65536

def setPeer (t k : Nat) (f : Peer → Peer) (s : State) : State :=
  match s.job t with
  | none => s
  | some j => s.putJob t (some { j with peers := j.peers.modify k f })
def peerAt (s : State) (t k : Nat) : Option Peer := (s.job t).bind (fun j => j.peers[k]?)

/-- SCRIBE of the packets to a peer: the low 16 bits of its JOB_EPOCH, in scribe mode (R407, R479). -/
def scribeFor (j : Job) (p : Peer) : Nat := if j.scribeMode then p.peerEpoch % 65536 else 0

/-- A tally return to a peer, once its port is up (R344): the cells freed since JOB_BIND. -/
def sendReturn (t k : Nat) (s : State) : State :=
  match s.job t, peerAt s t k with
  | some j, some p =>
    if !portUp s p.entry.port then s
    else transmit { qpn := p.qpn, psn := 0, port := p.entry.port, size := 40, isReturn := true, device := true, scribe := scribeFor j p
                    data := fieldBytes 16 [(0, 8, p.freed), (8, 4, j.epoch)] }
      (setPeer t k (fun p => { p with freedReturned := p.freed }) s)
  | _, _ => s
/-- The returns to the peers of a port whose cells have been freed since their last one. -/
def sendReturns (port : Nat) (s : State) : State :=
  (present s.net.jobs).foldl (fun s e => (List.range e.2.peers.length).foldl (fun s k =>
    if ((peerAt s e.1 k).map (fun p => decide (p.entry.port = port ∧ p.freedReturned < p.freed))).getD false then sendReturn e.1 k s
    else s) s) s

/-- Frees cells for a peer; 64 freed since the last return send one. -/
def freeCells (q : Qp) (n : Nat) (s : State) : State :=
  match q.peer with
  | none => s
  | some (t, k) =>
    if n = 0 then s
    else
      let s := setPeer t k (fun p => { p with freed := p.freed + n }) s
      match peerAt s t k with
      | some p => if 64 ≤ p.freed - p.freedReturned then sendReturn t k s else s
      | none => s

/-- A partition reset discards the peer packets bound for its bents: their cells return at once and their PSNs are expected
again (R330, R346). -/
def discardRx (bents : List Nat) (s : State) : State :=
  let gone := s.net.rx.filter (fun r => r.bents.any bents.contains)
  let s := s.onNet (fun n => { n with rx := n.rx.filter (fun r => !r.bents.any bents.contains) })
  let s := gone.reverse.foldl (fun (s : State) (r : RxPkt) =>
    if r.acked then s else s.setQp (pktKey r.pkt) (fun q => { q with rxPsn := r.pkt.psn })) s
  let s := gone.foldl (fun (s : State) (r : RxPkt) =>
    match (s.qp (pktKey r.pkt)).bind (fun q => q.peer) with
    | some p => if r.acked then s else setPeer p.1 p.2 (fun x => { x with freed := x.freed + r.cells }) s
    | none => s) s
  ((gone.filterMap (fun r => (s.qp (pktKey r.pkt)).bind (fun q => q.peer))).eraseDups).foldl (fun s p => sendReturn p.1 p.2 s) s

/-! ### The host pool and flow control (R339, R347, R348) -/

/-- The shared remainder of the host pool in bytes: 40 MiB less the tally pool and 2.25 MiB for each priority under flow
control. -/
def hostPool (s : State) : Nat :=
  40 * 2 ^ 20 - settingNum s 0 0 1 * 2 ^ 20 - (pfcDistinct s []).length * (12 * 196608)
def isHostRx (s : State) (r : RxPkt) : Bool := ((s.qp (pktKey r.pkt)).bind (fun q => q.peer)).isNone
/-- Bytes that a received packet holds in the host pool until it is delivered. -/
def rxBytes (r : RxPkt) : Nat := if isRead r.pkt ∨ r.acked then 0 else r.pkt.data.length
def hostUsed (s : State) : Nat :=
  (s.net.rx.filter (fun r => isHostRx s r && !r.headroom)).foldl (fun n r => n + rxBytes r) 0
def prioUsed (s : State) (port prio : Nat) : Nat :=
  (s.net.rx.filter (fun r => isHostRx s r && decide (r.pkt.port = port ∧ r.pkt.priority = prio))).foldl
    (fun n r => n + rxBytes r) 0
def headUsed (s : State) (port prio : Nat) : Nat :=
  (s.net.rx.filter (fun r => isHostRx s r && r.headroom && decide (r.pkt.port = port ∧ r.pkt.priority = prio))).foldl
    (fun n r => n + rxBytes r) 0
def pfcOn (s : State) (port prio : Nat) : Bool := (pfcPrios (settingOf s 2 port 7)).contains prio

/-- Where a host packet of n bytes finds space: none, the shared remainder (false) or its headroom (true). -/
def hostSpace (s : State) (port prio n : Nat) : Option Bool :=
  if hostUsed s + n ≤ hostPool s then some false
  else if pfcOn s port prio ∧ headUsed s port prio + n ≤ 196608 then some true
  else none

/-- XOFF for a port's enabled priorities whose threshold is passed. -/
def xoffPort (port : Nat) (s : State) : State :=
  (pfcPrios (settingOf s 2 port 7)).foldl (fun s k =>
    if (s.port port).xoffSent.contains k then s
    else if 3 * hostPool s < 4 * hostUsed s ∨ 524288 < prioUsed s port k then
      frameOut port [(0x168, 1)] (.xoff port k) (s.setPort port (fun x => { x with xoffSent := x.xoffSent ++ [k] }))
    else s) s
/-- XOFF on every port that one of the thresholds concerns. -/
def checkXoff (s : State) : State := (portsOf s).foldl (fun s port => xoffPort port s) s
/-- XON for the priorities that may resume. -/
def checkXon (s : State) : State :=
  (portsOf s).foldl (fun s port => (s.port port).xoffSent.foldl (fun s k =>
    if 2 * hostUsed s < hostPool s ∧ prioUsed s port k < 262144 then
      sendFrame port (.xon port k) (s.setPort port (fun x => { x with xoffSent := x.xoffSent.filter (fun y => y ≠ k) }))
    else s) s) s

/-! ### Exchange data: the sending side (R340, R343, R381) -/

/-- Credits of a peer do not cover a packet (R342, R343). -/
def lacksCredits (p : Peer) (x : TxPkt) : Bool := decide (p.entry.grant < (p.sent - p.returned) + cellCost x.size)

/-- Sends a peer's held packets in order while credits and the store allow. -/
def sendHeld (t k : Nat) : Nat → State → State
  | 0, s => s
  | n + 1, s =>
    match peerAt s t k with
    | none => s
    | some p =>
      match p.heldPkts with
      | [] => s
      | x :: rest =>
        if lacksCredits p x || mustWait s x then s
        else sendHeld t k n (transmit x (setPeer t k (fun p =>
          { p with heldPkts := rest, sent := p.sent + cellCost x.size, counted := p.counted - 1 }) s))

/-- The packets of a peer that wait behind one for which credits lack: each counts once as held, and makes its step's bound void (R311,
R343, R355). -/
def noteHeld (t k : Nat) (s : State) : State :=
  match peerAt s t k with
  | none => s
  | some p =>
    let short := (p.heldPkts.head?.map (lacksCredits p)).getD false
    if !short then setPeer t k (fun p => { p with stalled := false }) s
    else
      let steps := (p.heldPkts.drop p.counted).filterMap (fun x => x.step)
      let s := setPeer t k (fun p => { p with
        stalled := true, waits := p.waits + (p.heldPkts.length - p.counted), counted := p.heldPkts.length }) s
      s.onJig (fun j => { j with steps := j.steps.map (fun x => if steps.any (fun e => e.1 = x.bay ∧ e.2.1 = x.id) then x.voided 7 else x) })

def flushPeer (t k n : Nat) (s : State) : State := noteHeld t k (sendHeld t k n s)

/-- Puts packets into a peer's sending order and sends what credits and the store allow; whether some have to wait (R343). -/
def sendToPeer (t k : Nat) (l : List TxPkt) (s : State) : State × Bool :=
  let before := ((peerAt s t k).map (fun p => p.heldPkts.length)).getD 0
  let s := flushPeer t k (before + l.length) (setPeer t k (fun p => { p with heldPkts := p.heldPkts ++ l }) s)
  (s, decide (0 < ((peerAt s t k).map (fun p => p.heldPkts.length)).getD 0))

/-- The R_Key that names a peer's landing window (R574). -/
def peerKey (bay w : Nat) : Nat := 2 ^ 28 + bay % 64 * 2 ^ 16 + w / 4 % 4 * 2 ^ 22 + w % 4 * 2 ^ 14

/-- The packets that carry data to an address of a peer's window: 4,072 bytes each, the last with an immediate (R313,
R381). -/
def peerPackets (p : Peer) (scribe bay w va : Nat) (imm : Option Nat) (step : Nat × Nat × Nat) : Nat → List Byte → List TxPkt
  | 0, _ => []
  | n + 1, data =>
    let x : TxPkt := { qpn := p.qpn, psn := 0, port := p.entry.port, rkey := peerKey bay w, va := va, data := data.take 4072,
                       size := min data.length 4072 + 24, scribe := scribe, step := some step }
    if data.length ≤ 4072 then [{ x with imm := imm }]
    else x :: peerPackets p scribe bay w (va + 4072) imm step n (data.drop 4072)

/-- The status of a queue pair in error toward a peer (R480). -/
def peerStatus (s : State) (t : Nat) (q : Option Qp) : Status :=
  match q with
  | none => .topology
  | some q => if q.err = .topology then .topology else if ((s.job t).map (fun j => j.scribeMode)).getD false then .scribeStale
      else .peerFenced

/-- The queue pair of a peer entry that carries traffic, or the status that ends an exchange at once (R381, R480). -/
def peerReady (s : State) (t k : Nat) : Except Status (Job × Peer) :=
  match s.job t, peerAt s t k with
  | some j, some p =>
    match s.qp p.qpn with
    | some q => if q.err = .none then .ok (j, p) else .error (peerStatus s t (some q))
    | none => .error .topology
  | _, _ => .error .topology

end Sys2Proof.Machine
end

