-- ==== Sys2Proof/Machine/ScrubRemap.lean ====
section
/-! DEFINITION. Refresh (R164 to R168), the scrub plane (R226 to R228), write-backs of corrected words (R218), the candidate
table (R230) and row remaps (R229 to R235). -/

namespace Sys2Proof.Machine

/-! ### Refresh -/

/-- The bank is one of a populated lamination whose bent is refreshed. -/
def bankRefreshed (s : State) (joist bank : Nat) : Bool :=
  decide (keyBent joist < 4 ∧ bank < bankCount s) && (s.bent (keyBent joist)).refreshOn

/-- One refresh command issues. -/
def issueRefresh (r : BankRefresh) : BankRefresh := refreshes 1 r

/-- A refresh falls due (R165, R166): it waits, the one before it is postponed, or it is forced. -/
def fallDue (r : BankRefresh) : BankRefresh :=
  if 4 ≤ r.postponed then issueRefresh r
  else if r.due then { r with postponed := r.postponed + 1 }
  else { r with due := true }

/-- POSTPONE_PEAK and FORCED follow (R169). -/
def noteDue (r : BankRefresh) (x : Bent) : Bent :=
  if 4 ≤ r.postponed then { x with forced := sat 0xFFFF (x.forced + 1) }
  else if r.due then { x with postponePeak := max x.postponePeak (r.postponed + 1) }
  else x

def execRefreshDue (joist bank : Nat) (s : State) : Host.Outcome State Fault Refusal :=
  if bankRefreshed s joist bank then
    let r := s.refresh joist bank
    let s := (s.setRefresh joist bank fallDue).setBent (keyBent joist) (noteDue r)
    .next (if 4 ≤ r.postponed then voidBank 5 joist bank s else s)
  else .next s

/-- One refresh that waits issues: the one that is due, else a postponed one. -/
def issueWaiting (r : BankRefresh) : BankRefresh :=
  if r.due then issueRefresh { r with due := false }
  else if 0 < r.postponed then issueRefresh { r with postponed := r.postponed - 1 }
  else r

/-- No peg segment has started in the bank, and none is pending there: what ranks below them may go (R156, R165). -/
def bankIdle (s : State) (joist bank : Nat) : Bool :=
  let p := s.peg joist bank
  !p.busy && !p.inSegment && !p.held

def execRefreshIssue (joist bank : Nat) (s : State) : Host.Outcome State Fault Refusal :=
  if bankRefreshed s joist bank && bankIdle s joist bank then .next (s.setRefresh joist bank issueWaiting)
  else .next s

/-! ### The scrub plane -/

/-- The row position of a scrub pointer in the form of R224: a data row through the remap table, or a spare row. -/
def scrubRow (s : State) (joist bank p : Nat) : Nat :=
  if p < 512 then rowForm s joist bank p
  else
    8192 + 512 * (p - 512) + ((s.kp.remaps.find? (fun r =>
      r.joist = joist ∧ r.bank = bank ∧ r.spare = p - 512 ∧ r.isDone)).map (fun r => r.row)).getD 0

/-- Codewords of a row position that already carry a mark, as poison reads of a source: through its data row, or in a spare row
that holds no remap. -/
def rowPoison (s : State) (joist bank row src : Nat) : List Finding :=
  match dataRow s joist bank row with
  | some d => (poisonReads s true joist (rowAddr bank d 0) 512 src).map (fun f => { f with row := row })
  | none => s.mem.hiddenMark.filterMap (fun e =>
      if e.2 ≠ 0 ∧ e.1 / 64 = placeKey joist bank (512 + spareIx row) then
        some { joist := joist, unit := bank, row := row, cw := e.1 % 64, kind := .ue, src := src }
      else none)

/-- Every uncorrectable codeword of a row position is written back with the poison marker. -/
def poisonRow (joist bank row : Nat) (s : State) : State :=
  let mark (u : Nat) (m : NMap Nat) : NMap Nat := m.map (fun e => if u ≤ e.1 ∧ e.1 < u + 64 then (e.1, 2) else e)
  match dataRow s joist bank row with
  | some d => s.onMem (fun m => { m with sliceMark := mark (memKey true joist (rowAddr bank d 0) / 8) m.sliceMark })
  | none => s.onMem (fun m => { m with hiddenMark := mark (placeKey joist bank (512 + spareIx row) * 64) m.hiddenMark })

/-- A visit writes the codewords that it has corrected: their queued write-backs are dropped (R217). -/
def dropQueued (l : List Finding) (s : State) : State :=
  s.onMem (fun m => { m with ce2Queue := m.ce2Queue.filter (fun u => !l.any (fun f => decide (f.unit < 24 ∧ markKey f = u))) })

/-- The lowest joist in use of a bent, whose bank 0 times the passes of the bent (DEDUCED, log entry 40). -/
def leadJoist (s : State) (b : Nat) : Option Nat := lowestFree (fun j => !(unusable s).contains j) (b * 1344) 1344

/-- A visit of one row, behind a peg segment that has started (R156): what it finds is met, and the pointer moves on. -/
def scrubVisit (joist bank : Nat) (found : List Finding) (s : State) : State :=
  let p := mget 0 s.ecc.scrub (joist * 32 + bank)
  let row := scrubRow s joist bank p
  let fresh := found.map (fun f => classed s { f with joist := joist, unit := bank, row := row, src := 4 })
  let old := (rowPoison s joist bank row 4).filter (fun f => !fresh.any (fun g => g.cw = f.cw))
  let s := dropQueued fresh (meetAll (old ++ fresh) s)
  let s := if (old ++ fresh).any (fun f => f.kind != .ce1) then voidBank 4 joist bank s else s
  let s := poisonRow joist bank row s
  let s := s.onEcc (fun x => { x with scrub := mset 0 x.scrub (joist * 32 + bank) ((p + 1) % 528) })
  if p = 527 ∧ bank = 0 ∧ leadJoist s (keyBent joist) = some joist then
    s.setBent (keyBent joist) (fun x => { x with passes := sat 0xFFFF (x.passes + 1) })
  else s

def execScrubVisit (joist bank : Nat) (found : List Finding) (s : State) : Host.Outcome State Fault Refusal :=
  if bankRefreshed s joist bank && decide (0 < (s.bent (keyBent joist)).rate) && bankIdle s joist bank then
    .next (scrubVisit joist bank found s)
  else .next s

/-! ### Corrected words and candidates -/

def execSramCe1Writeback (joist unit word : Nat) (s : State) : Host.Outcome State Fault Refusal :=
  .next (s.onEcc (fun x => { x with writebacks := x.writebacks.erase (joist, unit, word) }))

/-- The oldest candidates of a bent leave its table (R230). -/
def expireOldest (l : List Candidate) : List Candidate :=
  match l with
  | [] => []
  | c :: cs => let t := cs.foldl (fun t x => min t x.time) c.time; l.filter (fun x => x.time ≠ t)

def execCe2CandidateExpiry (bent : Nat) (s : State) : Host.Outcome State Fault Refusal :=
  onBent bent (fun s => s.onEcc (fun x =>
    { x with candidates := mset [] x.candidates bent (expireOldest (mget [] x.candidates bent)) })) s

/-! ### Remaps -/

/-- The keeper's temperature permits MRAM writes again: step 1 or step 4 of every remap that waits is recorded (R232). -/
def execRemapMramRetry (s : State) : Host.Outcome State Fault Refusal :=
  if mramOpen s then
    .next (s.onKp (fun k => { k with remaps := k.remaps.map (fun r => if r.unwritten then r.recorded s else r) }))
  else .next s

/-- The physical row that holds a data row before a remap is done. -/
def sourcePlace (s : State) (r : Remap) : Nat :=
  placeKey r.joist r.bank (match s.kp.remaps.find? (fun x => x.joist = r.joist ∧ x.bank = r.bank ∧ x.row = r.row ∧ x.isDone) with
    | some x => 512 + x.spare
    | none => r.row)

/-- The switch of a row to its spare: the cells that it leaves keep what they held, and the spare's own are gone (R211, R233). -/
def switchRow (r : Remap) (s : State) : State :=
  let old := sourcePlace s r
  let new := placeKey r.joist r.bank (512 + r.spare)
  let base := memKey true r.joist (rowAddr r.bank r.row 0)
  s.onMem (fun m => { m with
    hidden := writeBytes (wipeRange (new * 512) 512 m.hidden) (old * 512) (readBytes m.slice base 512)
    hiddenMark := (List.range 64).foldl (fun h c => mset 0 h (old * 64 + c) (mget 0 m.sliceMark (base / 8 + c)))
      (wipeRange (new * 64) 64 m.hiddenMark)
    ce2Queue := m.ce2Queue.filter (fun u => !decide (base / 8 ≤ u ∧ u < base / 8 + 64)) })

/-- The copy of R233 and the switch, with the errors that its read meets: the row's cached lines are written back, what cannot be
corrected becomes poison, and DONE is set as soon as MRAM may be written. -/
def copyRow (r : Remap) (found : List Finding) (s : State) : State :=
  let row := rowForm s r.joist r.bank r.row
  let fresh := (found.filter (fun f => f.joist = r.joist ∧ f.unit = r.bank)).map (fun f => classed s { f with row := row, src := 5 })
  let s := s.onJoi (fun x => { x with cache := cacheDropRow r.joist r.bank r.row x.cache })
  let old := (rowPoison s r.joist r.bank row 5).filter (fun f => !fresh.any (fun g => g.cw = f.cw))
  let s := meetAll (old ++ fresh) (voidBank 4 r.joist r.bank s)
  let ue := !(rowPoison s r.joist r.bank row 5).isEmpty
  let s := poisonRow r.joist r.bank row (switchRow r s)
  let opn := mramOpen s
  let s := s.onKp (fun k => { k with remaps := k.remaps.filterMap (fun x =>
    if x.joist = r.joist ∧ x.bank = r.bank ∧ x.row = r.row then
      (if x.isDone then none
       else some { x with isDone := true, unwritten := !opn, atReset := false, hadUe := x.hadUe || ue })
    else some x) })
  logRemap 5 { joist := r.joist, unit := r.bank, row := 8192 + 512 * r.spare + r.row, cw := 0, kind := .ue, src := 5 } r.spare s

/-- The remap of a row that step 1 of R232 has recorded and no copy has run for. -/
def pendingRemap (s : State) (joist bank row : Nat) : Option Remap :=
  s.kp.remaps.find? (fun r => r.joist = joist ∧ r.bank = bank ∧ r.row = row ∧ r.isDone = false ∧ r.unwritten = false)

/-- A row that a sequence pins stays pending until the next reset of its controller (R232). -/
def leaveToReset (r : Remap) (s : State) : State :=
  s.onKp (fun k => { k with remaps := k.remaps.map (fun x => if x = r then { x with atReset := true } else x) })

/-- The due refresh of the boundary, and then the copy (R233). -/
def copyAtBoundary (r : Remap) (found : List Finding) (s : State) : State :=
  copyRow r found (s.setRefresh r.joist r.bank (fun x => if x.due then issueRefresh { x with due := false } else x))

/-- The slice controller of a bent is under reset: its pegs have stopped and its laminations are in self-refresh, until pending copies have
run (R234). -/
def controllerReset (s : State) (b : Nat) : Bool :=
  s.pwr.resets.any (fun r => r.bents.contains b && decide (3 ≤ r.phase ∧ r.phase ≤ 6)) || (s.kp.raising && decide (s.kp.stage = 6))

/-- A copy on the fly comes at a refresh interval boundary, behind a peg segment that has started in the bank and under the active
limit (R156, R209, R232, R233); during a reset of the controller it comes at once, with the errors that its read meets, and what no such
event has copied is copied before the slices open (R234). -/
def execRemapCopy (joist bank : Nat) (read : RowRead) (s : State) : Host.Outcome State Fault Refusal :=
  match pendingRemap s joist bank read.row with
  | none => .next s
  | some r =>
    if controllerReset s (keyBent joist) then .next (copyRow r read.found s)
    else if !bankRefreshed s joist bank || r.atReset then .next s
    else if rowPinned s joist bank read.row then .next (leaveToReset r s)
    else .next (ownSequence [(joist, bank)] (copyAtBoundary r read.found) s)

/-- The pending remaps of a list of bents are carried out during a reset (R234). -/
def runPending (bents : List Nat) (s : State) : State :=
  (s.kp.remaps.filter (fun r => !r.isDone && !r.unwritten && bents.contains (keyBent r.joist))).foldl (fun s r => copyRow r [] s) s

end Sys2Proof.Machine
end

