-- ==== Sys2Proof/Machine/Stages.lean ====
section
/-! DEFINITION. What the stages of a step share: which stage may start (R193, R195, R575), the stored-data errors that it
meets (R219, R311), datums and replays (R52, R54, R55), writing outputs (R154, R219, R417) and what a stage leaves for
STAGE_END. -/

namespace Sys2Proof.Machine

/-! ### The stage that starts -/

/-- A stage of a running step with what it works on: its joists, those of its stripe or of the whole bay, in bay joist index order
(R270). -/
structure Run where
  bay : Nat
  y : Bay
  img : Image
  x : Step
  g : Stage
  ix : Nat
  js : List Nat
  /-- errors that the stage's reads meet for the first time -/
  found : List Finding := []
  deriving DecidableEq, Repr

/-- A stage may run while another one does: the other is an overlapping PEG_SEQ that joins later (R195). -/
def overlapsPast (img : Image) (ix : Nat) (a : Active) : Bool :=
  match (img.stages[a.ix]?).map (fun (g : Stage) => g.work) with
  | some (.pegSeq d) => d.overlap && decide (ix < d.join)
  | _ => false

/-- Joists that the bay has when all of them serve (R237). -/
def fullCount (y : Bay) : Nat := (bayBents y).length * y.w * y.h

/-- The places of a bay that a stage runs on (R270). -/
def stagePlaces (s : State) (y : Bay) (w : StageWork) : List (Option Nat) :=
  match w.stripe with
  | some p => ((bayPlaces s y).drop p.first).take p.s
  | none => bayPlaces s y
/-- How many joists it needs. -/
def joistsNeeded (y : Bay) (w : StageWork) : Nat :=
  match w.stripe with
  | some p => p.s
  | none => fullCount y

/-- The stage that an event names, when it is the next of the bay's running step and nothing holds it. -/
def runOf (s : State) (ref : StageRef) : Option Run :=
  match s.bayOf ref.bay, runningStep s ref.bay with
  | some y, some x =>
    y.program.bind (fun img => (img.stages[ref.ix]?).bind (fun g =>
      if x.nextIx = ref.ix ∧ !x.stopping ∧ x.active.all (overlapsPast img ref.ix) then
        some { bay := ref.bay, y := y, img := img, x := x, g := g, ix := ref.ix, js := (stagePlaces s y g.work).filterMap id,
               found := ref.found.map (classed s) }
      else none))
  | _, _ => none

/-! ### Errors that a stage meets -/

/-- A read of one region of one joist. -/
abbrev ShareRead := Nat × Region

/-- Poison reads that a list of reads meets, as the requester sees them (R219, R221). -/
def poisonOf (r : Run) (s : State) (src : Bool → Nat) (l : List ShareRead) : List Finding :=
  ((l.flatMap (fun e => poisonReads s e.2.inSlice e.1 e.2.base e.2.len (src e.2.inSlice))).eraseDups).filter
    (fun f => !justFound r.found f)
/-- The port serves slice reads, the trusses and vector units their bench reads (R224). -/
def stageSrc (inSlice : Bool) : Nat := if inSlice then 0 else 6

/-- The regions that a stage reaches over the narrow path. -/
def narrowRegions (r : Run) : List Region := (r.g.map.paths.filter (fun p => p.2 == .narrow)).flatMap (fun p => tensorRegions r.img p.1)

/-- Poison reads of a stage's operands: over the narrow path, or as stageSrc says. -/
def stagePoison (r : Run) (s : State) (l : List ShareRead) : List Finding :=
  let narrow (e : ShareRead) : Bool := e.2.inSlice && (narrowRegions r).contains e.2
  poisonOf r s stageSrc (l.filter (fun e => !narrow e))
    ++ poisonOf r s (fun _ => 1) ((l.filter narrow).map (fun e => (e.1, e.2.narrowed)))

/-- A stage of a step meets errors: they are counted and logged, and the bound word takes note. -/
def meetStage (step : Nat) (l : List Finding) (s : State) : State :=
  let s := meetAll l s
  if l.any voids then setStep step (Step.voided 4) s else s

/-- The whole reads of a stage over a list of joists. -/
def shareReads (js : List Nat) (l : List Region) : List ShareRead := js.flatMap (fun j => l.map (fun r => (j, r)))

/-! ### Starting and finishing a stage -/

/-- BAY_PROGRESS shows the lowest stage that runs (R464, R368); between stages it keeps the last one. -/
def showStage (step bay : Nat) (s : State) : State :=
  match stepOf s step with
  | some x => s.setBay bay (fun y => { y with stage := (sortNat (x.active.map (fun a => a.ix))).headD y.stage })
  | none => s

/-- The stage runs: it is active, and the next in descriptor order may follow. -/
def enterStage (r : Run) (a : Active) (s : State) : State :=
  showStage r.x.id r.bay (setStep r.x.id (fun z => { z with nextIx := r.ix + 1, active := z.active ++ [a] }) s)

/-- A stage whose work has ended with a status and no result. -/
def Run.failed (r : Run) (st : Status) : Active := { ix := r.ix, status := st, summary := { datumFinal := r.g.num.datum } }

/-- A joist of the stage has left service, or an instruction fetch meets a UE: the stage fails (R21, R219). -/
def fetchFault (r : Run) (found : List Finding) : Bool :=
  decide (r.js.length ≠ joistsNeeded r.y r.g.work) || found.any (fun f => decide (f.unit = 0x29) && f.kind == .ue)

/-- The joists whose instruction fetch failed wait for their reload: the hub sends each the whole section (R219, R451). -/
def markReload (found : List Finding) (s : State) : State :=
  (found.filter (fun f => decide (f.unit = 0x29) && f.kind == .ue)).foldl (fun s f =>
    sendSection f.joist (s.setJoist f.joist (fun x => { x with needsReload := true, reloadRound := 0, ucode := 0 }))) s

/-- Findings that concern the stage's joists, or the hub. -/
def mine (r : Run) (found : List Finding) : List Finding :=
  found.filter (fun f => r.js.contains f.joist || f.joist == hubJoist)

/-- The STATS stage that observes stage ix. -/
def observer (img : Image) (ix : Nat) : Option StatsDesc :=
  match (img.stages[ix + 1]?).map (fun (g : Stage) => g.work) with
  | some (.stats d) => if d.source = 1 then some d else none
  | _ => none

/-- The capture counters of a list of joists start again. -/
def clearCapture (js : List Nat) (s : State) : State :=
  s.onJoi (fun x => { x with capture := x.capture.filter (fun e => !js.contains (e.1 / 32)) })

/-- An observed stage starts with the capture counters of every joist of the bay at zero (R139). -/
def startCapture (r : Run) (s : State) : State := if (observer r.img r.ix).isSome then clearCapture (bayJoists s r.y) s else s

/-- What a transfer's findings mean in the hub: an uncorrectable word of packet SRAM, of framer SRAM. -/
def hubUe (found : List Finding) (unit : Nat) : Bool := found.any (fun f => decide (f.joist = hubJoist ∧ f.unit = unit ∧ f.kind = .ue))
/-- Framer SRAM: the framer stops, and the device reports FAILED (R219, R487). -/
def framerStops (found : List Finding) (s : State) : State :=
  if hubUe found 0x32 then enterFailed 1 (s.onQci (fun q => { q with framerHalted := true })) else s

/-- The bay's hub DMA channel halts (R219, R220). -/
def haltBayDma (bay : Nat) (s : State) : State := s.setBay bay (fun y => { y with dmaHalted := true })

/-- A word of the hub's DMA buffers that cannot be corrected: a stage that sends through them fails, and its channel halts (R131, R138,
R219). -/
def dmaLost (found : List Finding) : Bool := hubUe found 0x31
def dmaFailed (r : Run) (s : State) : State × Active := (haltBayDma r.bay s, r.failed .dmaUe)

/-- What a stage does when it is its turn: the errors found are met, and the work gives the state and the record that STAGE_END
reads, unless the fetch of its instructions failed. -/
def runStage (r : Run) (f : State → State × Active) (s : State) : State :=
  let found := mine r r.found
  let s := meetStage r.x.id found (startCapture r s)
  if hubUe found 0x32 then framerStops found s
  else if fetchFault r found then enterStage r (r.failed .fetchUe) (markReload found s)
  else let t := f s; enterStage r t.2 t.1

/-- A stage command: nothing happens where the step's next stage is another one, or the work must wait. -/
def stageEvent (ref : StageRef) (work : Run → Option (State → State × Active)) (s : State) :
    Host.Outcome State Fault Refusal :=
  match runOf s ref with
  | none => .next s
  | some r =>
    match work r with
    | none => .next s
    | some f => .next (runStage r f s)

/-! ### Datums and replays -/

/-- The datum that group k opens at, raised by replays (R52). -/
def stageDatum (g : Stage) (raise : Int) (k : Nat) : Int :=
  (match g.datumTab with | some l => l.getD k g.num.datum | none => g.num.datum) + raise

/-- The position of element i of joist jx's share in the logical tensor of the stage's result (R71), as the layout map gives it; where it
gives none, the shares follow one another. -/
def logicalIx (g : Stage) (jx share i : Nat) : Nat :=
  match g.map.starts[jx]? with
  | some b => (b + (if g.map.cols = 0 then i else i / g.map.cols * g.map.rowLen + i % g.map.cols)) % 2 ^ 48
  | none => (jx * share + i) % 2 ^ 48

/-- Every datum may be raised by 16 more (R55). -/
def mayRaise (g : Stage) (raise : Int) : Bool :=
  decide (g.num.datum + raise + 16 ≤ 511) && (g.datumTab.getD []).all (fun d => decide (d + raise + 16 ≤ 511))

/-- Runs a stage's work, and runs it again with datums raised while DATUM_OVF asks for it and they may be raised (R54 to
R57). -/
def runReplays (r : Run) (may : Int → Bool) (go : Int → State → State × Summary) (s : State) : Nat → Int → State × Active
  | 0, raise =>
    let t := go raise s
    (t.1, { ix := r.ix, status := t.2.status, summary := t.2, replays := 2, raise := raise })
  | n + 1, raise =>
    let t := go raise s
    if t.2.ovf && r.g.num.replay && may raise then runReplays r may go s n (raise + 16)
    else (t.1, { ix := r.ix, status := t.2.status, summary := t.2, replays := 1 - n, raise := raise })

/-- A replay that ran makes the bound void (R311). -/
def noteReplays (r : Run) (t : State × Active) : State × Active :=
  if 0 < t.2.replays then (setStep r.x.id (Step.voided 2) t.1, t.2) else t

/-- The run with its replays, from the first. -/
def replayed (r : Run) (may : Int → Bool) (go : Int → State → State × Summary) (s : State) : State × Active :=
  noteReplays r (runReplays r may go s 2 0)

/-! ### Observed stages (R139) -/

/-- The histogram bin of an exponent (R141). -/
def histBin (base e : Int) : Nat := if e ≤ base then 0 else if base + 15 ≤ e then 15 else (e - base).toNat

/-- Adds to a capture counter. -/
def capAdd (j item n : Nat) (s : State) : State :=
  s.onJoi (fun x => { x with capture := mmod 0 x.capture (j * 32 + item) (· + n) })
/-- Raises a capture maximum. -/
def capMax (j item n : Nat) (s : State) : State :=
  s.onJoi (fun x => { x with capture := mmod 0 x.capture (j * 32 + item) (max n) })

/-- One group close of an observed stage: bins 0 to 15, the largest AMAX_EXP plus 1,024, discards, DATUM_OVF, CONV_SAT, NaN
or poison, closes. -/
def captureClose (d : StatsDesc) (j : Nat) (g : Group) (s : State) : State :=
  let s := match g.amax with
    | some e => capMax j 16 (e + 1024).toNat (capAdd j (histBin d.histBase e) 1 s)
    | none => s
  capAdd j 21 1 (capAdd j 20 (bit 0 g.flagged) (capAdd j 19 (bit 0 g.convSat) (capAdd j 18 (bit 0 g.overflowed)
    (capAdd j 17 g.discard s))))

/-- The closes of one run of an observed stage. -/
def captureRun (r : Run) (closed : List (Nat × Group)) (s : State) : State :=
  match observer r.img r.ix with
  | none => s
  | some d => closed.foldl (fun s e => captureClose d e.1 e.2 s) (clearCapture r.js s)

/-! ### Writing outputs -/

/-- Slice codewords that hold an uncorrectable value and that a write of a share covers in part (R154). -/
def partBad (s : State) (t : Tensor) (j b : Nat) (data : List Byte) : List Finding :=
  if !t.inSlice then []
  else (extentRuns t.extents b data).flatMap (fun e =>
    let k := memKey true j e.1
    s.mem.sliceMark.filterMap (fun m =>
      if m.2 ≠ 0 ∧ k / 8 ≤ m.1 ∧ m.1 ≤ (k + e.2.length - 1) / 8 ∧ 0 < e.2.length
          ∧ ¬(k ≤ 8 * m.1 ∧ 8 * m.1 + 8 ≤ k + e.2.length) then
        let c := decodeSA (m.1 * 8 % 2 ^ 23)
        some { joist := j, unit := c.bankIx, row := rowForm s j c.bankIx c.row, cw := c.cw, kind := .ue, src := 0 }
      else none))

/-- A write made for the bay's tenancy into a slice (R417). -/
def stampJoist (t : Nat) (inSlice : Bool) (j : Nat) (s : State) : State :=
  if inSlice then s.setJoist j (fun x => { x with touchedBy := some t }) else s

/-- The uncorrectable units that a stage's store of n bytes of a share merges with are met, once each (R154, R219, R221). -/
def meetMerges (r : Run) (ti j n : Nat) (s : State) : State × Bool :=
  let bad := (partBad s (tensorAt r.img ti) j 0 (List.replicate n 0)).eraseDups
  (meetStage r.x.id (bad.filter (fun f => !justFound r.found f)) s, decide (bad ≠ []))
/-- Writes bytes of a share whose merges have been met. -/
def placeShare (r : Run) (ti j b : Nat) (data : List Byte) (poison : Bool) (s : State) : State :=
  let t := tensorAt r.img ti
  stampJoist r.y.tenancy t.inSlice j (s.onMem (tensorWrite t j b data poison))

/-- Writes bytes of a tensor's share for a stage; whether a merge met an uncorrectable codeword (R154, R219). -/
def storeShare (r : Run) (ti j b : Nat) (data : List Byte) (poison : Bool) (s : State) : State × Bool :=
  let t := tensorAt r.img ti
  let bad := partBad s t j b data
  let s := meetStage r.x.id (bad.filter (fun f => !justFound r.found f)) s
  (stampJoist r.y.tenancy t.inSlice j (s.onMem (tensorWrite t j b data poison)), decide (bad ≠ []))

/-- The units that the first n bytes of a share cover whole: a stage that writes them all leaves no old mark (R154). -/
def freshShare (t : Tensor) (j n : Nat) (m : Mem) : Mem :=
  (extentRuns t.extents 0 (List.replicate n 0)).foldl (fun m e =>
    let k := memKey t.inSlice j e.1
    let keep (u : Nat) : Bool := !(decide (k ≤ 8 * u ∧ 8 * u + 8 ≤ k + e.2.length))
    if t.inSlice then { m with sliceMark := mkeep keep m.sliceMark } else { m with benchMark := mkeep keep m.benchMark }) m

/-- A stage is about to write the first n elements of a tensor, and their scales, on every joist. -/
def freshOut (r : Run) (ti n : Nat) (s : State) : State :=
  let t := tensorAt r.img ti
  s.onMem (fun m => r.js.foldl (fun m j =>
    let m := freshShare t j (fmtBytes t.fmt n) m
    match t.scales with
    | some k => freshShare (tensorAt r.img k) j ((n + 31) / 32) m
    | none => m) m)

/-- Writes bytes of every joist's bench at an offset. -/
def storeBench (j a : Nat) (data : List Byte) (poison : Bool) (s : State) : State := s.onMem (writeMem false j a data poison)

/-- Scalar codes of a tensor from element i on. -/
def storeCodes (r : Run) (ti j i : Nat) (codes : List Nat) (poison : Bool) (s : State) : State × Bool :=
  let n := (tensorAt r.img ti).fmt.bits / 8
  storeShare r ti j (i * n) (codes.flatMap (leBytes n)) poison s

/-- Block k of an MX tensor: its elements and its scale byte; a poisoned block has poisoned elements and the scale code
0xFF (R206). -/
def storeBlock (r : Run) (ti j k scale : Nat) (codes : List Nat) (poison : Bool) (s : State) : State × Bool :=
  let t := tensorAt r.img ti
  let n := 4 * t.fmt.bits
  let e := storeShare r ti j (k * n) (leBytes n (packCodes t.fmt.bits codes)) poison s
  let c := storeShare r (t.scales.getD r.img.tensors.length) j k (leBytes 1 (if poison then 255 else scale)) false e.1
  (c.1, e.2 || c.2)

/-- The path that a stage takes to a tensor: the one that its layout map names, or the operation's own. -/
def pathTo (g : Stage) (ti : Nat) (own : PortPath) : PortPath := ((g.map.paths.find? (fun p => p.1 = ti)).map (fun p => p.2)).getD own

/-- The lines of a tensor and of its scale plane that pass through the slice cache of every joist, each on its path. -/
def cacheLines (path : Nat → PortPath) (isWrite : Bool) (r : Run) (ti : Nat) (s : State) : State :=
  let planes := ti :: (tensorAt r.img ti).scales.toList
  s.onJoi (fun x => { x with cache := r.js.foldl (fun l j =>
    planes.foldl (fun l k => cacheTensor (path k) isWrite (tensorAt r.img k) j l) l) x.cache })

/-- A tensor's lines on the path that the layout map names for it; its scale plane takes the same one unless the map names its own. -/
def throughCache (own : PortPath) (isWrite : Bool) (r : Run) (ti : Nat) (s : State) : State :=
  cacheLines (fun k => pathTo r.g k (pathTo r.g ti own)) isWrite r ti s

/-- TRUSS_HOLD counts holds whose number depends on timing that the model leaves out: a free value (R101). -/
def holdTrusses (js : List Nat) (s : State) : State :=
  let n := drawNo s
  spend (2 * js.length) ((js.mapIdx (fun k j => (k, j))).foldl (fun s e => s.setJoist e.2 (fun x =>
    { x with feedHold := sat 0xFFFF (x.feedHold + Config.freeNat (n + 2 * e.1))
             drainHold := sat 0xFFFF (x.drainHold + Config.freeNat (n + 2 * e.1 + 1)) })) s)

/-- A vector stage leaves the vector registers of its joists open (DESIGN CHOICE, log entry 9). -/
def useVectors (js : List Nat) (s : State) : State :=
  let n := drawNo s + 1
  spend 1 (js.foldl (fun s j => s.setJoist j (fun x => { x with vregs := n })) s)

end Sys2Proof.Machine
end

