-- ==== Sys2Proof/Machine/Trusses.lean ====
section
/-! DEFINITION. The trusses of a joist: products and block sums (R43 to R45, R86 to R88), half-block buffers (R90), tiles and their
shadows (R95), what they add to the groups (R92, R93), and the close buffer (R94). -/

namespace Sys2Proof.Machine

/-! ### Contributions -/

/-- Several products of one cycle: each is rounded to the datum on its own, and their exact sum is added (R43, R47, R88). A poisoned
product adds nothing but its flag, and NAN_SEEN where a valid operand of it is a NaN (R73, R74). -/
def contributeSum (g : Group) (i : Nat) (l : List (Bool × Val)) : Group :=
  let r := l.foldl (fun (a : Group × Int × Bool) p =>
    match p.1, p.2 with
    | true, .num _ => ({ a.1 with poison := true }, a.2)
    | true, _ => ({ a.1 with poison := true, nan := true }, a.2)
    | false, .num d =>
      if d.m = 0 then a
      else
        let n := accSat (roundTo .rne 0 d a.1.datum)
        ({ a.1 with discard := if n.1 = 0 then sat 0xFFFF (a.1.discard + 1) else a.1.discard
                    amax := amaxOf a.1.amax (some d.exp) }, a.2.1 + n.1, a.2.2 || n.2)
    | false, _ => ({ a.1 with nan := true }, a.2)) (g, 0, false)
  r.1.addUnits i r.2.1 r.2.2

/-- A product of two decoded operands; NaNs and infinities give a NaN (R73). -/
def prodVal (a b : Val) : Val :=
  match a, b with
  | .num x, .num y => .num (x.mul y)
  | _, _ => .nan
/-- The exact sum of two partial sums. -/
def sumVal (a b : Val) : Val :=
  match a, b with
  | .num x, .num y => .num (x.add y)
  | _, _ => .nan

/-- The exact sum of the products of one block pair, or of half of one (R43, R44). -/
def blockDot (a b : List Operand) : Bool × Val :=
  (a.any (fun o => o.bad) || b.any (fun o => o.bad),
    (a.zip b).foldl (fun acc p => sumVal acc (prodVal p.1.val p.2.val)) (.num ⟨0, 0⟩))

/-- The two halves of a block combined (R90). -/
def combine (a b : Bool × Val) : Bool × Val := (a.1 || b.1, sumVal a.2 b.2)

/-- The four cycles in which sixteen BF16 elements pass a truss: element 4r + j in cycle j (R88). -/
def quads (a b : List Operand) : List (List (Bool × Val)) :=
  (List.range 4).map (fun j => (List.range 4).filterMap (fun r =>
    match a[4 * r + j]?, b[4 * r + j]? with
    | some x, some y => some (x.bad || y.bad, prodVal x.val y.val)
    | _, _ => none))

/-- The contributions of one run of operands: one block sum, or the products of sixteen BF16 elements. -/
def runSteps (mx : Bool) (a b : List Operand) : List (List (Bool × Val)) := if mx then [[blockDot a b]] else quads a b

/-- The contributions of a reduction to one output, in order, from its operands in runs of 32 elements. -/
def dotSteps (mx : Bool) (a b : List (List Operand)) : List (List (Bool × Val)) :=
  (a.zip b).flatMap (fun p =>
    if mx then [[blockDot p.1 p.2]]
    else quads (p.1.take 16) (p.2.take 16) ++ quads (p.1.drop 16) (p.2.drop 16))

/-! ### Tiles -/

/-- Each shadow loads one complete tile, four columns of it, and becomes the active tile at the vector boundary (R95). -/
def loadShadows (cols : Tile) (l : List Truss) : List Truss :=
  l.mapIdx (fun t x => { x with shadow := (cols.drop (4 * t)).take 4 })
def swapTiles (l : List Truss) : List Truss := l.map (fun x => { x with active := x.shadow })
def nextTile (cols : Tile) (l : List Truss) : List Truss := swapTiles (loadShadows cols l)

/-- The active columns of the four trusses: column c of truss t feeds accumulator 4t + c (R92). -/
def activeColumns (l : List Truss) : Tile := l.flatMap (fun x => x.active)

/-! ### A vector passes the trusses -/

/-- What a vector's part in the active tiles is: a whole block, the first or second half of one, or BF16 elements. -/
inductive Feed where
  | whole | firstHalf | secondHalf | products
  deriving DecidableEq, Repr

/-- Trusses, and the groups that they add to. -/
structure Pass where
  trusses : List Truss
  groups : List Group
  deriving DecidableEq, Repr

/-- The contributions of the active columns to one group. -/
def addColumns (steps : List (List (List (Bool × Val)))) (g : Group) : Group :=
  (steps.mapIdx (fun i l => (i, l))).foldl (fun g e => e.2.foldl (fun g l => contributeSum g e.1 l) g) g

/-- The first halves that wait longest in the half-block buffers, column by column. -/
def waitingHalves (l : List Truss) : List (Bool × Val) :=
  l.flatMap (fun x => (List.range x.active.length).map (fun c => ((x.half.getD c []).headD (false, .num ⟨0, 0⟩))))

/-- One vector passes: sums of first halves wait in the half-block buffers; every other result reaches group k (R90, R92). -/
def feed (f : Feed) (act : List Operand) (k : Nat) (p : Pass) : Pass :=
  let add (l : List (List (List (Bool × Val)))) : List Group := p.groups.modify k (addColumns l)
  let dots := (activeColumns p.trusses).map (blockDot act)
  match f with
  | .whole => { p with groups := add (dots.map (fun x => [[x]])) }
  | .products => { p with groups := add ((activeColumns p.trusses).map (quads act)) }
  | .firstHalf => { p with trusses := p.trusses.map (fun x =>
      { x with half := x.active.mapIdx (fun c w => x.half.getD c [] ++ [blockDot act w]) }) }
  | .secondHalf =>
    { trusses := p.trusses.map (fun x => { x with half := x.half.map (fun l => l.drop 1) })
      groups := add (((waitingHalves p.trusses).zip dots).map (fun e => [[combine e.1 e.2]])) }

/-- The halves of a run of up to 32 operands. -/
def half1 (l : List Operand) : List Operand := l.take 16
def half2 (l : List Operand) : List Operand := l.drop 16

/-- One tile set serves the vectors of a pass: a block of 32 in one wide tile, or in two tiles whose sums combine; BF16 runs of sixteen
take one tile. Each vector comes with the group that it adds to. -/
def tileSet (mx wide : Bool) (cols : Tile) (vecs : List (Nat × List Operand)) (p : Pass) : Pass :=
  let load (t : Tile) (p : Pass) : Pass := { p with trusses := nextTile t p.trusses }
  let go (f : Feed) (cut : List Operand → List Operand) (p : Pass) : Pass :=
    vecs.foldl (fun p v => feed f (cut v.2) v.1 p) (load (cols.map cut) p)
  if !mx then go .products id p
  else if wide then go .whole id p
  else go .secondHalf half2 (go .firstHalf half1 p)

/-! ### Stream mode (R105, R106) -/

/-- The tile that a truss holds for its chunk of the window: cell column c has part of activation vector c, and the others are gated. -/
def chunkTile (vecs : List (List Operand)) (lo n : Nat) : Tile := vecs.map (fun v => (v.drop lo).take n)

/-- The active tiles take one reduction window: truss t holds chunk t of every resident vector (R105). -/
def nextWindow (wide : Bool) (vecs : List (List Operand)) (l : List Truss) : List Truss :=
  let n := if wide then 32 else 16
  swapTiles (l.mapIdx (fun t x => { x with shadow := chunkTile vecs (n * t) n }))

/-- A weight fragment, block b of the window, meets resident vector c once (R106). -/
def fragmentDot (wide : Bool) (l : List Truss) (b c : Nat) (w : List Operand) : Bool × Val :=
  let cell (t : Nat) : List Operand := ((l.getD t {}).active).getD c []
  if wide then blockDot (cell b) w
  else combine (blockDot (cell (2 * b)) (half1 w)) (blockDot (cell (2 * b + 1)) (half2 w))

/-! ### The close buffer (R94) -/

/-- A close copies the group to the close buffer. -/
def toCloseBuf (j : Nat) (g : Group) (s : State) : State := s.setJoist j (fun x => { x with closeBuf := x.closeBuf ++ [g] })
/-- Its conversion takes the oldest images from there. -/
def closeImage (s : State) (j n : Nat) : Group := (s.joist j).closeBuf.getD n {}
def fromCloseBuf (j n : Nat) (s : State) : State := s.setJoist j (fun x => { x with closeBuf := x.closeBuf.drop n })

end Sys2Proof.Machine
end

