-- ==== Sys2Proof/Machine/StagesMat.lean ====
section
/-! DEFINITION. The matrix stages GEMM, GEMV_STREAM and CONV (R46, R52, R95, R97, R102 to R107) and the element-wise
stages NORM, ELTWISE and CONVERT (R64, R72, R79, R108 to R110, R571). -/

namespace Sys2Proof.Machine

/-! ### Operands of a matrix stage -/

/-- The joist at a mesh offset of bay joist jx, within its bent's rectangle (R133). -/
def halo (y : Bay) (js : List Nat) (jx : Nat) (dx dy : Int) : Option Nat :=
  let area := y.w * y.h
  let nx := (jx % area % y.w : Int) + dx
  let ny := (jx % area / y.w : Int) + dy
  if 0 ≤ nx ∧ nx < y.w ∧ 0 ≤ ny ∧ ny < y.h then js[jx / area * area + ny.toNat * y.w + nx.toNat]? else none

/-- The joist and element that hold activation k of vector v: a CONV divides the reduction over its taps. -/
def actPlace (r : Run) (d : MatDesc) (jx v k : Nat) : Option (Nat × Nat) :=
  match d.taps with
  | [] => (r.js[jx]?).map (fun j => (j, v * d.red + k))
  | l =>
    let inner := d.red / l.length
    (l[k / inner]?).bind (fun t => (halo r.y r.js jx t.dx t.dy).map (fun j => (j, t.off + v * inner + k % inner)))

/-- Zero, for what lies beyond the edge of the bay. -/
def zeroOperand : Operand := ⟨.num ⟨0, 0⟩, false⟩

/-- A run of activations of vector v. -/
def actRun (m : Mem) (r : Run) (d : MatDesc) (jx v : Nat) (e : Nat × Nat) : List Operand :=
  if (tensorAt r.img d.act).fmt.isMx then
    match actPlace r d jx v e.1 with
    | none => List.replicate e.2 zeroOperand
    | some (j, k) => (tensorBlock m r.img d.act j (k / 32)).take e.2
  else (List.range e.2).map (fun i =>
    match actPlace r d jx v (e.1 + i) with
    | none => zeroOperand
    | some (j, k) => tensorElem m r.img d.act j k)

/-- A run of the weights of output column n. -/
def wgtRun (m : Mem) (r : Run) (d : MatDesc) (j n : Nat) (e : Nat × Nat) : List Operand :=
  let k := n * d.red + e.1
  if (tensorAt r.img d.wgt).fmt.isMx then (tensorBlock m r.img d.wgt j (k / 32)).take e.2
  else (List.range e.2).map (fun i => tensorElem m r.img d.wgt j (k + i))

/-! ### Staged weights (R97) -/

/-- The bench slot through which a run passes: R97 stages weights in the bench and does not say where, so the model counts through the
slots that the descriptor names, with the scale byte behind the elements (DESIGN CHOICE, log entry 39). -/
def stageSlot (d : MatDesc) (n : Nat) (e : Nat × Nat) : Nat :=
  d.stageAt + 64 * ((n * ((d.red + 15) / 16) + e.1 / 16) % d.stageSlots)

/-- Bytes of a tensor's share as whole bench words from an address on: a word with bytes of a bad unit is poison (R215). -/
def stageWords (m : Mem) (t : Tensor) (j b n a : Nat) (s : State) : State :=
  (List.range ((n + 7) / 8)).foldl (fun s c =>
    let k := min 8 (n - 8 * c)
    storeBench j (a + 8 * c) (tensorRead m t j (b + 8 * c) k ++ List.replicate (8 - k) 0) (tensorBad m t j (b + 8 * c) k) s) s

/-- The run's elements and its scale byte are staged in the bench by way of the slice cache. -/
def stageRun (m : Mem) (r : Run) (d : MatDesc) (j n : Nat) (e : Nat × Nat) (s : State) : State :=
  let t := tensorAt r.img d.wgt
  let k := n * d.red + e.1
  let s := stageWords m t j (k * t.fmt.bits / 8) (e.2 * t.fmt.bits / 8) (stageSlot d n e) s
  match t.scales with
  | some q => stageWords m (tensorAt r.img q) j (k / 32) 1 (stageSlot d n e + 32) s
  | none => s

/-- A staged run as a shadow loads it from the bench. -/
def stagedRun (m : Mem) (r : Run) (d : MatDesc) (j n : Nat) (e : Nat × Nat) : List Operand :=
  let f := (tensorAt r.img d.wgt).fmt
  let a := stageSlot d n e
  let code := leNat (readMem m false j a 32)
  (List.range e.2).map (fun i =>
    let b := elemBytes f.bits i
    loadedOperand f (unpackCode f.bits code i) (leNat (readMem m false j (a + 32) 1)) (badMem m false j (a + b.1) b.2)
      (f.isMx && badMem m false j (a + 32) 1))

/-- The weights of one run for a list of columns: those that lie in the slice pass through the bench (R97), column by column; m is the
memory as the stage found it. -/
def loadTile (m : Mem) (r : Run) (d : MatDesc) (j : Nat) (e : Nat × Nat) (cols : List Nat) (s : State) : State × Tile :=
  cols.foldl (fun a n =>
    if (tensorAt r.img d.wgt).inSlice then
      let s := stageRun m r d j n e a.1
      (s, a.2 ++ [stagedRun s.mem r d j n e])
    else (a.1, a.2 ++ [wgtRun m r d j n e])) (s, [])

/-! ### Passes -/

/-- What a matrix stage has made so far: the state, the groups it has opened, and whether a store met bad data. -/
structure MatAcc where
  s : State
  groups : List Group := []
  /-- joist and group of every close -/
  closed : List (Nat × Group) := []
  bad : Bool := false
  deriving DecidableEq, Repr

/-- A weight-stationary pass: for every run of the reduction and every chunk, a tile set serves the vectors. -/
def stationaryPass (m : Mem) (r : Run) (d : MatDesc) (jx j : Nat) (q : PassShape) (a : State × Pass) : State × Pass :=
  (runsOf (d.isMx r.img) d.red).foldl (fun a e =>
    (q.chunks.mapIdx (fun k c => (k, c))).foldl (fun a c =>
      let t := loadTile m r d j e (d.columns c.2) a.1
      (t.1, tileSet (d.isMx r.img) (d.wide r.img) t.2 (q.vecs.mapIdx (fun i v => (i * q.chunks.length + c.1, actRun m r d jx v e))) a.2))
      a) a

/-- A stream-mode pass: for each window the activations are resident, and every fragment of the pass's columns meets each of them. -/
def streamPass (m : Mem) (r : Run) (d : MatDesc) (jx j : Nat) (q : PassShape) (p : Pass) : Pass :=
  (d.windows r.img).foldl (fun p w =>
    let acts := q.vecs.map (fun v => w.flatMap (actRun m r d jx v))
    let p := { p with trusses := nextWindow (d.wide r.img) acts p.trusses }
    (w.mapIdx (fun b e => (b, e))).foldl (fun p e =>
      (q.chunks.mapIdx (fun k c => (k, c))).foldl (fun p c =>
        ((d.columns c.2).mapIdx (fun i n => (i, n))).foldl (fun p x =>
          let frag := wgtRun m r d j x.2 e.2
          { p with groups := (List.range q.vecs.length).foldl (fun l v =>
              l.modify (v * q.chunks.length + c.1) (fun g =>
                contributeSum g x.1 [fragmentDot (d.wide r.img) p.trusses e.1 v frag])) p.groups }) p) p) p) p

/-- Closes a group into sixteen scalar outputs by way of the close buffer. -/
def closeChunk (r : Run) (d : MatDesc) (jx j v c k : Nat) (a : MatAcc) : MatAcc :=
  let f := (tensorAt r.img d.out).fmt
  let at_ := v * d.cols + 16 * c
  let s := toCloseBuf j (a.s.group j k) a.s
  let cl := (closeImage s j 0).closeScalar f r.g.num 0 (fun i => logicalIx r.g jx (d.vectors * d.cols) (at_ + i))
  let st := storeCodes r d.out j at_ (cl.1.take (d.cols - 16 * c)) false (fromCloseBuf j 1 (s.setGroup j k (fun _ => cl.2)))
  { s := st.1, groups := a.groups ++ [cl.2], closed := a.closed ++ [(j, cl.2)], bad := a.bad || st.2 }

/-- Closes a pair of groups into one block of 32 outputs (R67). -/
def closePair (r : Run) (d : MatDesc) (jx j v b k : Nat) (a : MatAcc) : MatAcc :=
  let f := (tensorAt r.img d.out).fmt
  let at_ := v * d.cols + 32 * b
  let s := toCloseBuf j (a.s.group j (k + 1)) (toCloseBuf j (a.s.group j k) a.s)
  let cl := closeMx (closeImage s j 0) (closeImage s j 1) f r.g.num 0
    (fun i => logicalIx r.g jx (d.vectors * d.cols) (at_ + i))
  let st := storeBlock r d.out j (at_ / 32) cl.1 cl.2.1 false
    (fromCloseBuf j 2 ((s.setGroup j k (fun _ => cl.2.2.1)).setGroup j (k + 1) (fun _ => cl.2.2.2)))
  { s := st.1, groups := a.groups ++ [cl.2.2.1, cl.2.2.2],
    closed := a.closed ++ [(j, cl.2.2.1), (j, cl.2.2.2)], bad := a.bad || st.2 }

/-- The groups of a pass close, unless they are left open. -/
def closePass (r : Run) (d : MatDesc) (mxOut : Bool) (jx j : Nat) (q : PassShape) (a : MatAcc) : MatAcc :=
  if d.leaveOpen then { a with groups := a.groups ++ (List.range q.places.length).map (fun k => a.s.group j (d.groupNo k)) }
  else (q.places.mapIdx (fun k e => (k, e))).foldl (fun a e =>
    if !mxOut then closeChunk r d jx j e.2.1 e.2.2 (d.groupNo e.1) a
    else if e.2.2 % 2 = 0 then closePair r d jx j e.2.1 (e.2.2 / 2) (d.groupNo e.1) a
    else a) a

/-- One pass on one joist: the groups open at the stage's datum, the trusses fill them, and they close. The operands are those of the
memory as the stage found it. -/
def matPass (r : Run) (d : MatDesc) (stream : Bool) (raise : Int) (m : Mem) (jx j : Nat) (q : PassShape) (a : MatAcc) : MatAcc :=
  let fresh : Pass := { trusses := (a.s.joist j).trusses
                        groups := (List.range q.places.length).map (fun k => openGroup (stageDatum r.g raise (d.groupNo k))) }
  let t := if stream then (a.s, streamPass m r d jx j q fresh) else stationaryPass m r d jx j q (a.s, fresh)
  let p := t.2
  let s := t.1.setJoist j (fun x => { x with trusses := p.trusses })
  let s := (p.groups.mapIdx (fun k g => (k, g))).foldl (fun s e => s.setGroup j (d.groupNo e.1) (fun _ => e.2)) s
  closePass r d (tensorAt r.img d.out).fmt.isMx jx j q { a with s := s }

/-- One run of a matrix stage over the whole bay. -/
def matRun (r : Run) (d : MatDesc) (stream : Bool) (raise : Int) (s : State) : State × Summary :=
  let m := s.mem
  let s := if d.leaveOpen then s else freshOut r d.out (d.vectors * d.cols) s
  let passes := passesOf d stream (tensorAt r.img d.out).fmt.isMx
  let a := (r.js.mapIdx (fun k j => (k, j))).foldl (fun a e =>
    passes.foldl (fun a q => matPass r d stream raise m e.1 e.2 q a) a) { s := s : MatAcc }
  (captureRun r a.closed a.s, (summaryOf (r.g.num.datum + raise) (raise / 16).toNat a.groups).withPoison a.bad)

/-- A matrix stage: its operands are read, its passes run, and its outputs are written. Streamed weights carry the stream hint whatever
the layout map names (R106). -/
def matStage (r : Run) (d : MatDesc) (stream : Bool) (s : State) : State × Active :=
  let reads := shareReads r.js (stageReads r.img r.y r.g)
  let s := meetStage r.x.id (stagePoison r s reads) s
  let s := throughCache .normal false r d.act s
  let s := if stream then cacheLines (fun _ => .stream) false r d.wgt s else throughCache .normal false r d.wgt s
  let t := replayed r (mayRaise r.g) (fun raise s => matRun r d stream raise s) s
  let u := if d.leaveOpen then t.1 else throughCache .normal true r d.out t.1
  (holdTrusses r.js u, t.2)

def execGemm (r : StageRef) (s : State) : Host.Outcome State Fault Refusal :=
  stageEvent r (fun r => match r.g.work with | .gemm d => some (matStage r { d with taps := [] } false) | _ => none) s

def execGemvStream (r : StageRef) (s : State) : Host.Outcome State Fault Refusal :=
  stageEvent r (fun r => match r.g.work with | .gemvStream d => some (matStage r { d with taps := [] } true) | _ => none) s

def execConv (r : StageRef) (s : State) : Host.Outcome State Fault Refusal :=
  stageEvent r (fun r => match r.g.work with | .conv d => some (matStage r d false) | _ => none) s

/-! ### Conversions outside groups (R64, R65, R68, R184, R571) -/

/-- An exact value, infinity or NaN converted to a scalar format: code, CONV_SAT and NAN_SEEN. -/
def convertScalar (f : Fmt) (mode : RMode) (nc : NumCtl) (r : Nat) (v : Val) : Conv × Bool :=
  match v with
  | .num d => (encodeVal f mode nc.e5m2Inf r d, false)
  | .nan => convertVal f mode nc r qnan
  | .inf n => convertVal f mode nc r (f32Inf n)

/-- A block that holds a NaN, or an infinity that its format cannot represent, is written with the scale code 0xFF and
zero elements (R184). -/
def convertBlock (f : Fmt) (mode : RMode) (nc : NumCtl) (ord : Nat) (idx : Nat → Nat) (l : List Val) :
    Nat × List Conv × Bool :=
  let lost (v : Val) : Bool := match v with
    | .nan => true
    | .inf _ => !(f == .e5m2 && nc.e5m2Inf)
    | .num _ => false
  if l.any lost then (255, l.map (fun _ => ⟨0, false⟩), true)
  else
    let nums := l.map (fun v => match v with | .num d => d | _ => (⟨0, 0⟩ : Dy))
    let b := encodeBlock f mode nc ord idx nums
    (b.1, (l.zip b.2).map (fun p => match p.1 with
      | .inf n => ⟨if n then 0xFC else 0x7C, false⟩
      | _ => p.2), l.any (fun v => match v with | .inf _ => true | _ => false))

/-! ### Element-wise stages -/

/-- What an element-wise stage has made so far: CONV_SAT, NAN_SEEN, poison, and the groups that it added to. -/
structure VecAcc where
  s : State
  convSat : Bool := false
  nan : Bool := false
  poison : Bool := false
  groups : List Group := []
  deriving DecidableEq, Repr

/-- Element i of the result of one joist: its exact value and whether it derives from a poisoned operand. -/
abbrev VecFn := Nat → Nat → Val × Bool

/-- The vector unit stores scalar elements one after another; a poisoned one is stored as a NaN and reported as poison alone (R74). -/
def storeScalars (r : Run) (out count jx j : Nat) (mode : RMode) (f : VecFn) (a : VecAcc) : VecAcc :=
  let fmt := (tensorAt r.img out).fmt
  (List.range count).foldl (fun a i =>
    let v := f j i
    let c := if v.2 then ((⟨nanMarker fmt, false⟩ : Conv), false)
      else convertScalar fmt mode r.g.num (stochasticR r.g.num.seed 0 (logicalIx r.g jx count i)) v.1
    let n := fmt.bits / 8
    { a with s := placeShare r out j (i * n) (leBytes n c.1.code) v.2 a.s
             convSat := a.convSat || c.1.sat, nan := a.nan || c.2, poison := a.poison || v.2 }) a

/-- And MX blocks of 32; a block that is not whole ends in zeros. -/
def storeBlocks (r : Run) (out count jx j : Nat) (mode : RMode) (f : VecFn) (a : VecAcc) : VecAcc :=
  let fmt := (tensorAt r.img out).fmt
  (List.range ((count + 31) / 32)).foldl (fun a b =>
    let l := (List.range 32).map (fun i => if 32 * b + i < count then f j (32 * b + i) else (.num ⟨0, 0⟩, false))
    let bad := l.any (fun v => v.2)
    let c := if bad then (255, l.map (fun _ => (⟨0, false⟩ : Conv)), l.any (fun v => !v.2 && (match v.1 with | .num _ => false | _ => true)))
      else convertBlock fmt mode r.g.num 0 (fun i => logicalIx r.g jx count (32 * b + i)) (l.map (fun v => v.1))
    let n := 4 * fmt.bits
    let s := placeShare r out j (b * n) (leBytes n (packCodes fmt.bits (c.2.1.map Conv.code))) bad a.s
    { a with s := placeShare r ((tensorAt r.img out).scales.getD r.img.tensors.length) j b (leBytes 1 c.1) false s
             convSat := a.convSat || c.2.1.any Conv.sat, nan := a.nan || c.2.2, poison := a.poison || bad }) a

/-- The merges of one joist's share, and of its scale plane, before the stores. -/
def mergeShare (r : Run) (out count j : Nat) (a : VecAcc) : VecAcc :=
  let t := tensorAt r.img out
  let e := meetMerges r out j (fmtBytes t.fmt count) a.s
  let c := match t.scales with
    | some k => meetMerges r k j ((count + 31) / 32) e.1
    | none => (e.1, false)
  { a with s := c.1, poison := a.poison || e.2 || c.2 }

/-- The lanes of a vector unit add their values to a group, element i to accumulator i mod 16 (R43, R93, R112): to the group as the stage
found it open, or opened at the stage's datum (DESIGN CHOICE, log entry 27). -/
def addLanes (r : Run) (k count : Nat) (raise : Int) (j : Nat) (g : Group) (f : VecFn) (a : VecAcc) : VecAcc :=
  let start := if g.isOpen then g else openGroup (stageDatum r.g raise k)
  let h := (List.range count).foldl (fun g i => let v := f j i; g.contribute (i % 16) v.2 (if v.2 then .num ⟨0, 0⟩ else v.1)) start
  { a with s := a.s.setGroup j k (fun _ => h), groups := a.groups ++ [h] }

/-- One run of an element-wise stage; the memory and the groups are as the stage found them. -/
def vecRun (r : Run) (out count : Nat) (into : Option Nat) (mode : RMode) (f : VecFn) (s0 : State) (raise : Int) (s : State) :
    State × Summary :=
  let a := (r.js.mapIdx (fun k j => (k, j))).foldl (fun a e =>
    let a := mergeShare r out count e.2 a
    let a := if (tensorAt r.img out).fmt.isMx then storeBlocks r out count e.1 e.2 mode f a
      else storeScalars r out count e.1 e.2 mode f a
    match into with
    | some k => addLanes r k count raise e.2 (s0.group e.2 k) f a
    | none => a) { s := freshOut r out count s : VecAcc }
  (a.s, ((summaryOf (r.g.num.datum + raise) (raise / 16).toNat a.groups).withConv a.convSat a.nan).withPoison a.poison)

/-- One element-wise stage: every joist computes from the memory as the stage found it. -/
def vecStage (r : Run) (ins : List Nat) (out count : Nat) (into : Option Nat) (mode : RMode) (f : Mem → VecFn) (s : State) :
    State × Active :=
  let reads := shareReads r.js (ins.flatMap (tensorRegions r.img))
  let s := meetStage r.x.id (stagePoison r s reads) s
  let s := ins.foldl (fun s t => throughCache .normal false r t s) s
  let t := replayed r (mayRaise r.g) (vecRun r out count into mode (f s.mem) s) s
  (useVectors r.js (throughCache .normal true r out t.1), t.2)

/-- NORM: the spec gives the operands and no formula, so each element is a free value of them (DESIGN CHOICE, log entry 6). -/
def normElem (img : Image) (d : NormDesc) (m : Mem) : VecFn := fun j i =>
  let src := (List.range d.count).map (tensorWord m img d.src j)
  let g := tensorWord m img d.gain j i
  let b := tensorWord m img d.bias j i
  (f32Val (Config.normValue (src.map (fun w => w.1) ++ [g.1, b.1]) i), src.any (fun w => w.2) || g.2 || b.2)

def execNorm (r : StageRef) (s : State) : Host.Outcome State Fault Refusal :=
  stageEvent r (fun r => match r.g.work with
    | .norm d => some (vecStage r [d.src, d.gain, d.bias] d.out d.count d.into .rne (normElem r.img d))
    | _ => none) s

/-- The operations whose lanes are INT32 words. -/
def intOp : VecOp → Bool
  | .iadd | .isub | .imul | .ishl | .ishr | .iand | .ior | .ixor | .ilt | .ieq => true
  | _ => false

/-- ELTWISE: one lane of the vector unit for each element. -/
def eltElem (img : Image) (d : EltDesc) (m : Mem) : VecFn := fun j i =>
  let a := tensorWord m img d.a j i
  let b := if 2 ≤ eltInputs d.op then tensorWord m img d.b j i else (0, false)
  let c := if 3 ≤ eltInputs d.op then tensorWord m img d.c j i else (0, false)
  let w := vecLane d.op a.1 b.1 c.1
  (if intOp d.op then .num ⟨w.toInt, 0⟩ else f32Val w, a.2 || b.2 || c.2)

def execEltwise (r : StageRef) (s : State) : Host.Outcome State Fault Refusal :=
  stageEvent r (fun r => match r.g.work with
    | .eltwise d => some (vecStage r ([d.a, d.b, d.c].take (eltInputs d.op)) d.out d.count d.into .rne (eltElem r.img d))
    | _ => none) s

/-- CONVERT: the exact value of each element (R64). -/
def cvtElem (img : Image) (d : CvtDesc) (m : Mem) : VecFn := fun j i =>
  let o := tensorElem m img d.src j i
  (o.val, o.bad)

/-- Integers are rounded to nearest even; the other targets in the stage's rounding mode (R72, R571). R571 names FP32 and BF16 sources of
an integer: an MX source rounds to nearest even as well (DESIGN CHOICE, log entry 85). -/
def cvtMode (r : Run) (d : CvtDesc) : RMode :=
  match (tensorAt r.img d.out).fmt with
  | .int32 | .int8 => .rne
  | _ => r.g.num.rmode

def execConvert (r : StageRef) (s : State) : Host.Outcome State Fault Refusal :=
  stageEvent r (fun r => match r.g.work with
    | .convert d => some (vecStage r [d.src] d.out d.count none (cvtMode r d) (cvtElem r.img d))
    | _ => none) s

end Sys2Proof.Machine
end

