-- ==== Sys2Proof/Machine/Pegs.lean ====
section
/-! DEFINITION. The pegs: what an instruction computes (R181 to R191), statistics (R185), poison (R205 to R207), segments,
refreshes between them and the active limit (R197 to R203), and the PEG_SEQ stage (R192 to R196). -/

namespace Sys2Proof.Machine

/-! ### Operands -/

/-- The slice address of the first codeword of a span. -/
def pegAddr (bank row col : Nat) : Nat := rowAddr bank row 0 + 8 * col

/-- Element i of a span: its code, and whether a codeword it lies in is uncorrectable. -/
def pegCode (m : Mem) (j bank row col : Nat) (f : Fmt) (i : Nat) : Nat × Bool :=
  let a := pegAddr bank row col + i * f.bits / 8
  let n := (i * f.bits % 8 + f.bits + 7) / 8
  (leNat (readMem m true j a n) / 2 ^ (i * f.bits % 8) % 2 ^ f.bits, badMem m true j a n)

/-- Byte k of a scale plane. -/
def pegScale (m : Mem) (j bank row col k : Nat) : Nat × Bool :=
  let a := pegAddr bank row col + k
  (leNat (readMem m true j a 1), badMem m true j a 1)

/-- Element i of a scalar operand, rounded once to FP32 (R181). -/
def pegWord (m : Mem) (j bank row col : Nat) (f : Fmt) (i : Nat) : Word × Bool :=
  let c := pegCode m j bank row col f i
  (toF32 (decodeElem f c.1), c.2)

/-- Element i of an MX operand with the scales of row C. -/
def pegMx (m : Mem) (j bank row rowC col : Nat) (f : Fmt) (i : Nat) : Word × Bool :=
  let c := pegCode m j bank row col f i
  let k := pegScale m j bank rowC col (i / 32)
  (toF32 (decodeScaled f c.1 k.1), c.2 || k.2)

/-- An MX element whose product with its scale goes beyond the finite FP32 range saturates on the way in (R65, R181). -/
def pegSat (m : Mem) (j bank : Nat) (i : PegInstr) (e : Nat) : Bool :=
  let v := decodeScaled i.fmtIn (pegCode m j bank i.rowA i.col i.fmtIn e).1 (pegScale m j bank i.rowC i.col (e / 32)).1
  match v with
  | .num d => decide (i.op = .dequant) && (encodeVal .fp32 .rne false 0 d).sat
  | _ => false

/-- The spans that an instruction reads: row and bytes. -/
def instrSpans (i : PegInstr) : List (Nat × Nat) :=
  let n := spanBytes i.op i.fmtIn i.count
  let u := i.op.uses.1
  (if u.1 then [(i.rowA, n)] else []) ++ (if u.2.1 then [(i.rowB, n)] else [])
    ++ (if i.op = .dequant then [(i.rowC, i.count / 32)] else if i.op = .napply then [(i.rowC, n)] else [])
    ++ (if i.op = .resid then [(i.rowD, n)] else [])

/-- The instruction's operations of R187, each rounded to FP32 as R182 says; b are the broadcast registers. -/
def pegValue (op : PegOp) (b : Nat → Word) (k : Nat) (a x c d : Word) : Word :=
  match op with
  | .add => fadd a x
  | .mul => fmul a x
  | .scale => fmul a (b k)
  | .fma => ffma a (b k) x
  | .resid => fadd d a
  | .napply => ffma (fmul (fsub a (b k)) (b (k + 1))) x c
  | .fill => b k
  | _ => a

/-- The FP32 value of element e of an instruction, and whether an input of it is uncorrectable. -/
def pegElem (m : Mem) (j bank : Nat) (b : Nat → Word) (i : PegInstr) (e : Nat) : Word × Bool :=
  let u := i.op.uses.1
  let get (on : Bool) (row : Nat) : Word × Bool := if on then pegWord m j bank row i.col i.fmtIn e else (0, false)
  let a := if i.op = .dequant then pegMx m j bank i.rowA i.rowC i.col i.fmtIn e else get u.1 i.rowA
  let x := get u.2.1 i.rowB
  let c := get (i.op == .napply) i.rowC
  let d := get (i.op == .resid) i.rowD
  (pegValue i.op b i.breg a.1 x.1 c.1 d.1, a.2 || x.2 || c.2 || d.2)

/-! ### The run of a peg -/

/-- The machine and the peg's own state while a segment runs. -/
structure PegRun where
  s : State
  bregs : List (BitVec 32)
  stats : NMap Group
  convSat : Bool := false
  nan : Bool := false
  poison : Bool := false
  halted : Bool := false
  /-- operand buffers A, B, C and the result buffer (R175) -/
  bufs : List Byte × List Byte × List Byte × List Byte := ([], [], [], [])
  deriving DecidableEq, Repr

/-- Where a peg runs, and the control of its outputs: step, stage seed, joist, bank, logical id and tenancy. -/
structure PegPlace where
  step : Nat
  num : NumCtl
  j : Nat
  bank : Nat
  logical : Nat
  tenancy : Nat
  found : List Finding
  /-- a reset stops the peg before a QUANT writes its scales (R208) -/
  cut : Bool := false
  deriving DecidableEq, Repr

/-- The square of a value, formed exactly. -/
def squareOf : Val → Val
  | .num d => .num (d.mul d)
  | .inf _ => .inf false
  | .nan => .nan

/-- An element is added to a statistics slot, as itself and squared (R185); of a bad one nothing counts but its poison. -/
def addStat (slot : Nat) (v : Val) (bad : Bool) (l : NMap Group) : NMap Group :=
  let v := if bad then .num ⟨0, 0⟩ else v
  mmod {} l (slot / 8) (fun g => (g.contribute (2 * (slot % 8)) bad v).contribute (2 * (slot % 8) + 1) bad (squareOf v))

/-- Every element of a span is added to the slots of its vectors. -/
def addStats (i : PegInstr) (vals : List (Val × Bool)) (l : NMap Group) : NMap Group :=
  (vals.mapIdx (fun e v => (e, v))).foldl (fun l x => addStat (i.slot + x.1 / vectorLen i) x.2.1 x.2.2 l) l

/-- Output codewords, each valid or with the poison syndrome. -/
def pegStore (p : PegPlace) (row col : Nat) (bytes : List Byte) (bad : Nat → Bool) (s : State) : State :=
  stampJoist p.tenancy true p.j (s.onMem (fun m => (List.range (bytes.length / 8)).foldl (fun m c =>
    writeMem true p.j (pegAddr p.bank row col + 8 * c) ((bytes.drop (8 * c)).take 8) (bad c) m) m))

/-- The control of an instruction's conversions. -/
def instrCtl (i : PegInstr) (n : NumCtl) : NumCtl :=
  { n with rmode := i.rmode, e5m2Inf := i.e5m2Inf, scaleCeil := i.scaleCeil }
/-- The index of R183 of an element. -/
def pegIndex (p : PegPlace) (row e : Nat) : Nat := p.logical * 2 ^ 24 + p.bank * 2 ^ 19 + row * 2 ^ 10 + e

/-- Writes scalar results. -/
def pegScalars (p : PegPlace) (k : Nat) (i : PegInstr) (vals : List (Word × Bool)) (a : PegRun) : PegRun :=
  let n := i.fmtOut.bits / 8
  let nc := instrCtl i p.num
  let cs := vals.mapIdx (fun e v =>
    (convertScalar i.fmtOut i.rmode nc (stochasticR nc.seed k (pegIndex p i.rowD e)) (f32Val v.1), v.2))
  let per := 8 / n
  let bad (c : Nat) : Bool := (((cs.drop (per * c)).take per).any (fun x => x.2))
  let good := cs.filter (fun x => !x.2)
  { a with
    s := pegStore p i.rowD i.col (cs.flatMap (fun x => leBytes n x.1.1.code)) bad a.s
    stats := if i.statOut then addStats i (cs.map (fun x => (decodeElem i.fmtOut x.1.1.code, x.2))) a.stats else a.stats
    -- an infinity that INT8 saturates is reported as well (R184)
    nan := a.nan || good.any (fun x => x.1.2) || vals.any (fun v => !v.2 && (match f32Val v.1 with | .num _ => false | _ => true))
    convSat := a.convSat || good.any (fun x => x.1.1.sat) }

/-- Quantises one block: the scale code, the element codes, CONV_SAT, NAN_SEEN and whether the block is affected by an
uncorrectable input (R206). -/
def pegQuant (p : PegPlace) (k : Nat) (i : PegInstr) (b : Nat) (l : List (Word × Bool)) : Nat × List Nat × Bool × Bool × Bool :=
  let nc := instrCtl i p.num
  let c := convertBlock i.fmtOut i.rmode nc k (fun e => pegIndex p i.rowD (32 * b + e)) (l.map (fun v => f32Val v.1))
  if l.any (fun v => v.2) then
    (255, l.map (fun _ => 0), false, l.any (fun v => !v.2 && (match f32Val v.1 with | .num _ => false | _ => true)), true)
  else (c.1, c.2.1.map Conv.code, c.2.1.any Conv.sat, c.2.2, false)

/-- Writes a quantised span and its scales. -/
def pegBlocks (p : PegPlace) (k : Nat) (i : PegInstr) (vals : List (Word × Bool)) (a : PegRun) : PegRun :=
  let qs := (List.range (i.count / 32)).map (fun b => pegQuant p k i b ((vals.drop (32 * b)).take 32))
  let n := 4 * i.fmtOut.bits
  let bad (c : Nat) : Bool := (qs.getD (8 * c / n) (0, [], false, false, false)).2.2.2.2
  let at_ := pegAddr p.bank i.rowC i.col
  let merged := mergeBad a.s.mem true p.j at_ qs.length
  let s := pegStore p i.rowD i.col (qs.flatMap (fun q => leBytes n (packCodes i.fmtOut.bits q.2.1))) bad a.s
  { a with
    s := if p.cut then s else s.onMem (writeMem true p.j at_ (qs.flatMap (fun q => leBytes 1 q.1)) false)
    stats := if i.statOut then addStats i (qs.flatMap (fun q => q.2.1.map (fun c =>
        (decodeScaled i.fmtOut c q.1, q.2.2.2.2)))) a.stats else a.stats
    nan := a.nan || qs.any (fun q => q.2.2.2.1)
    convSat := a.convSat || qs.any (fun q => q.2.2.1)
    poison := a.poison || (merged && !p.cut) }

/-- What an instruction does once its inputs have been read. -/
def pegRunInstr (p : PegPlace) (k : Nat) (i : PegInstr) (a : PegRun) : PegRun :=
  let m := a.s.mem
  let b (n : Nat) : Word := a.bregs.getD n 0
  match i.op with
  | .copy =>
    let at_ := pegAddr p.bank i.rowA i.col
    let bad (c : Nat) : Bool := badMem m true p.j (at_ + 8 * c) 8
    { a with s := pegStore p i.rowD i.col (readMem m true p.j at_ (8 * i.count)) bad a.s
             poison := a.poison || badMem m true p.j at_ (8 * i.count) }
  | .zero => { a with s := pegStore p i.rowD i.col (List.replicate (8 * i.count) 0) (fun _ => false) a.s }
  | .bload =>
    let vals := (List.range i.count).map (pegWord m p.j p.bank i.rowA i.col .fp32)
    if vals.any (fun v => v.2) then { a with halted := true }
    else { a with bregs := (List.range 8).map (fun n =>
      if i.breg ≤ n ∧ n < i.breg + i.count then (vals.getD (n - i.breg) (0, false)).1 else b n) }
  | .stat =>
    let vals := (List.range i.count).map (pegWord m p.j p.bank i.rowA i.col i.fmtIn)
    { a with stats := addStats i (vals.map (fun v => (f32Val v.1, v.2))) a.stats, poison := a.poison || vals.any (fun v => v.2) }
  | _ =>
    let vals := (List.range i.count).map (pegElem m p.j p.bank b i)
    let sat := ((List.range i.count).zip vals).any (fun e => !e.2.2 && pegSat m p.j p.bank i e.1)
    let a := { a with poison := a.poison || vals.any (fun v => v.2), convSat := a.convSat || sat }
    if i.op = .quant then pegBlocks p k i vals a else pegScalars p k i vals a

/-- A buffer after a row operation moved n bytes of a row through it (R175). -/
def fillBuf (m : Mem) (p : PegPlace) (on : Bool) (row col n : Nat) (old : List Byte) : List Byte :=
  if on then readMem m true p.j (pegAddr p.bank row col) n ++ old.drop n else old

/-- The buffers after an instruction: its operands as read, a destination that is an input through A, and its result. -/
def fillBufs (p : PegPlace) (i : PegInstr) (m after : Mem) (b : List Byte × List Byte × List Byte × List Byte) :
    List Byte × List Byte × List Byte × List Byte :=
  let n := spanBytes i.op i.fmtIn i.count
  let u := i.op.uses.1
  let c := if i.op = .dequant then i.count / 32 else n
  (fillBuf m p u.1 i.rowA i.col n b.1, fillBuf m p (u.2.1 || i.op == .resid) (if i.op = .resid then i.rowD else i.rowB) i.col n b.2.1,
    fillBuf m p (u.2.2.1 && i.op != .quant) i.rowC i.col c b.2.2.1,
    fillBuf after p u.2.2.2 i.rowD i.col (spanBytes i.op (if i.fmtOut = .nofmt then i.fmtIn else i.fmtOut) i.count) b.2.2.2)

/-- One instruction: the rows it names leave the cache (R162), poison reads are met, and it runs unless the peg has
halted. -/
def pegStep (p : PegPlace) (a : PegRun) (e : Nat × PegInstr) : PegRun :=
  if a.halted then a
  else
    let rows := e.2.reads ++ e.2.writes
    let s := a.s.onJoi (fun x => { x with cache := rows.foldl (fun l r => cacheDropRow p.j p.bank r l) x.cache })
    let met := ((instrSpans e.2).flatMap (fun r => poisonReads s true p.j (pegAddr p.bank r.1 e.2.col) r.2 3)).eraseDups.filter
      (fun f => !justFound p.found f)
    let t := pegRunInstr p e.1 e.2 { a with s := meetStage p.step met s }
    { t with bufs := fillBufs p e.2 s.mem t.s.mem a.bufs }

/-! ### Segments -/

/-- Row operations of an instruction (R188). -/
def rowOps (i : PegInstr) : Nat := (i.reads ++ i.writes).eraseDups.length

/-- The instructions of one segment: at most 48 row operations (R197). -/
def takeOps : Nat → List PegInstr → List PegInstr
  | _, [] => []
  | n, i :: l => if rowOps i ≤ n then i :: takeOps (n - rowOps i) l else []

/-! ### PEG_SEQ -/

/-- Every peg of the masked banks of every joist is set up, with the groups of STAT_GROUPS opened (R175, R193). -/
def setPegs (r : Run) (d : PegDesc) (raise : Int) (s : State) : State :=
  let fresh := d.statGroups.foldl (fun l k => mset {} l k (openGroup (stageDatum r.g raise k))) ([] : NMap Group)
  r.js.foldl (fun s j =>
    let s := s.setJoist j (fun x => { x with pegList := d.list, pegBay := r.bay, pegStage := r.ix, pegBanks := d.banks, pegBegun := false })
    let s := d.statGroups.foldl (fun s k => s.setGroup j k (fun _ => openGroup (stageDatum r.g raise k))) s
    let s := d.banks.foldl (fun s b => s.setPeg j b (fun _ =>
      { busy := true, bregs := (d.bcast ++ List.replicate 8 0).take 8, stats := fresh })) s
    startSegments j s) s

/-- The sequence starts; it ends with the last segment of its last bank. -/
def pegSeqStage (r : Run) (d : PegDesc) (s : State) : State × Active :=
  (setPegs r d 0 s, { ix := r.ix, finished := false })

/-- Control data that cannot be corrected: a list in the peg buffers, or a narrow-path read of a stage that reads no operand that
way (R219). -/
def controlLost (found : List Finding) : Bool :=
  found.any (fun f => f.kind == .ue && decide (f.unit = 0x2A ∨ (f.unit < 24 ∧ f.src = 1)))

/-- A PEG_SEQ runs in the bay: a later one waits (R193). -/
def pegsBusy (r : Run) : Bool :=
  r.x.active.any (fun a => match (r.img.stages[a.ix]?).map (fun (g : Stage) => g.work) with
    | some (.pegSeq _) => true
    | _ => false)

def execPegSeq (r : StageRef) (s : State) : Host.Outcome State Fault Refusal :=
  stageEvent r (fun r => match r.g.work with
    | .pegSeq d =>
      if pegsBusy r then none
      else if controlLost r.found then some (fun s => (s, r.failed .uncorrectable))
      else some (pegSeqStage r d)
    | _ => none) s

/-! ### The ends of segments -/

/-- A bank has finished its list, or halted: its statistics merge into its joist's groups, with POISON after a halt (R185,
R207). -/
def endBank (j bank : Nat) (halted : Bool) (stats : NMap Group) (s : State) : State :=
  let s := stats.foldl (fun s e => s.setGroup j e.1 (fun g =>
    g.merge (if halted then { e.2 with poison := true } else e.2))) s
  let s := s.setPeg j bank (fun p => { held := p.held })
  if halted then s.setJoist j (fun x => { x with pegHalted := true }) else s

/-- The summary of the groups that a finished sequence opened. -/
def pegSummary (r : Run) (d : PegDesc) (a : Active) (s : State) : Summary :=
  let gs := r.js.flatMap (fun j => d.statGroups.map (fun k => s.group j k))
  let m := summaryOf (r.g.num.datum + a.raise) a.replays gs
  (m.withConv a.summary.convSat a.summary.nan).withPoison a.summary.poison

/-- Changes the record of an active stage. -/
def setActive (step ix : Nat) (f : Active → Active) (s : State) : State :=
  setStep step (fun z => { z with active := z.active.map (fun a => if a.ix = ix then f a else a) }) s

/-- Every bank of every joist is done: the sequence is replayed, or its stage may end (R54, R196). -/
def finishPegs (r : Run) (d : PegDesc) (a : Active) (s : State) : State :=
  let m := pegSummary r d a s
  let s := r.js.foldl (fun s j => s.setJoist j (fun x => { x with pegList := [], pegBay := 0, pegStage := 0, pegBanks := [], pegBegun := false })) s
  if a.status ≠ .dmaUe ∧ m.ovf ∧ r.g.num.replay ∧ a.replays < 2 ∧ mayRaise r.g a.raise then
    let s := setActive r.x.id r.ix (fun z => { z with summary := {}, replays := z.replays + 1, raise := z.raise + 16 }) s
    setStep r.x.id (Step.voided 2) (setPegs r d (a.raise + 16) s)
  else
    setActive r.x.id r.ix (fun z => { z with
      finished := true, summary := m, status := if z.status = .dmaUe then .dmaUe else m.status }) s

/-- The stage that a joist's pegs run, as it stands. -/
def pegRunOf (s : State) (j : Nat) : Option (Run × PegDesc × Active) :=
  let x := s.joist j
  match s.bayOf x.pegBay, runningStep s x.pegBay with
  | some y, some z =>
    y.program.bind (fun img => (img.stages[x.pegStage]?).bind (fun g =>
      match g.work, z.active.find? (fun a => a.ix = x.pegStage) with
      | .pegSeq d, some a =>
        some ({ bay := x.pegBay, y := y, img := img, x := z, g := g, ix := x.pegStage, js := bayJoists s y }, d, a)
      | _, _ => none))
  | _, _ => none

/-- The place of a bank's peg, for what a running step has found. -/
def pegPlace (r : Run) (j bank : Nat) (found : List Finding) (s : State) : PegPlace :=
  { step := r.x.id, num := r.g.num, j := j, bank := bank, tenancy := r.y.tenancy, found := found,
    logical := logicalId (keyBent j) (keyIndex j % 32) ((logicalRow s (keyBent j) (keyIndex j)).getD 0) }

/-- The run of a peg as it stands. -/
def pegStart (j bank : Nat) (s : State) : PegRun :=
  let p := s.peg j bank
  { s := s, bregs := p.bregs, stats := p.stats, convSat := p.convSat, nan := p.nan, poison := p.poison,
    bufs := (p.bufA, p.bufB, p.bufC, p.bufOut) }

/-- The instructions of the segment in progress, each with its index in the list. -/
def segmentOf (j bank : Nat) (s : State) : List (Nat × PegInstr) :=
  let l := ((s.joist j).pegList.mapIdx (fun k i => (k, i))).drop (s.peg j bank).ip
  l.take (takeOps 48 (l.map (fun e => e.2))).length

/-- Runs the instructions of the segment that ends. -/
def runSegment (r : Run) (j bank : Nat) (found : List Finding) (s : State) : State × PegRun × Nat :=
  let l := segmentOf j bank s
  let a := l.foldl (pegStep (pegPlace r j bank found s)) (pegStart j bank (meetStage r.x.id found s))
  (writeBack j bank a.s, a, (s.peg j bank).ip + l.length)

/-- What a peg's flags report is gathered in its stage. -/
def noteSegment (r : Run) (a : PegRun) (s : State) : State :=
  setActive r.x.id r.ix (fun z => { z with
    summary := (z.summary.withConv a.convSat a.nan).withPoison a.poison
    status := if a.halted then .dmaUe else z.status }) s

/-- The end of one segment, the boundary behind it and the starts that follow. -/
def segmentEnd (r : Run) (d : PegDesc) (j bank : Nat) (found : List Finding) (s : State) : State :=
  let t := runSegment r j bank found s
  let a := t.2.1
  let s := (noteSegment r a t.1).setRefresh j bank boundaryRefresh
  let s := if a.halted ∨ (s.joist j).pegList.length ≤ t.2.2 then endBank j bank a.halted a.stats s
    else s.setPeg j bank (fun p => { p with
      ip := t.2.2, inSegment := false, bregs := a.bregs, stats := a.stats, convSat := a.convSat, nan := a.nan, poison := a.poison,
      bufA := a.bufs.1, bufB := a.bufs.2.1, bufC := a.bufs.2.2.1, bufOut := a.bufs.2.2.2 })
  let s := startSegments j s
  if r.js.all (fun j => (List.range 24).all (fun b => !(s.peg j b).busy)) then
    match stepOf s r.x.id with
    | none => s
    | some z => match z.active.find? (fun e => e.ix = r.ix) with
      | some act => finishPegs { r with x := z } d act s
      | none => s
  else s

/-! ### A reset (R208) -/

/-- A peg that a partition reset stops: some of its segment's instructions have run, a free number of them, the row operation
in progress has ended, and its own state is lost. -/
def stopPeg (r : Run) (j bank : Nat) (s : State) : State :=
  if (s.peg j bank).inSegment then
    let l := segmentOf j bank s
    let d := Config.freeNat (drawNo s)
    let k := d % (l.length + 1)
    let p := pegPlace r j bank [] s
    let a := (l.take k).foldl (pegStep p) (pegStart j bank (spend 1 s))
    let a := match l[k]? with
      | some e => if e.2.op = PegOp.quant ∧ d / (l.length + 1) % 2 = 1 then pegStep { p with cut := true } a e else a
      | none => a
    (writeBack j bank a.s).setPeg j bank (fun _ => {})
  else s.setPeg j bank (fun _ => {})

/-- The pegs of a bay stop. -/
def stopPegs (bay : Nat) (s : State) : State :=
  match s.bayOf bay with
  | none => s
  | some y => (bayJoists s y).foldl (fun s j =>
      match pegRunOf s j with
      | none => s
      | some e => (List.range 24).foldl (fun s b => stopPeg e.1 j b s) s) s

def execPegSegmentEnd (joist bank : Nat) (found : List Finding) (s : State) : Host.Outcome State Fault Refusal :=
  if !(s.peg joist bank).inSegment then .next s
  else
    match pegRunOf s joist with
    | none => .next s
    | some e =>
      let mine := (found.filter (fun f => f.joist = joist ∧ f.unit = bank)).map (fun f => { classed s f with src := 3 })
      .next (segmentEnd e.1 e.2.1 joist bank mine s)

end Sys2Proof.Machine
end

