-- ==== Sys2Proof/Machine/Partition.lean ====
section
/-! DEFINITION. The phases of a partition reset (R462, R465 to R470, R475 to R477, R488 to R490), which a bent trip shares in
part (R498). -/

namespace Sys2Proof.Machine

/-! ### What an interrupted write leaves (R157, R208, R476) -/

/-- Bytes whose contents the interruption leaves open: free values. -/
def freeBytes (s : State) (n : Nat) : List Byte := (List.range n).map (fun i => (Config.freeWord (drawNo s + i)).truncate 8)

/-- Units of n bytes at a key that were bad before an interrupted write: each is so still, or holds new data (free). -/
def keepMarks (old : NMap Nat) (k n draw : Nat) (marks : NMap Nat) : NMap Nat :=
  old.foldl (fun m e =>
    if k / 8 ≤ e.1 ∧ e.1 < (k + n + 7) / 8 ∧ Config.freeNat (draw + e.1 - k / 8) % 2 = 1 then mset 0 m e.1 e.2 else m) marks

/-- One region of every joist of a list, written for a tenancy, holds open contents (R417). -/
def scrambleRegion (t : Nat) (js : List Nat) (r : Region) (s : State) : State :=
  js.foldl (fun s j =>
    let k := memKey r.inSlice j r.base
    let s := if r.inSlice then s.setJoist j (fun x => { x with touchedBy := some t }) else s
    spend r.len (s.onMem (fun m =>
      let t := writeMem r.inSlice j r.base (freeBytes s r.len) false m
      if r.inSlice then { t with sliceMark := keepMarks m.sliceMark k r.len (drawNo s) t.sliceMark }
      else { t with benchMark := keepMarks m.benchMark k r.len (drawNo s) t.benchMark }))) s

/-- The pages that a step's stage has pinned, as regions. -/
def pinnedPages (x : Step) (ix : Nat) : List Region :=
  (x.pins.filter (fun e => e.1 = ix)).map (fun e => ⟨true, e.2.2 * 16384, 16384⟩)

/-- What the stages of a step that run write: open contents, should they stop now. -/
def tornRegions (y : Bay) (x : Step) : List Region :=
  match y.program with
  | none => []
  | some img => x.active.flatMap (fun a =>
      match img.stages[a.ix]? with
      | none => []
      | some g => match g.work with
        -- pegs stop between row operations (R208); a REDUCE or CULL that fails writes nothing (R131, R138)
        | .pegSeq _ | .reduce _ | .cull _ => []
        | .scatterKv _ => pinnedPages x a.ix
        | _ => stageWrites img y g)

/-- A running step is interrupted: its pegs stop, and what its other stages write is left open. -/
def tearStep (x : Step) (s : State) : State :=
  match s.bayOf x.bay with
  | none => s
  | some y => (tornRegions y x).foldl (fun s r => scrambleRegion y.tenancy (bayJoists s y) r s) (stopPegs x.bay s)

/-- Copy-on-write copies in progress are abandoned, their targets left open (R254). -/
def abandonCopies (x : Step) (s : State) : State :=
  match s.bayOf x.bay with
  | none => s
  | some y =>
    let s := (x.grant.cows.filter (fun c => !c.2.2.2)).foldl (fun s c =>
      scrambleRegion y.tenancy (bayJoists s y) ⟨true, c.2.2.1 * 16384, 16384⟩ s) s
    setStep x.id (fun z => { z with grant := { z.grant with cows := z.grant.cows.map (fun c => (c.1, c.2.1, c.2.2.1, true)) } }) s

/-- The same for the copies that no step waits for. -/
def abandonOrphans (bay : Nat) (s : State) : State :=
  match s.bayOf bay with
  | none => s
  | some y => dropOrphans bay ((orphansOf s bay).foldl (fun s c => scrambleRegion y.tenancy (bayJoists s y) ⟨true, c.2.2 * 16384, 16384⟩ s) s)

/-! ### FENCE -/

/-- The status that the steps of released bays report. -/
def releaseStatus (r : PReset) : Status := if r.cause = 3 then .throttledTrip else .reset

/-- A POWER_RETAIN that still drains fails (R488). -/
def failRetain (s : State) : State :=
  match s.pwr.retainCx with
  | some cx =>
    if s.pwr.retain = 1 then
      finish cx 0x0080 { status := .busy } (s.onPwr (fun p => { p with retain := 0, retainCx := none }))
    else s
  | none => s

/-- A bent is fenced under a new scribe epoch; a partition reset counts in RESETS. -/
def fenceBent (counts : Bool) (b : Nat) (s : State) : State :=
  s.setBent b (fun x => { x with scribeEpoch := s.net.jobEpoch, isFenced := true,
                                 heldLevel := if counts then some (levelOf s b) else none
                                 resets := if counts then sat 0x7F (x.resets + 1) else x.resets })

/-- A margin run of a reset bent ends; its completion waits for DONE (R376). -/
def haltMargin (id : Nat) (st : Status) (b : Nat) (s : State) : State :=
  match (s.bent b).margining with
  | none => s
  | some cx => setReset id (fun z => { z with late := z.late ++ [(cx, 0x00B4, { status := st })] })
      (s.setBent b (fun x => { x with margining := none }))

/-- The waiting steps of a released bay complete, and Boundary settings pending for it are dropped (R466, R488). -/
def releaseWaiting (st : Status) (bay : Nat) (s : State) : State :=
  let s := ((stepsOf s bay).filter (fun x => x.phase ≠ .running)).foldl (fun s x => abandonCopies x s) (abandonOrphans bay s)
  (cancelWaiting st bay s).onCfg (fun c => { c with scheduled := c.scheduled.filter (fun e => e.1 ≠ bay) })

/-- The running steps of released bays are interrupted and kept for DONE. -/
def shelveRunning (r : PReset) (bay : Nat) (s : State) : State :=
  match runningStep s bay with
  | none => s
  | some x => shelveStep r.id (releaseStatus r) x (tearStep x s)

/-- The R_Keys of the landing and slice windows of a list of bays (R335). -/
def bayKeys (s : State) (bays : List Nat) : List Nat :=
  (present s.bay.bays).flatMap (fun e =>
    if bays.contains e.1 then (present e.2.landing).map (fun w => peerKey e.1 w.1 + e.2.tenancy * 2 ^ 24 + w.2.nonce) else [])
  ++ ((present s.bay.slices).filter (fun e => bays.contains e.2.bay)).map (fun e =>
    2 ^ 29 + e.1 / 64 * 2 ^ 24 + e.1 % 64 * 2 ^ 16 + e.2.nonce)

def fencePhase (r : PReset) (s : State) : State :=
  let s := failRetain s
  let s := s.onNet (fun n => { n with jobEpoch := (n.jobEpoch + 1) % 2 ^ 32 })
  let s := r.bents.foldl (fun s b => fenceBent (decide (r.cause ≠ 3)) b s) s
  let released := baysOnBents s r.bents
  let s := setReset r.id (fun z => { z with released := released, keys := bayKeys s released, phase := 1 }) s
  let s := released.foldl (fun s n => releaseWaiting (releaseStatus r) n s) s
  let s := r.bents.foldl (fun s b => haltMargin r.id (releaseStatus r) b s) s
  if r.cause = 3 then released.foldl (fun s n => shelveRunning r n s) s else s

/-- A phase event: it runs when the reset stands at that phase, and does nothing otherwise. -/
def atPhase (n : Nat) (f : PReset → State → State) (id : Nat) (s : State) : Host.Outcome State Fault Refusal :=
  match resetOf s id with
  | none => .next s
  | some r => if r.phase = n then .next (f r s) else .next s
def toPhase (n : Nat) (r : PReset) (s : State) : State := setReset r.id (fun z => { z with phase := n }) s

def execPartitionFence (r : Nat) (s : State) : Host.Outcome State Fault Refusal := atPhase 0 fencePhase r s

/-! ### DRAIN, STOP, QUIESCE, CLEAR -/

/-- Fence-mode and host traffic that was accepted for a reset bent and is not acknowledged: DRAIN waits for it, up to its maximum of
20 µs after the 2 µs of FENCE (R467, R478). -/
def drainWaits (r : PReset) (s : State) : Bool :=
  decide (usNow s < r.startedAt + 22) && s.net.rx.any (fun x => !x.acked && x.bents.any r.bents.contains
    && ((s.qp (pktKey x.pkt)).map (fun q => !inScribeMode s q)).getD false)

/-- A trip's own stop replaces STOP and QUIESCE (R498). -/
def execPartitionDrain (r : Nat) (s : State) : Host.Outcome State Fault Refusal :=
  atPhase 1 (fun r s => if drainWaits r s then s else toPhase (if r.cause = 3 then 4 else 2) r s) r s

/-- The slice controllers enter self-refresh while the ballast holds the fall in current (R168, R468). -/
def stopSlices (b : Nat) (s : State) : State := (selfRefresh b s).setBent b (fun x => { x with ballast := 40 })

def execPartitionStop (r : Nat) (s : State) : Host.Outcome State Fault Refusal :=
  atPhase 2 (fun r s =>
    let s := r.released.foldl (fun s n => shelveRunning r n s) s
    toPhase 3 r (r.bents.foldl (fun s b => stopSlices b s) s)) r s

def execPartitionQuiesce (r : Nat) (s : State) : Host.Outcome State Fault Refusal :=
  atPhase 3 (fun r s => toPhase 4 r (r.bents.foldl (fun s b => stopBent 40 b s) s)) r s

/-- The error counts of a bent, and the counts of its registers that a partition reset returns to their reset values. -/
def clearCounts (b : Nat) (s : State) : State :=
  (s.onEcc (fun x => { x with ce := x.ce.filter (fun e => !inBent b (e.1 / 32)),
                              ue := x.ue.filter (fun e => !inBent b (e.1 / 32)) })).setBent b (fun x =>
    { x with postponePeak := 0, forced := 0, passes := 0, limitWaits := 0 })

def clearBent (b : Nat) (s : State) : State := clearCounts b (resetControllers b (clearJoists b s))

def execPartitionClear (r : Nat) (s : State) : Host.Outcome State Fault Refusal :=
  atPhase 4 (fun r s => toPhase 5 r (discardRx r.bents (r.bents.foldl (fun s b => clearBent b s) s))) r s

/-! ### RECLAIM -/

/-- Sequences of a bay go without a write to their replicas: the joists are stopped. -/
def sweepSeqs (bay : Nat) (s : State) : State := (seqsOf s bay).foldl (fun s e => s.putSeq e.1 none) s
def reclaimBay (bay : Nat) (s : State) : State := freeBay bay (sweepSeqs bay s)

/-- Completions that were kept are written. -/
def postLate (r : PReset) (s : State) : State := r.late.foldl (fun s e => finish e.1 e.2.1 e.2.2 s) s
def dropReset (id : Nat) (s : State) : State :=
  s.onPwr (fun p => { p with resets := p.resets.filter (fun z => z.id ≠ id) })

def execPartitionReclaim (r : Nat) (s : State) : Host.Outcome State Fault Refusal :=
  atPhase 5 (fun r s =>
    let s := r.released.foldl (fun s n => reclaimBay n s) s
    if r.cause = 3 then postLate r (dropReset r.id s) else toPhase 6 r s) r s

/-! ### SLICES, RAISE, RELOAD -/

def execPartitionSlices (r : Nat) (s : State) : Host.Outcome State Fault Refusal :=
  atPhase 6 (fun r s => toPhase 7 r (r.bents.foldl (fun s b => resumeRefresh b s) (runPending r.bents s))) r s

def execPartitionRaise (r : Nat) (s : State) : Host.Outcome State Fault Refusal :=
  atPhase 7 (fun r s => toPhase 8 r (r.bents.foldl (fun s b => startBent b s) s)) r s

/-- A joist holds the whole section, written afresh into its instruction cache. -/
def loadJoist (s : State) (j : Nat) (t : State) : State :=
  (t.onMem (fun m => { m with sramMark := wipeRange ((j * 64 + 0x29) * 2 ^ 24) (2 ^ 24) m.sramMark })).setJoist j (fun x => { x with ucode := BitVec.ofNat 32 (allPackets s), ucodeOk := true, needsReload := false })

/-- A joist without its microcode is retired for this boot and logged (R449). -/
def retireJoist (cause j : Nat) (s : State) : State :=
  if (unusable s).contains j then s
  else s.onKp (fun k => { k with retired := k.retired ++ [(j, cause)] })
def retireUnloaded (j : Nat) (s : State) : State :=
  logEvent 0x000D (0x10 + keyBent j) [(keyBent j : Int), keyIndex j] (retireJoist 3 j s)

/-- The joist holds a logical address. -/
def inService (s : State) (j : Nat) : Bool :=
  !s.kp.hidden.contains j && !(s.bent (keyBent j)).outOfService && (logicalRow s (keyBent j) (keyIndex j)).isSome

/-- A bent goes out of service until the next bring-up (R450, R469). -/
def bentOut (b : Nat) (s : State) : State := s.setBent b (fun x => { x with outOfService := true, rows := 0 })

/-- The joists that are incomplete after the last repair round are retired, and the bents of those in service go out (R449, R469). -/
def reloadLost (missing : List (Nat × BitVec 32)) (s : State) : State :=
  let out := ((missing.map (fun e => e.1)).filter (inService s)).map keyBent
  out.foldl (fun s b => bentOut b s) (missing.foldl (fun s e => retireUnloaded e.1 s) s)

/-- A joist reports: it holds every packet but those it misses. -/
def reportJoist (s : State) (missed : List (Nat × BitVec 32)) (j : Nat) (t : State) : State :=
  let all := BitVec.ofNat 32 (allPackets s)
  match missed.find? (fun e => e.1 = j) with
  | none => loadJoist s j t
  | some e => if e.2 &&& all = 0 then loadJoist s j t
      else t.setJoist j (fun x => { x with ucode := all &&& ~~~e.2, ucodeOk := false })

/-- The joists of a list that still miss packets. -/
def stillMissing (s : State) (asked : List Nat) (missed : List (Nat × BitVec 32)) : List (Nat × BitVec 32) :=
  (missed.map (fun e => (e.1, e.2 &&& BitVec.ofNat 32 (allPackets s)))).filter (fun e => e.2 ≠ 0 ∧ asked.contains e.1)

/-- The microcode goes to the bents of a reset. -/
def sendBents (bents : List Nat) (s : State) : State :=
  bents.foldl (fun t b => (List.range (s.kp.running.ucodeLen / 512)).foldl (fun t n => sendUcode b n none t) t) s

/-- RELOAD: the broadcast to the reset bents with the reports on it, or the reports of a repair round; the phase ends when no joist misses a
packet, or after the third round (R446 to R449, R467). -/
def reloadRound (missed : List (Nat × BitVec 32)) (r : PReset) (s : State) : State :=
  let asked := if r.round = 0 then r.bents.flatMap (usableJoists s) else r.missing.map (fun e => e.1)
  let t := asked.foldl (fun t j => reportJoist s missed j t) (if r.round = 0 then sendBents r.bents s else s)
  let m := stillMissing s asked missed
  if m = [] then toPhase 9 r t
  else if 3 ≤ r.round then toPhase 9 r (reloadLost m t)
  else resendUcode m (setReset r.id (fun z => { z with round := r.round + 1, missing := m }) t)

def execPartitionReload (r : Nat) (missed : List (Nat × BitVec 32)) (s : State) : Host.Outcome State Fault Refusal :=
  atPhase 8 (reloadRound missed) r s

/-! ### DONE -/

/-- A bent trip stops the clock of its joists at once, and its laminations refresh themselves (R498). -/
def beginTrip (b : Nat) (s : State) : State := requestReset [b] 3 none (selfRefresh b (stopBent 120 b s))

/-- The settings of the bents return to the record; CFG_EPOCH rises once if a value in force changed (R490). -/
def returnBents (bents : List Nat) (s : State) : State :=
  let differs := bents.any (bentDiffers s)
  let s := syncPegs (bents.foldl (fun s b => returnBent b s) s)
  if differs then s.onCfg (fun c => { c with epoch := (c.epoch + 1) % 2 ^ 32 }) else s

/-- The bents that the trip behind a reset leaves. -/
def endTrips (r : PReset) (s : State) : State :=
  if r.cause = 2 then
    let s := (r.bents.filter (fun b => !r.tripped.contains b)).foldl (fun (s : State) (b : Nat) =>
      logEvent 0x000B (0x10 + b) [(b : Int)] (s.setBent b (fun x => { x with tripped := false }))) s
    if (List.range 4).any (fun b => (s.bent b).tripped) then s else alertOff 4 s
  else s

def donePhase (r : PReset) (s : State) : State :=
  let took := usNow s - r.startedAt
  let s := r.bents.foldl (fun s b => s.setBent b (fun x => { x with isFenced := false, heldLevel := none })) s
  let s := postLate r (dropReset r.id (endTrips r (returnBents r.bents s)))
  let s := r.cxs.foldl (fun s c => finish c 0x0081 { status := .ok, result := [took, s.net.jobEpoch] } s) s
  r.tripped.foldl (fun s b => beginTrip b s) s

def execPartitionDone (r : Nat) (s : State) : Host.Outcome State Fault Refusal := atPhase 9 donePhase r s

/-- A reset that has not finished DONE within 50 ms of its start: FAILED (R462). -/
def execPartitionResetOvertime (r : Nat) (s : State) : Host.Outcome State Fault Refusal :=
  match resetOf s r with
  | none => .next s
  | some _ => .next (enterFailed 0 s)

end Sys2Proof.Machine
end

