-- ==== Sys2Proof/Machine/Margin.lean ====
section
/-! DEFINITION. Margin runs: MARGIN_RUN and its end (R170 to R173, R236), shared with the TESTS stage of bring-up. -/

namespace Sys2Proof.Machine

def execMarginRun (cx : Cmd) (bent : Nat) (s : State) : Host.Outcome State Fault Refusal :=
  qci cx 0x00B4 (fun s =>
    if 3 < bent then .fail s .badDesc
    else if (bentsInReset s).contains bent then .fail s .fenced
    else if (baysOnBents s [bent]) ≠ [] ∨ (s.bent bent).margining.isSome then .fail s .busy
    else .later (s.setBent bent (fun x => { x with margining := some cx }))) s

/-! ### The sweep (R170) -/

/-- The ceiling of the voltage sweep, in 5 mV steps from 1.00 V: the lower of 1.06 V and the VDD_LAM measured at the lamination, in
mV, less 15 mV. -/
def sweepCeiling (vddLam : Nat) : Int := min 12 (((vddLam : Int) - 1015) / 5)

/-- A window within the swept range: -8 to +7 eighths, 0.90 V to the ceiling. -/
def clampOutcome (ceil : Int) (o : MarginOutcome) : MarginOutcome :=
  { o with tLow := max (-8) (min 7 o.tLow), tHigh := max (-8) (min 7 o.tHigh),
           vLow := max (-20) (min ceil o.vLow), vHigh := min ceil (max (-20) o.vHigh) }

/-- The joists that a run tests: those in service; before READY has fixed the assignment, those that are raised. -/
def testedJoists (s : State) (b : Nat) : List Nat :=
  if s.kp.remapFixed then (usableJoists s b).filter (inService s) else usableJoists s b

/-- The outcomes of tested joists and populated banks (R3), within the sweep; a bank that the event does not name has passed at
every point (DESIGN CHOICE, log entry 72). -/
def sweepOutcomes (b : Nat) (ceil : Int) (l : List MarginOutcome) (s : State) : List MarginOutcome :=
  let js := testedJoists s b
  (l.filter (fun o => js.contains (joistKey b o.pjoist) && decide (o.pjoist < 1344 ∧ o.bank < bankCount s))).map (clampOutcome ceil)

/-! ### What follows for a bank (R172, R236) -/

/-- The window does not contain nominal timing and nominal voltage. -/
def failsNominal (o : MarginOutcome) : Bool := !decide (o.tLow ≤ 0 ∧ 0 ≤ o.tHigh ∧ o.vLow ≤ 0 ∧ 0 ≤ o.vHigh)
/-- A bank whose timing window is narrower than 5 eighths, or whose lowest passing voltage is above 0.96 V. -/
def isMarginal (o : MarginOutcome) : Bool := decide (o.tHigh - o.tLow < 5 ∨ -8 < o.vLow)

/-- The strobe setting and the unusable spares of one bank. -/
def bankOutcome (b : Nat) (o : MarginOutcome) (s : State) : State :=
  let k := joistKey b o.pjoist * 32 + o.bank
  s.onEcc (fun x => { x with
    strobe := if failsNominal o then x.strobe else mset 0 x.strobe k ((o.tLow + o.tHigh).tdiv 2)
    badSpares := x.badSpares ++ (o.badSpares.filter (fun sp => decide (sp < 16))).map (fun sp => (k, sp)) })

/-- Every bank of the bent starts from no finding: a full window has its centre at 0. -/
def clearFindings (b : Nat) (s : State) : State :=
  s.onEcc (fun x => { x with strobe := x.strobe.filter (fun e => !inBent b (e.1 / 32))
                             badSpares := x.badSpares.filter (fun e => !inBent b (e.1 / 32)) })

/-- The remaps of a bent whose spares the last run marked unusable. -/
def stranded (s : State) (b : Nat) : List Remap :=
  s.kp.remaps.filter (fun r => keyBent r.joist = b && s.ecc.badSpares.contains (r.joist * 32 + r.bank, r.spare))

/-- The entry that moves a row from an unusable spare: another one that is scheduled for the row already. -/
def movingEntry (s : State) (r : Remap) : Bool :=
  s.kp.remaps.any (fun x => x.joist = r.joist ∧ x.bank = r.bank ∧ x.row = r.row ∧ x ≠ r ∧ x.isDone = false)

/-- A row whose spare is unusable moves to the next usable spare under R231: a remap still pending takes the other spare, and a row that
the spare holds is scheduled, if it is not. Whether no usable spare is left. -/
def moveRemap (r : Remap) (s : State) : State × Bool :=
  let f : Finding := { joist := r.joist, unit := r.bank, row := rowForm s r.joist r.bank r.row, cw := 0, kind := .ue, src := 5 }
  if r.isDone ∧ movingEntry s r then (s, false)
  else
    match lowestFree (spareUsable s r.joist r.bank) 0 16 with
    | none => (eccLog 4 f 0 s, true)
    | some sp =>
      if !r.isDone then
        (logRemap 6 f sp (s.onKp (fun k => { k with remaps := k.remaps.map (fun x => if x = r then { x with spare := sp } else x) })), false)
      else if tableFull s then
        (eccLog 4 f 0 (s.onEcc (fun x => { x with sparesOut := (bankKey r.joist r.bank :: x.sparesOut).eraseDups })), false)
      else (addRemap f r.row sp r.hadUe s, false)

/-- Every row that a run has stranded moves; those that no usable spare takes are the rows lost. The contents are copied where MRAM has
recorded the entry, and once it has where not (R232, R236). -/
def moveRemaps (l : List Remap) (s : State) : State × List Remap :=
  let t := l.foldl (fun (a : State × List Remap) r => let u := moveRemap r a.1; (u.1, a.2 ++ (if u.2 then [r] else []))) (s, [])
  ((l.filter (fun r => r.isDone)).foldl (fun s r =>
    match pendingRemap s r.joist r.bank r.row with
    | some e => if e.atReset then s else copyRow e [] s
    | none => s) t.1, t.2)

/-- Every data row of the bent is zero, with valid codewords, and so are its rows that no address reaches (R171). -/
def zeroBent (b : Nat) (s : State) : State :=
  s.onMem (fun m => { m with slice := wipeRange (b * 1344 * 2 ^ 23) (1344 * 2 ^ 23) m.slice
                             sliceMark := wipeRange (b * 1344 * 2 ^ 20) (1344 * 2 ^ 20) m.sliceMark
                             hidden := wipeRange (b * 1344 * (24 * 528 * 512)) (1344 * (24 * 528 * 512)) m.hidden
                             hiddenMark := wipeRange (b * 1344 * (24 * 528 * 64)) (1344 * (24 * 528 * 64)) m.hiddenMark })

/-! ### The record (R173) -/

/-- The entry of one bank; a bank that lost its last usable spare fails at nominal settings too (R236). -/
def marginEntry (b : Nat) (lost : List Remap) (o : MarginOutcome) : MarginRec :=
  { pjoist := o.pjoist, bank := o.bank, marginal := isMarginal o
    failed := failsNominal o || lost.any (fun r => decide (r.joist = joistKey b o.pjoist ∧ r.bank = o.bank))
    badSpare := o.badSpares ≠ [], tLow := o.tLow, tHigh := o.tHigh, vLow := o.vLow, vHigh := o.vHigh }

/-- The outcome of a margin run of a bent (R171 to R173, R236). -/
def marginDone (b : Nat) (sweep : Sweep MarginOutcome) (s : State) : State :=
  let ceil := sweepCeiling sweep.vddLam
  let l := sweepOutcomes b ceil sweep.outcomes s
  let tested := testedJoists s b
  let before := s.kp.retired.length
  let s := l.foldl (fun s o => bankOutcome b o s) (clearFindings b (zeroBent b s))
  let moved := moveRemaps (stranded s b) s
  let s := moved.1
  let lost := moved.2
  let s := ((l.filter failsNominal).map (fun o => joistKey b o.pjoist) ++ lost.map (fun r => r.joist)).foldl
    (fun s j => retireJoist 2 j s) s
  let rec_ : MarginRecord :=
    { result := if before < s.kp.retired.length then 2 else if l.any isMarginal then 1 else 0
      tested := tested.map keyIndex, banks := bankCount s, vCeil := ceil, stamp := aclkNow s b
      entries := l.map (marginEntry b lost) }
  s.onEcc (fun x => { x with margin := mset {} x.margin b rec_ })

/-! ### The end of a run -/

/-- The logical assignment of a bent: its rows, and whether it is degraded or out of service (R19, R450). -/
def assignBent (b : Nat) (s : State) : State :=
  let h := s.kp.hidden
  let s := s.setBent b (fun x => { x with degraded := bentDegraded s h b, rows := rowCount s h b })
  if bentMappable s h b ∧ (s.bent b).absentLams = [] then s else bentOut b s

/-- The columns and the bent follow R19 once a run has retired a joist: no bay lies on the bent, and its rows are assigned anew
(R172; DEDUCED, log entry 41). -/
def settleBent (b : Nat) (s : State) : State :=
  if (s.bent b).outOfService || (unusable s).all (fun j => !inBent b j || s.kp.hidden.contains j) then s
  else assignBent b (s.onKp (fun k => { k with
    hidden := k.hidden.filter (fun j => !inBent b j) ++ (unusable s).filter (inBent b) }))

/-- The settings of the last run are those that a fast path keeps (R173, R452). -/
def keepMargins (s : State) : State :=
  s.onKp (fun k => { k with retention := k.retention.map (fun r =>
    { r with strobe := s.ecc.strobe, badSpares := s.ecc.badSpares, margin := s.ecc.margin }) })

def execMarginRunDone (bent : Nat) (sweep : Sweep MarginOutcome) (s : State) : Host.Outcome State Fault Refusal :=
  onBent bent (fun s =>
    match (s.bent bent).margining with
    | none => s
    | some cx => finish cx 0x00B4 { status := .ok }
        (settleBent bent (keepMargins (marginDone bent sweep (s.setBent bent (fun x => { x with margining := none })))))) s

end Sys2Proof.Machine
end

