-- ==== Sys2Proof/Machine/BringUp.lean ====
section
/-! DEFINITION. Bring-up: its stages from KEEPER to READY (R420, R430 to R453), the microcode broadcast with its repair
rounds (R446 to R449) and the reload of one joist (R219, R451). -/

namespace Sys2Proof.Machine

/-- A stage's end comes only while bring-up runs and stands at that stage. -/
def atStage (n : Nat) (f : State → State) (s : State) : Host.Outcome State Fault Refusal :=
  if s.kp.raising ∧ s.kp.stage = n then .next (f s) else .next s
def toStage (n : Nat) (s : State) : State := s.onKp (fun k => { k with stage := n })

/-! ### KEEPER (R390, R423, R426, R432, R453) -/

/-- The valid record with the highest SEQUENCE, and its location. -/
def bestRecord (s : State) : Option (Nat × SettingsRecord) :=
  (validRecords s).foldl (fun m e => match m with
    | none => some e
    | some x => if x.2.sequence < e.2.sequence then some e else m) none

/-- One entry of the record: in force, or skipped and logged. -/
def recordEntry (q : Nat) (x : Setting) (s : State) : State :=
  if settingFault s x = 0 then putSetting x s
  else (logEvent 0x0010 0 [(idOf x : Int), settingFault s x, q] s).onCfg (fun c => { c with skipped := true })

/-- The settings at boot: the best record, or the factory's; CFG_EPOCH is 1. -/
def bootSettings (s : State) : State :=
  let s := s.onCfg (fun _ =>
    { fallback := (present s.kp.records).any (fun e => recordCommitted e.2 && !recordValid e.2) : Cfg })
  let s := match bestRecord s with
    | none => s.onCfg (fun c => { c with defaulted := true })
    | some e => e.2.payload.foldl (fun s x => recordEntry e.2.sequence x s)
        (s.onCfg (fun c => { c with location := e.1, sequence := e.2.sequence }))
  syncPegs ((List.range 4).foldl (fun s b => s.setBent b (fun x => { x with pegIn := x.pegMax })) s)

/-- Why the stored image sends the keeper into recovery: 0 commit word, 1 image invalid, 2 version below the counter, 3 ROM
below ROM_MIN (R426, R427). -/
def storedFault (s : State) : Option Nat :=
  let k := s.kp
  if k.commitHi ≠ 2 ^ 32 - 1 - k.commitLo ∨ k.commitLo ≠ imageVersion s then some 0
  else if !(imageShaped s && imageSigned s) then some 1
  else if imageVersion s < k.fwCounter then some 2
  else if romRev < imageRomMin s then some 3
  else none

/-- The retention record serves the fast path (R453). -/
def retentionServes (s : State) : Bool :=
  match s.kp.retention with
  | none => false
  | some r => decide (keeperNow s < r.writtenAt + 30 * 86400 * 25000000) && !r.tripSince && !s.kp.fullTests && !s.kp.coldStart

/-- Recovery raises the hub's port logic and OE0 with P0 and P1 in MODE 0 (R426). -/
def enterRecovery (reason : Nat) (s : State) : State :=
  let s := s.onKp (fun k => { k with stage := 0xD, raising := false, recovery := some { reason := reason } })
  let s := [0, 1].foldl (fun s p => s.setPort p (fun x => { x with link := 0 })) s
  lightLasers (s.setEngine 0 (fun x => { x with state := 0, pllLock := true, lanes := 0xFF }))

/-- The image runs, and bring-up goes on with the choice of its path. -/
def keeperPassed (s : State) : State :=
  let fast := retentionServes s
  let kept := if fast then (s.kp.retention.map (fun r => r.retired)).getD [] else []
  s.onKp (fun k => { k with
    running := imageNow s, fastPath := fast, retRejected := !k.coldStart && k.retention.isNone, retired := kept, stage := 1 })

def keeperStage (s : State) : State :=
  let s := bootSettings (s.onKp (fun k =>
    let n := (k.boots + 1) % 2 ^ 32
    { k with boots := n, bootsStored := if mramOpen s then n else k.bootsStored, loaded := true }))
  let s := if fusesConsistent s.kp.fuses then s
    else spend 1 (s.onKp (fun k => { k with faultKind := 6, faultIndex := Config.freeNat (drawNo s) % 256 }))
  if s.kp.coolantLoss || s.kp.keeperTrip then s.onKp (fun k => { k with raising := false })
  else
    match storedFault s with
    | some r => enterRecovery r s
    | none => keeperPassed s

def execBringupKeeper (_fw : Unit) (s : State) : Host.Outcome State Fault Refusal := atStage 0 keeperStage s

/-! ### HUB (R433, R434) -/

/-- The hub is held in reset until the keeper tries again. -/
def hubFailed (cause : Nat) (s : State) : State :=
  alertOn 2 (logEvent 0x0005 0 [(cause : Int)] (s.onKp (fun k => { k with raising := false, hubHeld := true })))

/-- The hub runs: the keeper link has a fresh key, the hub PLL has locked, the framer has started. -/
def hubStarted (selfTestOk : Bool) (repaired : List Nat) (s : State) : State :=
  let bad := !selfTestOk && !s.kp.fastPath && decide (s.kp.faultKind = 0)
  let index := Config.freeNat (drawNo s + 1) % 256
  let s := s.onKp (fun k => { k with
    linkKey := Config.random (drawNo s), hubHeld := false, stage := 2
    hubRepairs := if k.fastPath then (k.retention.map (fun r => r.hubRepairs)).getD [] else repaired
    faultKind := if bad then 1 else k.faultKind, faultIndex := if bad then index else k.faultIndex })
  alertOff 2 (spend 2 ((s.onPwr (fun p => { p with hubLock := true })).onQci (fun q => { q with framerHalted := false })))

def execBringupHub (linkOk framerOk : Bool) (selfTest : SelfTest) (s : State) : Host.Outcome State Fault Refusal :=
  atStage 1 (fun s =>
    -- the link key needs the random source (R396)
    if !linkOk || !s.kp.randomOk then hubFailed 0 s else if !framerOk then hubFailed 1 s else hubStarted selfTest.passed selfTest.repaired s) s

def execHubStageRetry (s : State) : Host.Outcome State Fault Refusal :=
  if s.kp.stage = 1 ∧ s.pwr.alerts.contains 2 ∧ s.pwr.pwrok ∧ !s.kp.coolantLoss ∧ !s.kp.keeperTrip then
    .next (s.onKp (fun k => { k with raising := true })) else .next s

/-! ### LINKS and ENGINES (R318, R319, R435 to R438) -/

/-- The equalisation of a link: on the fast path training starts from the retained values and keeps them (DESIGN CHOICE, log entry 8). -/
def equalFor (s : State) (n : Nat) : Nat :=
  let kept := (s.kp.retention.map (fun r => mget 0 r.equal n)).getD 0
  if s.kp.fastPath then kept else Config.eye n (drawNo s + 3)

/-- A link after its training and test. The openings of a link whose lanes passed are at least 19/64 UI and 32 mV. -/
def trainLink (bad : List Nat) (n : Nat) (s : State) : State :=
  let e (i : Nat) : Nat := Config.eye n (drawNo s + i)
  s.setLink n (fun _ =>
    if bad.contains n then { state := 1, hEye := e 0 % 256, vEye := e 1 % 256, worstLane := e 2 % 256 }
    else { state := 0, hEye := 19 + e 0 % 46, vEye := 8 + e 1 % 248, worstLane := e 2 % 256, equal := equalFor s n })

/-- An engine's lanes after training: a lane that fails is unavailable. -/
def trainEngine (bad : List Nat) (e : Nat) (s : State) : State :=
  if enginePresent s e then
    let lanes := (List.range 8).filter (fun i => !bad.contains (8 * e + i))
    s.setEngine e (fun x => { x with
      lanes := BitVec.ofNat 8 (maskOf lanes), pllLock := engineRequired s e
      hEye := if lanes.length = 8 then 16 + Config.eye (96 + e) (drawNo s) % 49 else Config.eye (96 + e) (drawNo s) % 256
      vEye := if lanes.length = 8 then 5 + Config.eye (96 + e) (drawNo s + 1) % 251 else Config.eye (96 + e) (drawNo s + 1) % 256 })
  else s

def linksStage (failed failedLanes : List Nat) (s : State) : State :=
  let s := (List.range 4).foldl (fun s b => startTransit b s) s
  let s := (List.range 96).foldl (fun s n => trainLink failed n s) s
  toStage 3 (spend 4 ((List.range 6).foldl (fun s e => trainEngine failedLanes e s) s))

def execBringupLinks (failed failedLanes : List Nat) (s : State) : Host.Outcome State Fault Refusal :=
  atStage 2 (linksStage failed failedLanes) s

/-- An engine's state after calibration: 0 up, 1 failed, 3 not required. -/
def calibrated (s : State) (bad : List Nat) (e : Nat) : Nat :=
  if !engineRequired s e then 3 else if bad.contains e then 1 else 0

def enginesStage (calFailed openPorts noModule : List Nat) (s : State) : State :=
  let s := ((List.range 6).filter (enginePresent s)).foldl (fun s e =>
    s.setEngine e (fun x => { x with
      state := calibrated s calFailed e, laserPresent := !noModule.contains e
      pllLock := decide (calibrated s calFailed e = 0)
      calib := if s.kp.fastPath then (s.kp.retention.map (fun r => mget 0 r.calib e)).getD 0 else Config.eye (102 + e) (drawNo s) })) s
  let s := ((portsOf s).filter openPorts.contains).foldl (fun s p => s.setPort p (fun x => { x with lightOff := true })) s
  toStage 4 (spend 1 (lightLasers s))

def execBringupEngines (calFailed openPorts noModule : List Nat) (s : State) : Host.Outcome State Fault Refusal :=
  atStage 3 (enginesStage calFailed openPorts noModule) s

/-! ### TOPOLOGY (R439, R440) -/

/-- The laminations that the variant has: 8 × bent + n. -/
def lamsDue (s : State) : List Nat :=
  (List.range 4).flatMap (fun b => (bitsOf 6 s.kp.fuses.lamEn.toNat).map (fun n => 8 * b + n))

/-- The first mismatch of discovery, as FAULT_KIND and FAULT_INDEX; `absent` names sills 0 to 3 and, from 16 on, laminations
16 + 8 × bent + n. -/
def mismatch (s : State) (absent : List Nat) : Option (Nat × Nat) :=
  match (List.range 4).find? absent.contains with
  | some b => some (1, b)
  | none =>
    match (lamsDue s).find? (fun i => absent.contains (16 + i)) with
    | some i => some (2, i)
    | none =>
      match (List.range 4).find? (fun b => hubRoute s b = 2) with
      | some b => some (3, b)
      | none =>
        match (List.range 4).find? (fun b => !(joined s).contains b) with
        | some b => some (4, b)
        | none => ((List.range 6).find? (fun e =>
            enginePresent s e && engineRequired s e && decide ((s.engine e).state ≠ 0))).map (fun e => (5, e))

/-- What discovery finds absent stands in the report: sills with their links, and laminations. -/
def noteAbsent (absent : List Nat) (s : State) : State :=
  let s := ((List.range 4).filter absent.contains).foldl (fun s b =>
    let links := (List.range 8).map (hubLink b) ++ (List.range 16).map (bundle1 b + ·) ++ (List.range 16).map (bundle2 b + ·)
    links.foldl (fun s n => s.setLink n (fun _ => {})) (s.setBent b (fun x => { x with sillPresent := false, sillLock := false, transit := false }))) s
  (List.range 4).foldl (fun s b => s.setBent b (fun x =>
    { x with absentLams := (List.range 6).filter (fun n => absent.contains (16 + 8 * b + n)) })) s

/-- The bootstrap queue pairs of the ports come into existence (R357, R431). -/
def openBoots (s : State) : State := (portsOf s).foldl (fun s p => startBoot p (settingOf s 2 p 9) s) s

/-- READY or the stop: the time it took. -/
def stampBoot (s : State) : State :=
  spend 1 (s.onKp (fun k => { k with
    raising := false, bootMs := (keeperNow s - k.t0) / 25000, bootStamp := Config.stamp (drawNo s) % 2 ^ 64 }))

def topologyStage (absent : List Nat) (s : State) : State :=
  let s := noteAbsent absent s
  let fault := if s.kp.faultKind ≠ 0 then some (s.kp.faultKind, s.kp.faultIndex) else mismatch s absent
  match fault with
  | some f => openBoots (alertOn 0 (stampBoot (s.onKp (fun k => { k with faultKind := f.1, faultIndex := f.2, stage := 0xB }))))
  | none => toStage 5 s

def execBringupTopology (absent : List Nat) (s : State) : Host.Outcome State Fault Refusal :=
  atStage 4 (topologyStage absent) s

/-! ### RAISING, SLICES, TESTS, ZERO (R420, R442 to R445) -/

def execBringupRaising (s : State) : Host.Outcome State Fault Refusal :=
  atStage 5 (fun s => toStage 6 ((List.range 4).foldl (fun s b => startBent b (s.setBent b (fun x => { x with up := true }))) s)) s

/-- Pending copies run, the laminations leave self-refresh, and refresh starts in the normal band. -/
def execBringupSlices (s : State) : Host.Outcome State Fault Refusal :=
  atStage 6 (fun s => toStage 7 ((List.range 4).foldl (fun s b =>
    s.setBent b (fun x => { x with inSelfRefresh := false, refreshOn := true, hot := x.forceHot, coolSamples := 0 }))
    (runPending [0, 1, 2, 3] s))) s

/-- SELFTEST of the topology report: the joists of each bent that the self-test or the slice check retired. -/
def countSelfTest (s : State) : State :=
  (List.range 4).foldl (fun s b => s.setBent b (fun x =>
    { x with selfTestRetired := (s.kp.retired.filter (fun e => inBent b e.1 && decide (e.2 = 1))).length })) s

def addAbsentLams (l : List Nat) (s : State) : State :=
  (List.range 4).foldl (fun s b => s.setBent b (fun x =>
    { x with absentLams := (List.range 6).filter (fun n => x.absentLams.contains n || l.contains (8 * b + n)) })) s

/-- The outcomes that the retention record holds (R452, R453). -/
def keptOutcomes (s : State) : State :=
  match s.kp.retention with
  | none => s
  | some r => (addAbsentLams r.absentLams s).onEcc (fun x => { x with strobe := r.strobe, badSpares := r.badSpares, margin := r.margin })

/-- The three tests in their order; the fast path takes their outcomes from the retention record. -/
def testsStage (selfTestFailed sliceFailed absentLams : List Nat) (margin : Sweep (Nat × MarginOutcome)) (s : State) : State :=
  let s := if s.kp.fastPath then keptOutcomes s
    else
      let s := (selfTestFailed ++ sliceFailed).foldl (fun s j => retireJoist 1 j s) s
      (List.range 4).foldl (fun s b =>
        marginDone b ⟨margin.vddLam, (margin.outcomes.filter (fun m => m.1 = b)).map (fun m => m.2)⟩ s) (addAbsentLams absentLams s)
  toStage 8 (countSelfTest s)

def execBringupTests (selfTestFailed sliceFailed absentLams : List Nat) (margin : Sweep (Nat × MarginOutcome))
    (s : State) : Host.Outcome State Fault Refusal :=
  atStage 7 (testsStage selfTestFailed sliceFailed absentLams margin) s

/-- The bents whose TENANT_DATA flag is set are zeroed; the flag is cleared where MRAM may be written (R422). -/
def zeroStage (s : State) : State :=
  let due := (List.range 4).filter (fun b => mget false s.kp.tenantData b)
  let s := due.foldl (fun s b => zeroBent b s) s
  toStage 9 (if mramOpen s then s.onKp (fun k => { k with tenantData := [] }) else s)

def execBringupZero (s : State) : Host.Outcome State Fault Refusal := atStage 8 zeroStage s

/-! ### BROADCAST (R446 to R450) -/

/-- BROADCAST ends: the hub fixes the assignment of every bent. -/
def fixAssignment (s : State) : State :=
  let s := s.onKp (fun k => { k with hidden := unusable s, bcast := { k.bcast with active := false, fixed := true, missing := [] } })
  (List.range 4).foldl (fun s b => assignBent b s) s

/-- The reports of a round are in: it was the last that was needed, or the next repair round begins. -/
def afterRound (round : Nat) (missing : List (Nat × BitVec 32)) (s : State) : State :=
  if missing = [] then fixAssignment s
  else if 3 ≤ round then fixAssignment (missing.foldl (fun s e => retireUnloaded e.1 s) s)
  else resendUcode missing (s.onKp (fun k => { k with bcast := { active := true, round := round + 1, missing := missing } }))

def broadcastStage (missed : List (Nat × BitVec 32)) (s : State) : State :=
  let js := (List.range 4).flatMap (usableJoists s)
  let t := js.foldl (fun t j => reportJoist s missed j t) (sendBents [0, 1, 2, 3] s)
  afterRound 0 (stillMissing s js missed) t

def execBringupBroadcast (missed : List (Nat × BitVec 32)) (s : State) : Host.Outcome State Fault Refusal :=
  atStage 9 (fun s => if s.kp.bcast.active || s.kp.bcast.fixed then s else broadcastStage missed s) s

/-- A broadcast, or a reload of the joist, is in progress. -/
def takesPackets (s : State) (j : Nat) : Bool :=
  (s.kp.raising && decide (s.kp.stage = 9) && !s.kp.bcast.fixed) || (s.joist j).needsReload

def execUcodePacketRx (joist packet : Nat) (image : BitVec 32) (crcOk : Bool) (s : State) : Host.Outcome State Fault Refusal :=
  if takesPackets s joist && !(unusable s).contains joist && crcOk
      && decide (image = imageId s ∧ keyBent joist < 4 ∧ packet < s.kp.running.ucodeLen / 512) then
    .next (s.setJoist joist (fun x => { x with ucode := x.ucode ||| BitVec.ofNat 32 (2 ^ packet) }))
  else .next s

def execRepairRoundEnd (missed : List (Nat × BitVec 32)) (s : State) : Host.Outcome State Fault Refusal :=
  atStage 9 (fun s =>
    if !s.kp.bcast.active then s
    else
      let asked := s.kp.bcast.missing.map (fun e => e.1)
      let t := asked.foldl (fun t j => reportJoist s missed j t) s
      afterRound s.kp.bcast.round (stillMissing s asked missed) t) s

/-! ### READY (R431, R450, R452) -/

/-- The retention record: what TESTS has found. -/
def retentionNow (s : State) : Retention :=
  { retired := s.kp.retired.filter (fun e => e.2 ≠ 3), writtenAt := keeperNow s
    absentLams := (List.range 4).flatMap (fun b => (s.bent b).absentLams.map (fun n => 8 * b + n))
    strobe := s.ecc.strobe, badSpares := s.ecc.badSpares, margin := s.ecc.margin
    equal := s.lnk.map (fun e => (e.1, e.2.equal)), calib := s.net.engines.map (fun e => (e.1, e.2.calib))
    hubRepairs := s.kp.hubRepairs }

def readyStage (s : State) : State :=
  let s := s.onKp (fun k => { k with remapFixed := true, stage := 0xA, retention := some (retentionNow s) })
  snapshot (openBoots (stampBoot s))

def execBringupReady (s : State) : Host.Outcome State Fault Refusal :=
  atStage 9 (fun s => if s.kp.bcast.fixed then readyStage s else s) s

/-! ### The reload of one joist (R219, R451) -/

/-- A joist that reports packets missing after the third repair round is retired for this boot. -/
def reloadFailed (j : Nat) (s : State) : State :=
  let out := inService s j
  let s := retireUnloaded j (s.setJoist j (fun x => { x with needsReload := false, ucodeOk := false }))
  if out then bentOut (keyBent j) s else s

/-- The joist reports: it is complete, or the next repair round resends what it misses (R449). -/
def reloadReport (j : Nat) (missing : BitVec 32) (s : State) : State :=
  let all := BitVec.ofNat 32 (allPackets s)
  let m := missing &&& all
  if m = 0 then loadJoist s j s
  else if 3 ≤ (s.joist j).reloadRound then reloadFailed j s
  else resendUcode [(j, m)] (s.setJoist j (fun x => { x with ucode := all &&& ~~~m, reloadRound := x.reloadRound + 1 }))

def execJoistReload (joist : Nat) (missing : BitVec 32) (s : State) : Host.Outcome State Fault Refusal :=
  if (s.joist joist).needsReload && !(unusable s).contains joist then .next (reloadReport joist missing s) else .next s

end Sys2Proof.Machine
end

