-- ==== Sys2Proof/Machine/Links.lean ====
section
/-! DEFINITION. The die-to-die links while they carry traffic: the replay buffer of each direction (R22, R24), retirement
(R25, R26, R437, R459, R487), the transit domain's clock (R28 to R31), and the keeper link (R27). -/

namespace Sys2Proof.Machine

/-- LINK_REPLAY in force: the threshold, and the window in keeper cycles. -/
def replayLimit (s : State) : Nat := settingNum s 0 0 3
def replayWindow (s : State) : Nat := (settingOf s 0 0 3).getD 1 100000 * 25

/-! ### One direction of a link (R24) -/

/-- The sender fills its replay buffer of 48 flits from those that wait, in order. -/
def LinkEnd.refill (e : LinkEnd) : LinkEnd :=
  { held := e.held ++ e.queue.take (48 - e.held.length), queue := e.queue.drop (48 - e.held.length) }

/-- Flits given to the sender go behind those that it has not sent. -/
def LinkEnd.offer (l : List Flit) (e : LinkEnd) : LinkEnd := { e with queue := e.queue ++ l }.refill

/-- The oldest flit is acknowledged and leaves the replay buffer. -/
def LinkEnd.acked (e : LinkEnd) : LinkEnd := { e with held := e.held.drop 1 }.refill

/-- All flits not acknowledged, in their original order. -/
def LinkEnd.flits (e : LinkEnd) : List Flit := e.held ++ e.queue

def Link.dir (back : Bool) (l : Link) : LinkEnd := if back then l.rev else l.fwd
def Link.onDir (back : Bool) (f : LinkEnd → LinkEnd) (l : Link) : Link :=
  if back then { l with rev := f l.rev } else { l with fwd := f l.fwd }

/-! ### Where a link lies -/

/-- The bents at a link's ends: the lower one first; a hub link has one. -/
def linkBents (n : Nat) : List Nat :=
  if n < 16 then [0, 1] else if n < 32 then [2, 3] else if n < 48 then [0, 2] else if n < 64 then [1, 3] else [(n - 64) / 8]

/-- The transit domains at both ends of the link are clocked (R28, R30). -/
def linkClocked (s : State) (n : Nat) : Bool := (linkBents n).all (fun b => (s.bent b).transit)

/-- The links of a link's bundle. -/
def bundleOf (n : Nat) : List Nat :=
  if n < 64 then (List.range 16).map (n / 16 * 16 + ·) else (List.range 8).map ((n - 64) / 8 * 8 + 64 + ·)

/-- The links from bent x over a bridge to bent y, its XOR 1 or XOR 2 neighbour, and their direction. -/
def bridgeTo (x y : Nat) : List (Nat × Bool) :=
  (List.range 16).map (fun i => ((if y = xor1 x then bundle1 x else bundle2 x) + i, decide (y < x)))

/-- The links that traffic of an empty bundle takes first, and its direction there (R26): from a bent round the other two, from
a bent to the hub toward bent b XOR 1, itself over b XOR 2 where that bundle is empty, from the hub over the hub links of b XOR 1. -/
def detourOf (n : Nat) (back : Bool) : List (Nat × Bool) :=
  if n < 64 then
    let x := (linkBents n).getD (if back then 1 else 0) 0
    bridgeTo x (if n < 32 then xor2 x else xor1 x)
  else
    let b := (n - 64) / 8
    if back then (List.range 8).map (fun i => (hubLink (xor1 b) i, true)) else bridgeTo b (xor1 b) ++ bridgeTo b (xor2 b)

/-- Flits of a retired link are sent again, in their original order, on the lowest-numbered link that remains of its bundle, or
else of the detour's first bundle (R25, R26; DESIGN CHOICE, log entry 14). -/
def resend (n : Nat) (back : Bool) (l : List Flit) (s : State) : State :=
  match (bundleOf n).find? (linkUp s) with
  | some m => s.setLink m (Link.onDir back (LinkEnd.offer l))
  | none =>
    match (detourOf n back).find? (fun e => linkUp s e.1) with
    | some e => s.setLink e.1 (Link.onDir e.2 (LinkEnd.offer l))
    | none => s

/-! ### Retirement (R25, R26) -/

/-- A required element of R439 is lost through a link: a bent without a route to the hub, or bents that are not joined. -/
def linksBroken (s : State) : Bool :=
  (List.range 4).any (fun b => decide (hubRoute s b = 2)) || decide ((joined s).length < 4)

/-- A link leaves service until the next reset, and its flits go to the rest of its bundle; the device fails where the topology
no longer holds once the topology check has passed. -/
def retireLink (n : Nat) (s : State) : State :=
  let l := s.link n
  let s := s.setLink n (fun l => { l with state := 2, fwd := {}, rev := {}, replays := [] })
  let s := resend n true l.rev.flits (resend n false l.fwd.flits s)
  if linksBroken s ∧ 5 ≤ s.kp.stage ∧ s.kp.stage ≤ 0xA then (enterFailed 2 s).onKp (fun k => { k with raising := false }) else s

/-! ### A flit arrives (R24) -/

/-- A flit that passes its check is delivered, in order, and acknowledged. -/
def flitGood (n : Nat) (back : Bool) (f : Flit) (s : State) : State :=
  ((s.setLink n (Link.onDir back LinkEnd.acked)).send (.flit n back f)).send (.flitAck n back)

/-- A flit that fails its check stays held: the sender resends from it on, and a link that replays too often is retired. -/
def flitBad (n : Nat) (back : Bool) (s : State) : State :=
  let now := keeperNow s
  let recent := ((s.link n).replays.filter (fun t => decide (now < t + replayWindow s))) ++ [now]
  let s := (s.setLink n (fun l => { l with replays := recent })).send (.flitReplay n back ((s.link n).dir back).held.length)
  if replayLimit s < recent.length then retireLink n s else s

/-- Links 0 to 95 in the order of R441, in one of their two directions; only a link in service, clocked at both ends, carries
flits. A flit that the sender has just been given goes behind those that it holds; the oldest held one is what arrives. -/
def execLinkFlitRx (link : Nat) (rx : FlitRx) (s : State) : Host.Outcome State Fault Refusal :=
  if link < 96 ∧ linkUp s link ∧ linkClocked s link then
    let s := s.setLink link (Link.onDir rx.back (LinkEnd.offer rx.given.toList))
    match ((s.link link).dir rx.back).held with
    | [] => .next s
    | f :: _ => .next (if rx.crcOk then flitGood link rx.back f s else flitBad link rx.back s)
  else .next s

/-- A keeper-link message that fails authentication is logged and has no effect; one that passes carries a request whose effect
is that of the command or event it belongs to. -/
def execKeeperLinkMessage (authOk : Bool) (s : State) : Host.Outcome State Fault Refusal :=
  if authOk then .next s else .next (logEvent 0x0003 0 [] s)

end Sys2Proof.Machine
end

