-- ==== Sys2Proof/Machine/Sensors.lean ====
section
/-! DEFINITION. Temperature: the sensor sites (R491 to R496), the thermal loop of a bent (R504), the refresh band (R164), thermal
cycles (R511), the trips (R497 to R501) with their ends, and the drop (R508). Temperatures are in 1/16 °C. -/

namespace Sys2Proof.Machine

/-! ### Sites (R491) -/

def sillSites (b : Nat) : List Nat := (List.range 48).map (b * 128 + ·)
def lamSite (b n q : Nat) : Nat := b * 128 + 48 + 4 * n + q
def lamSites (b n : Nat) : List Nat := (List.range 4).map (lamSite b n)
def capSites (b : Nat) : List Nat := [b * 128 + 72, b * 128 + 73]
def hubSites : List Nat := (List.range 6).map (512 + ·)
def engineSites (e : Nat) : List Nat := [520 + 2 * e, 521 + 2 * e]
def keeperSite : Nat := 540

/-- The quadrant of a sill site of the 8 × 6 grid: its half of the rows and of the columns (DEDUCED, log entry 51). -/
def sillQuadrant (k : Nat) : Nat := 2 * (k / 6 / 4) + k % 6 / 3

/-- The neighbours of a site. -/
def neighbours (i : Nat) : List Nat :=
  if i < 512 then
    let b := i / 128
    let k := i % 128
    if k < 48 then
      (if 6 ≤ k then [i - 6] else []) ++ (if k < 42 then [i + 6] else []) ++ (if k % 6 ≠ 0 then [i - 1] else [])
        ++ (if k % 6 ≠ 5 then [i + 1] else [])
    else if k < 72 then
      let n := (k - 48) / 4
      let q := (k - 48) % 4
      (if n = 0 then (List.range 48).filterMap (fun m => if sillQuadrant m = q then some (b * 128 + m) else none)
        else [lamSite b (n - 1) q]) ++ (if n < 5 then [lamSite b (n + 1) q] else [])
    else (capSites b).filter (fun x => x ≠ i) ++ lamSites b 5
  else if i < 518 then hubSites.filter (fun x => x ≠ i)
  else if i < 540 then [if i % 2 = 0 then i + 1 else i - 1]
  else []

/-- The part that a site's events name. -/
def siteSource (i : Nat) : Nat := if i < 512 then 0x10 + i / 128 else if i < 518 then 1 else if i < 540 then 0x20 + (i - 520) / 2 else 0

/-! ### One sample of a pair (R493, R494) -/

/-- Broken: 0 outside −20 °C to 150 °C, 1 stuck over 256 samples while the rail's power changed by more than 10 per cent. -/
def brokenNow (raw : Int) (same : Nat) (powers : List Nat) : Option Nat :=
  if raw < -320 ∨ 2400 < raw then some 0
  else if 256 ≤ same then
    match powers.head?, powers[255]? with
    | some last, some first => if first < 10 * (last - first) ∨ first < 10 * (first - last) then some 1 else none
    | _, _ => none
  else none

/-- Consecutive samples with one raw value. -/
def sameRun (x : Site) (old new : Int) (n : Nat) : Nat := if x.powers ≠ [] ∧ old = new then n + 1 else 1

/-- A site takes a reading of both sensors. -/
def judgePair (r : SiteReading) (x : Site) : Site :=
  let x := { x with sameA := sameRun x x.a r.a x.sameA, sameB := sameRun x x.b r.b x.sameB, a := r.a, b := r.b
                    powers := (r.power :: x.powers).take 256 }
  let x := { x with
    brokenA := x.brokenA || (brokenNow x.a x.sameA x.powers).isSome
    brokenB := x.brokenB || (brokenNow x.b x.sameB x.powers).isSome }
  if x.brokenA || x.brokenB then x
  else
    let far := decide (96 < x.a - x.b ∨ 96 < x.b - x.a)
    let x := { x with apart := if far then x.apart + 1 else 0, together := if far then 0 else x.together + 1 }
    { x with disagree := if 4 ≤ x.apart then true else if 4 ≤ x.together then false else x.disagree }

/-- A sensor that has just broken is logged. -/
def logBroken (site sensor : Nat) (was : Bool) (cause : Option Nat) (s : State) : State :=
  match was, cause with
  | false, some c => logEvent 0x0008 (siteSource site) [(site : Int), sensor, c] (s.onThm (fun t => { t with sensorBroken := true }))
  | _, _ => s

def sampleSite (r : SiteReading) (s : State) : State :=
  let old := s.site r.site
  let new := judgePair r old
  let s := s.setSite r.site (fun _ => new)
  let s := logBroken r.site 0 old.brokenA (brokenNow new.a new.sameA new.powers) s
  let s := logBroken r.site 1 old.brokenB (brokenNow new.b new.sameB new.powers) s
  if !old.disagree && new.disagree then
    logEvent 0x0009 (siteSource r.site) [(r.site : Int), r.a, r.b] (s.onThm (fun t => { t with sensorDisagree := true }))
  else s

/-! ### The value of a site and of a die (R492, R494, R495) -/

/-- What a site's own sensors give. -/
def ownValue (x : Site) : Option Int :=
  match x.brokenA, x.brokenB with
  | true, true => none
  | true, false => some x.b
  | false, true => some x.a
  | false, false => some (if x.disagree then max x.a x.b else (x.a + x.b) / 2)

def maxOf : List Int → Option Int
  | [] => none
  | x :: xs => some (xs.foldl max x)

/-- A site through its own sensors or its valid neighbours. -/
def nearValue (s : State) (i : Nat) : Option Int :=
  match ownValue (s.site i) with
  | some v => some v
  | none => (maxOf ((neighbours i).filterMap (fun k => ownValue (s.site k)))).map (· + 80)

/-- The temperature of a die: the largest over its sites; a site without a valid neighbour reads the die's own plus 5 °C, and a die
without a valid site stands at its trip temperature. -/
def dieTemp (s : State) (sites : List Nat) (trip : Int) : Int :=
  if (sites.filterMap (fun i => ownValue (s.site i))) = [] then trip
  else
    let near := sites.map (nearValue s)
    let top := (maxOf (near.filterMap id)).getD trip
    if near.contains none then top + 80 else top

/-- The first site of a die at or above its trip temperature, with its reading. -/
def tripping (s : State) (sites : List Nat) (trip : Int) : Option (Nat × Int) :=
  if (sites.filterMap (fun i => ownValue (s.site i))) = [] then sites.head?.map (fun i => (i, trip))
  else (sites.find? (fun i => decide (trip ≤ (nearValue s i).getD (dieTemp s sites trip)))).map (fun i =>
    (i, (nearValue s i).getD (dieTemp s sites trip)))

def sillTrip : Int := 115 * 16
def lamTrip : Int := 100 * 16
def sillTempOf (s : State) (b : Nat) : Int := dieTemp s (sillSites b) sillTrip
def lamTempOf (s : State) (b : Nat) : Int :=
  (maxOf ((List.range 6).map (fun n => dieTemp s (lamSites b n) lamTrip))).getD lamTrip

/-- What trips a bent: a sill site, or a site of one of its laminations. -/
def bentTripping (s : State) (b : Nat) : Option (Nat × Int) :=
  (tripping s (sillSites b) sillTrip).or ((List.range 6).findSome? (fun n => tripping s (lamSites b n) lamTrip))

/-! ### Sampling intervals (R496) -/

/-- The class of a distance from the throttle point: 0 500 µs, 1 62.5 µs, 2 15.6 µs. -/
def intervalOf (distance : Int) : Nat := if 160 < distance then 0 else if 48 < distance then 1 else 2
/-- Groups: bents 0 to 3, the hub 4, engines 5 to 10, the keeper 11. -/
def setInterval (g : Nat) (distance : Int) (s : State) : State :=
  s.onThm (fun t => { t with interval := mset 0 t.interval g (intervalOf distance) })

/-! ### A sample of a bent (R164, R504, R511) -/

/-- The thermal loop. -/
def thermLoop (sill lam limit : Int) (x : Bent) : Bent :=
  if limit < sill ∨ 95 * 16 < lam then { x with lTherm := min 32 (x.lTherm + 1), coolRun := 0 }
  else if sill ≤ limit - 32 ∧ lam ≤ 93 * 16 then
    if 32 ≤ x.coolRun + 1 then { x with lTherm := x.lTherm - 1, coolRun := 0 } else { x with coolRun := x.coolRun + 1 }
  else { x with coolRun := 0 }

/-- The refresh band: hot at 85 °C, normal again after two samples below 83 °C. -/
def bandOf (lam : Int) (x : Bent) : Bent :=
  if 85 * 16 ≤ lam then { x with hot := true, coolSamples := 0 }
  else if lam < 83 * 16 then
    { x with coolSamples := min 2 (x.coolSamples + 1), hot := x.forceHot || (x.hot && decide (x.coolSamples + 1 < 2)) }
  else { x with coolSamples := 0 }

/-- A thermal cycle of the sill: a rise of more than 40 °C, then a fall of more than 40 °C. Whether one was completed. -/
def cycleStep (t : Int) (x : Bent) : Bent × Bool :=
  let low := match x.cycLow with | some l => min l t | none => t
  match x.cycHigh with
  | none => ({ x with cycLow := some low, cycHigh := if low + 640 < t then some t else none }, false)
  | some h =>
    let h := max h t
    if t + 640 < h then ({ x with cycLow := some t, cycHigh := none }, true) else ({ x with cycHigh := some h }, false)

/-- The count goes to the bent's MRAM total, or waits for the temperature window (R422). -/
def countCycle (b : Nat) (s : State) : State :=
  let opn := mramOpen s
  s.onKp (fun k =>
    if opn then { k with cycleTotals := mmod 0 k.cycleTotals b (fun n => (n + 1) % 2 ^ 32) }
    else if queuedMram k < 256 then { k with cyclesQueued := mmod 0 k.cyclesQueued b (· + 1) }
    else { k with logLost := k.logLost + 1 })

/-- A bent trips (R459, R498, R520): during bring-up the trip stops it; under a partition reset it waits for the reset's end. -/
def tripBent (b : Nat) (at_ : Nat × Int) (s : State) : State :=
  if (s.bent b).tripped then s
  else
    let s := logEvent 0x000A (0x10 + b) [(b : Int), at_.1, at_.2] (alertOn 4 (s.setBent b (fun x => { x with tripped := true })))
    let s := s.onKp (fun k => { k with retention := k.retention.map (fun r => { r with tripSince := true }) })
    let s := noteSteps (syncPegs s)
    if s.kp.stage < 0xA ∨ s.kp.stage = 0xB then selfRefresh b (stopBent 120 b (s.onKp (fun k => { k with raising := false })))
    else if (bentsInReset s).contains b then
      s.onPwr (fun p => { p with resets := p.resets.map (fun r => if r.bents.contains b then { r with tripped := r.tripped ++ [b] } else r) })
    else beginTrip b s

/-- A sample of a bent's sill and laminations. -/
def sampleBent (b : Nat) (s : State) : State :=
  if s.kp.stage < 2 ∨ s.kp.stage = 0xD ∨ (s.bent b).sillPresent = false then s
  else
    let sill := sillTempOf s b
    let lam := lamTempOf s b
    let limit := sillLimit s b * 16
    let c := cycleStep sill (s.bent b)
    let s := s.setBent b (fun x =>
      let x := bandOf lam (thermLoop sill lam limit x)
      { x with sillT := sill, lamT := lam, cycLow := c.1.cycLow, cycHigh := c.1.cycHigh })
    let s := if c.2 then countCycle b s else s
    let s := noteSteps (syncPegs (setInterval b (min (limit - sill) (95 * 16 - lam)) s))
    match bentTripping s b with
    | some t => tripBent b t s
    | none => s

/-! ### The drop (R508), the hub, the engines and the keeper (R499 to R501) -/

/-- A partition reset that a drop ends: what it held back and its requests complete with E_THROTTLED_TRIP. -/
def cutReset (r : PReset) (s : State) : State :=
  let s := r.bents.foldl (fun s b => s.setBent b (fun x => { x with isFenced := false, heldLevel := none })) s
  let s := r.late.foldl (fun s e => finish e.1 e.2.1 { e.2.2 with status := .throttledTrip } s) s
  r.cxs.foldl (fun s c => finish c 0x0081 { status := .throttledTrip } s) s
def cutMargin (b : Nat) (s : State) : State :=
  match (s.bent b).margining with
  | none => s
  | some cx => finish cx 0x00B4 { status := .throttledTrip } (s.setBent b (fun x => { x with margining := none }))

/-- ACLK stops in every bent at the emergency rate, the laminations refresh themselves, and every step ends. -/
def stopAll (s : State) : State :=
  let s := (List.range 4).foldl (fun s b => selfRefresh b (stopTransit b (stopBent 120 b s))) s
  let s := endAllSteps .throttledTrip s
  let l := s.pwr.resets
  let s := s.onPwr (fun p => { p with resets := [] })
  (List.range 4).foldl (fun s b => cutMargin b s) (l.foldl (fun s r => cutReset r s) s)

/-- A drop: COOLANT_LOSS is latched until VDD_KEEP is removed, and bring-up stays stopped. -/
def drop (s : State) : State :=
  if s.kp.coolantLoss then s
  else ((stopAll s).onKp (fun k => { k with coolantLoss := true, raising := false })).onPwr (fun p => { p with thermtrip := true })

/-- A hub trip: a drop that latches nothing, with the hub held in reset. -/
def tripHub (s : State) : State :=
  if s.thm.hubTripped then s
  else (((stopAll s).onKp (fun k => { k with hubHeld := true, raising := false })).onThm (fun t => { t with hubTripped := true })).onPwr
    (fun p => { p with thermtrip := true, hubLock := false })

def sampleHub (s : State) : State :=
  let t := dieTemp s hubSites (110 * 16)
  let s := setInterval 4 (100 * 16 - t) (s.onThm (fun x => { x with hubT := t }))
  let s := if 100 * 16 < t then alertOn 6 s else alertOff 6 s
  if (tripping s hubSites (110 * 16)).isSome then tripHub s else s

/-- An engine trip: its laser enable goes, it is powered down, its ports go down. -/
def tripEngine (e : Nat) (s : State) : State :=
  if (s.engine e).tripped then s
  else dropEnginePorts e (s.setEngine e (fun x => { x with tripped := true, laserOn := false, pllLock := false }))

def sampleEngine (e : Nat) (s : State) : State :=
  let t := dieTemp s (engineSites e) (95 * 16)
  let s := setInterval (5 + e) (85 * 16 - t) (s.setEngine e (fun x => { x with temp := t }))
  let s := if (List.range 6).any (fun k => decide (85 * 16 < (s.engine k).temp)) then alertOn 7 s else alertOff 7 s
  if (tripping s (engineSites e) (95 * 16)).isSome then tripEngine e s else s

/-- The keeper's temperature: without a sensor of its own, the hub's plus 5 °C. -/
def keeperTemp (s : State) : Int := (ownValue (s.site keeperSite)).getD (s.thm.hubT + 80)

def sampleKeeper (s : State) : State :=
  let t := keeperTemp s
  let s := setInterval 11 (95 * 16 - t) (s.onThm (fun x => { x with keeperT := t }))
  let s := if 95 * 16 < t then alertOn 8 s else alertOff 8 s
  if 105 * 16 ≤ t ∧ !s.kp.keeperTrip then
    (holdDies 120 (s.onKp (fun k => { k with keeperTrip := true }))).onPwr (fun p => { p with thermtrip := true })
  else s

/-! ### SENSOR_SAMPLE and CAP_SAMPLE -/

/-- A site of the device. -/
def siteExists (i : Nat) : Bool := decide (i % 128 < 74 ∧ i < 512) || decide (512 ≤ i ∧ i < 518) || decide (520 ≤ i ∧ i < 532) || decide (i = 540)

/-- The groups of which a sample holds readings are judged. -/
def judgeGroups (ids : List Nat) (s : State) : State :=
  let s := ((List.range 4).filter (fun b => ids.any (fun i => decide (i < 512 ∧ i / 128 = b ∧ i % 128 < 72)))).foldl (fun s b => sampleBent b s) s
  let s := if ids.any (fun i => decide (512 ≤ i ∧ i < 518)) then sampleHub s else s
  let s := (((List.range 6).filter (enginePresent s)).filter (fun e => ids.any (fun i => decide (i / 2 = 260 + e)))).foldl
    (fun s e => sampleEngine e s) s
  if ids.contains keeperSite then sampleKeeper s else s

def execSensorSample (readings : List SiteReading) (s : State) : Host.Outcome State Fault Refusal :=
  let l := readings.filter (fun r => siteExists r.site)
  .next (judgeGroups (l.map (fun r => r.site)) (l.foldl (fun s r => sampleSite r s) s))

/-- A cap site's rate of rise over four samples is above 3 °C per ms (R508). -/
def fastRise (v : Int) (x : Site) : Bool :=
  match x.history[3]? with
  | some old => decide (12 < v - old)
  | none => false

/-- A cap site's last readings, and how often in a row its rate of rise was above the limit (R508). -/
def riseStep (v : Int) (x : Site) : Site :=
  { x with history := (v :: x.history).take 4, steep := if fastRise v x then x.steep + 1 else 0 }

def execCapSample (bent : Nat) (readings : List SiteReading) (s : State) : Host.Outcome State Fault Refusal :=
  onBent bent (fun s =>
    let l := readings.filter (fun r => (capSites bent).contains r.site)
    let s := l.foldl (fun s r => sampleSite r s) s
    let value (i : Nat) : Int := (nearValue s i).getD ((s.bent bent).capT + 80)
    let vs := (capSites bent).map (fun i => (i, value i))
    let s := vs.foldl (fun s e => s.setSite e.1 (riseStep e.2)) s
    let s := s.setBent bent (fun x => { x with capT := (maxOf (vs.map (fun e => e.2))).getD x.capT })
    if (capSites bent).any (fun i => decide (2 ≤ (s.site i).steep)) then drop s else s) s

/-! ### The ends of trips (R459, R498 to R500) -/

/-- Sill and laminations are at or below their clearing temperatures. -/
def bentCool (s : State) (b : Nat) : Bool := decide ((s.bent b).sillT ≤ (sillLimit s b - 15) * 16 ∧ (s.bent b).lamT ≤ 80 * 16)

/-- The partition reset that ends a trip; a bring-up that a trip has stopped starts again without the fast path. -/
def execBentTripClear (bent : Nat) (s : State) : Host.Outcome State Fault Refusal :=
  onBent bent (fun s =>
    if !(s.bent bent).tripped || !bentCool s bent || s.kp.coolantLoss then s
    else if s.kp.stage = 0xA ∨ s.kp.stage = 0xC then
      if (bentsInReset s).contains bent then s else requestReset [bent] 2 none s
    else if s.kp.raising = false ∧ s.kp.stage < 0xA then warmReset 40 true s
    else s) s

def execHubTripClear (s : State) : Host.Outcome State Fault Refusal :=
  if s.thm.hubTripped ∧ s.thm.hubT ≤ 85 * 16 then .next (warmReset 40 true s) else .next s

/-- A cooled engine calibrates again and, where that passes, is lit. -/
def execEngineTripClear (engine : Nat) (calOk : Bool) (s : State) : Host.Outcome State Fault Refusal :=
  onEngine engine (fun s =>
    if (s.engine engine).tripped ∧ (s.engine engine).temp ≤ 70 * 16 then
      lightLasers (s.setEngine engine (fun x => { x with tripped := false, pllLock := calOk, state := if calOk then 0 else 1 }))
    else s) s

end Sys2Proof.Machine
end

