-- ==== Sys2Proof/Machine/Clocks.lean ====
section
/-! DEFINITION. Losses of lock and of the reference clock (R525), the pins PWROK and RST_N and the always-on rail (R529 to R531), and
the loss of a port's light (R539). -/

namespace Sys2Proof.Machine

/-! ### REFCLK and the hub PLL -/

/-- Every bent stops, ALERT_N is asserted, the loss is logged, and every die but the keeper is held in reset. -/
def loseClock (hubPll : Bool) (s : State) : State :=
  let s := if hubPll then s else s.onPwr (fun p => { p with refclk := false })
  logEvent 0x000F (if hubPll then 1 else 0) [if hubPll then 1 else 0] (alertOn 5 (holdDies 120 s))

def execRefclkLoss (hubPll : Bool) (s : State) : Host.Outcome State Fault Refusal :=
  if s.pwr.pwrok then .next (loseClock hubPll s) else .next s

/-- The warm device reset without the fast path. -/
def execRefclkValid (s : State) : Host.Outcome State Fault Refusal :=
  if s.pwr.alerts.contains 5 ∧ s.pwr.pwrok then
    .next (warmReset 120 true (alertOff 5 (s.onPwr (fun p => { p with refclk := true }))))
  else .next s

/-! ### Sill and engine PLLs -/

/-- The bent's clocks stop, and its laminations refresh themselves. -/
def loseSill (b : Nat) (s : State) : State :=
  ownRefresh b (stopTransit b (stopBent 120 b ((s.setBent b (fun x => { x with sillLock := false })).onPwr (fun p => { p with pllLoss := true }))))

def execSillPllLoss (bent : Nat) (s : State) : Host.Outcome State Fault Refusal :=
  onBent bent (fun s => if (s.bent bent).sillLock then loseSill bent s else s) s

/-- A bay on a bent that leaves service: its steps end, and it is released. -/
def abandonBay (bay : Nat) (s : State) : State :=
  let s := match runningStep s bay with
    | some x => haltStep .reset x s
    | none => s
  releaseBay bay s

/-- The PLL has failed three times: the bent leaves service until the next bring-up. -/
def giveUpSill (b : Nat) (s : State) : State := bentOut b ((baysOnBents s [b]).foldl (fun s n => abandonBay n s) s)

/-- The PLL has locked: a partition reset of the bent, or, before READY, its clocks as they were. -/
def relockSill (b : Nat) (s : State) : State :=
  let s := startTransit b s
  if s.kp.stage = 0xA ∨ s.kp.stage = 0xC then requestReset [b] 0 none s
  else if (s.bent b).up ∧ !(s.bent b).tripped then startBent b (if 7 ≤ s.kp.stage ∧ s.kp.stage < 0xA then resumeRefresh b s else s)
  else s

def execSillPllRelock (bent failures : Nat) (s : State) : Host.Outcome State Fault Refusal :=
  onBent bent (fun s =>
    if (s.bent bent).sillLock || decide (s.kp.stage < 3 ∨ s.kp.stage = 0xD) || decide (5 ≤ s.pwr.retain) then s
    else if 3 ≤ failures then giveUpSill bent s
    else relockSill bent s) s

def execEnginePllLoss (engine : Nat) (s : State) : Host.Outcome State Fault Refusal :=
  onEngine engine (fun s =>
    if (s.engine engine).pllLock then
      dropEnginePorts engine ((s.setEngine engine (fun x => { x with pllLock := false, laserOn := false })).onPwr
        (fun p => { p with pllLoss := true }))
    else s) s

/-- It calibrates again and, where that passes, is lit. -/
def execEnginePllRelock (engine : Nat) (calOk : Bool) (s : State) : Host.Outcome State Fault Refusal :=
  onEngine engine (fun s =>
    if (s.engine engine).pllLock || (s.engine engine).tripped || decide ((s.engine engine).state ≠ 0)
        || decide (2 ≤ s.pwr.retain ∧ s.pwr.retain ≤ 7) then s
    else lightLasers (s.setEngine engine (fun x => { x with pllLock := calOk, state := if calOk then 0 else 1 }))) s

/-! ### Pins and rails -/

/-- T0 of a cold bring-up. -/
def execPwrokRise (s : State) : Host.Outcome State Fault Refusal :=
  if s.pwr.pwrok then .next s
  else .next (startRaise true false (s.onPwr (fun p => { p with pwrok := true, rstN := true, vddKeep := true, refclk := true })))

/-- The rails fall: an emergency stop, every die but the keeper held, and the slices lose what they hold. -/
def powerOff (s : State) : State :=
  let s := holdDies 120 (s.onPwr (fun p => { p with pwrok := false }))
  (s.onMem (fun _ => {})).onBnt (fun m => m.map (fun e => (e.1, { e.2 with inSelfRefresh := false })) |>.filter (fun e => e.2 ≠ {}))

def execPwrokFall (s : State) : Host.Outcome State Fault Refusal := if s.pwr.pwrok then .next (powerOff s) else .next s

def execRstNAssert (s : State) : Host.Outcome State Fault Refusal :=
  if s.pwr.pwrok ∧ !s.kp.keeperTrip then .next (warmReset 40 false s) else .next s

/-- The keeper loses what it does not hold in MRAM or fuses: the latched trips, keeper SRAM, its time. -/
def keeperOff (k : Keeper) : Keeper :=
  { keeperHeld k with
    loaded := false, logQueue := [], logLost := 0, cyclesQueued := [], coolantLoss := false, keeperTrip := false, randomOk := true
    boots := k.bootsStored, retention := none, running := {}, fullTests := false, coldStart := true, t0 := 0 }

def execVddKeepRemoved (s : State) : Host.Outcome State Fault Refusal :=
  let s := (powerOff s).onKp keeperOff
  .next ((s.onPwr (fun p => { p with vddKeep := false, thermtrip := false, alerts := [] })).onClk (fun c => { c with t := 0 })
    |>.onThm (fun t => { t with keeperT := 0, thermistor := 0 }))

/-- A port goes dark: light on it may wake the device once it has been dark for 10 ms. -/
def execPortLightLoss (port : Nat) (s : State) : Host.Outcome State Fault Refusal :=
  onPort port (fun s => s.setPort port (fun x => { x with lit := false })) s

end Sys2Proof.Machine
end

