-- ==== Sys2Proof/Machine/Reduce.lean ====
section
/-! DEFINITION. The brace tree of a bay (R117 to R122), the REDUCE stage (R124, R128 to R131) and the device levels of
REDUCE and CULL (R123, R125, R126, R480). -/

namespace Sys2Proof.Machine

/-! ### The tree -/

/-- ⌈log2 n⌉. -/
def clog2 (n : Nat) : Nat := if n ≤ 1 then 0 else Nat.log2 (n - 1) + 1

/-- The merges of one bent's tree, receiver first, by bay joist index from a base on: row levels, then column levels. -/
def bentPairs (w h base : Nat) : List (Nat × Nat) :=
  (List.range (clog2 w)).flatMap (fun k => (List.range h).flatMap (fun y => (List.range w).filterMap (fun x =>
    if x % 2 ^ (k + 1) = 0 ∧ x + 2 ^ k < w then some (base + y * w + x, base + y * w + x + 2 ^ k) else none)))
  ++ (List.range (clog2 h)).flatMap (fun k => (List.range h).filterMap (fun y =>
    if y % 2 ^ (k + 1) = 0 ∧ y + 2 ^ k < h then some (base + y * w, base + (y + 2 ^ k) * w) else none))

/-- The representative of a pair of bents (R121). -/
def pairRep (bents : List Nat) (b : Nat) : Option Nat := bents.find? (fun x => x / 2 = b / 2)

/-- The merges between the roots of the bents: the XOR 1 level, then the XOR 2 level. -/
def crossPairs (bents : List Nat) : List (Nat × Nat) :=
  ([0, 2].filterMap (fun b => if bents.contains b && bents.contains (b + 1) then some (b, b + 1) else none))
  ++ (match pairRep bents 0, pairRep bents 2 with | some a, some b => [(a, b)] | _, _ => [])

/-- Every merge of a bay's tree in order; the root is bay joist index 0. -/
def treePairs (y : Bay) : List (Nat × Nat) :=
  let bents := bayBents y
  let n := y.w * y.h
  (List.range bents.length).flatMap (fun i => bentPairs y.w y.h (i * n))
    ++ (crossPairs bents).map (fun p => (bents.idxOf p.1 * n, bents.idxOf p.2 * n))

/-- Levels of a bay's tree, counted from the first row level, and so the number of its first device level (R124); a level
between bents that the bay does not have is not counted (DESIGN CHOICE, log entry 86). -/
def treeDepth (y : Bay) : Nat :=
  let bents := bayBents y
  clog2 y.w + clog2 y.h
    + (if [0, 2].any (fun b => bents.contains b && bents.contains (b + 1)) then 1 else 0)
    + (if (pairRep bents 0).isSome && (pairRep bents 2).isSome then 1 else 0)

/-- A value for each joist, merged down the tree: what each joist then holds, the root's first. -/
def treeFold (f : α → α → α) (pairs : List (Nat × Nat)) (vals : List α) : List α :=
  pairs.foldl (fun l p => match l[p.2]? with | some v => l.modify p.1 (fun a => f a v) | none => l) vals

/-! ### Outputs -/

/-- Bytes of an output at an offset from DST. -/
structure Piece where
  off : Nat
  bytes : List Byte
  poison : Bool := false
  deriving DecidableEq, Repr

/-- Writes outputs at DST of a joist: bytes first, then the poison of the words that carry it. -/
def writePieces (j dst : Nat) (l : List Piece) (s : State) : State :=
  let s := l.foldl (fun s p => storeBench j (dst + p.off) p.bytes false s) s
  l.foldl (fun s p => if p.poison then storeBench j (dst + p.off) p.bytes true s else s) s

/-- The stream of outputs: 64-byte flits, bytes that no piece fills zero (R130). -/
def flitsOf (n : Nat) (l : List Piece) : List Byte :=
  (List.range n).map (fun i => ((l.find? (fun p => decide (p.off ≤ i ∧ i < p.off + p.bytes.length))).bind (fun p =>
    p.bytes[i - p.off]?)).getD 0)
/-- The pieces of a stream at given offsets and lengths. -/
def piecesOf (places : List (Nat × Nat)) (flits : List Byte) : List Piece :=
  places.map (fun e => { off := e.1, bytes := (flits.drop e.1).take e.2 })
/-- Thirty-two-bit words and bytes. -/
def wordBytes (l : List Word) : List Byte := l.flatMap (fun w => leBytes 4 w.toNat)
def bytesWords (l : List Byte) : List Word := (List.range (l.length / 4)).map (fun i => BitVec.ofNat 32 (leNat ((l.drop (4 * i)).take 4)))

/-! ### SUM_DATUM -/

/-- The units that a sum closes: the groups, or the even groups of pairs (R130). -/
def redUnitList (d : RedDesc) : List Nat :=
  let l := sortNat d.groups
  if d.outFmt.isMx then l.filter (fun k => k % 2 = 0) else l

/-- Where a unit's bytes lie from DST on. -/
def unitPlaces (d : RedDesc) : List (Nat × Nat) :=
  (List.range (redUnitList d).length).flatMap (fun u =>
    if d.outFmt.isMx then [(64 * u, 4 * d.outFmt.bits), (64 * u + 32, 1)] else [(64 * u, 2 * d.outFmt.bits)])

/-- The groups of a closed unit: one, or an even-odd pair (R67). -/
def unitGroups (d : RedDesc) (k : Nat) : List Nat := if d.outFmt.isMx then [k, k + 1] else [k]

/-- Converts unit u at the root from its images in the close buffer (R94): its outputs, and its groups as their registers then show
them. For stochastic rounding the ordinal is
0 and the index counts elements by unit (DESIGN CHOICE, log entry 80: R71 speaks of a layout map, and R130's outputs have none). -/
def closeUnit (r : Run) (d : RedDesc) (j u k : Nat) (s : State) : List Piece × List (Nat × Group) :=
  if d.outFmt.isMx then
    let c := closeMx (closeImage s j 0) (closeImage s j 1) d.outFmt r.g.num 0 (fun i => 32 * u + i)
    ([{ off := 64 * u, bytes := leBytes (4 * d.outFmt.bits) (packCodes d.outFmt.bits c.2.1) },
      { off := 64 * u + 32, bytes := leBytes 1 c.1 }], [(k, c.2.2.1), (k + 1, c.2.2.2)])
  else
    let c := (closeImage s j 0).closeScalar d.outFmt r.g.num 0 (fun i => 16 * u + i)
    ([{ off := 64 * u, bytes := c.1.flatMap (leBytes (d.outFmt.bits / 8)) }], [(k, c.2)])

/-- Groups of a list of joists close without output. -/
def closeSilent (js groups : List Nat) (s : State) : State :=
  js.foldl (fun s j => groups.foldl (fun s k => s.setGroup j k (fun g => { g with isOpen := false })) s) s

/-- The groups of every joist, merged down the tree in place. -/
def mergeTree (r : Run) (groups : List Nat) (s : State) : State :=
  (treePairs r.y).foldl (fun s p =>
    match r.js[p.1]?, r.js[p.2]? with
    | some a, some b => groups.foldl (fun s k => s.setGroup a k (fun g => g.merge (s.group b k))) s
    | _, _ => s) s

/-- The closes of every joist, as an observed stage captures them. -/
def redCloses (r : Run) (groups : List Nat) (s : State) : List (Nat × Group) :=
  r.js.flatMap (fun j => groups.map (fun k => (j, s.group j k)))

/-- One unit closes at the root by way of the close buffer. -/
def closeOne (r : Run) (d : RedDesc) (j u k : Nat) (a : State × List Piece × List (Nat × Group)) :
    State × List Piece × List (Nat × Group) :=
  let ks := unitGroups d k
  let s := ks.foldl (fun s g => toCloseBuf j (s.group j g) s) a.1
  let c := closeUnit r d j u k s
  (fromCloseBuf j ks.length s, a.2.1 ++ c.1, a.2.2 ++ c.2)

/-- The root closes and the other joists close without output: the outputs, and the root's groups. -/
def closeRoot (r : Run) (d : RedDesc) (s : State) : State × List Piece × List Group :=
  let root := r.js.headD 0
  let us := ((redUnitList d).mapIdx (fun u k => (u, k))).foldl (fun a e => closeOne r d root e.1 e.2 a) (s, [], [])
  let s := closeSilent r.js d.groups us.1
  let s := us.2.2.foldl (fun s e => s.setGroup root e.1 (fun _ => e.2)) s
  (captureRun r (redCloses r d.groups s) s, us.2.1, us.2.2.map (fun e => e.2))

/-- The joists that the outputs reach. -/
def outJoists (r : Run) (toAll : Bool) : List Nat := if toAll then r.js else r.js.take 1

/-- One run of a sum within the device. A replay (R54) works on the groups that an earlier stage opened: they keep their datums, and
only the base datum reported rises (DESIGN CHOICE, log entry 77: R54 does not say what a replay of such a stage opens). -/
def redSum (r : Run) (d : RedDesc) (raise : Int) (s : State) : State × Summary :=
  let c := closeRoot r d (mergeTree r d.groups s)
  ((outJoists r d.toAll).foldl (fun s j => writePieces j d.dst c.2.1 s) c.1,
    summaryOf (r.g.num.datum + raise) (raise / 16).toNat c.2.2)

/-! ### FP32 operations -/

def redOp (op : RedOp) (a b : Word) : Word :=
  match op with
  | .maxFp32 => fmax a b
  | .minFp32 => fmin a b
  | _ => fadd a b

/-- A joist's vector with the poison of its words. -/
def redVector (s : State) (d : RedDesc) (j : Nat) : List (Word × Bool) :=
  (List.range d.elements).map (fun i =>
    loadedWord (BitVec.ofNat 32 (leNat (readMem s.mem false j (d.src + 4 * i) 4))) (badMem s.mem false j (d.src + 4 * i) 4))
def mergeVectors (op : RedOp) (a b : List (Word × Bool)) : List (Word × Bool) :=
  List.zipWith (fun x y => (redOp op x.1 y.1, x.2 || y.2)) a b

/-- The root's vector after the tree. -/
def treeVector (r : Run) (d : RedDesc) (s : State) : List (Word × Bool) :=
  (treeFold (mergeVectors d.op) (treePairs r.y) (r.js.map (redVector s d))).headD []

/-- The outputs of a vector: its bytes as one piece, and the poisoned words again. -/
def vectorPieces (v : List (Word × Bool)) : List Piece :=
  { off := 0, bytes := wordBytes (v.map (fun x => x.1)) } ::
    ((v.mapIdx (fun i x => (i, x))).filter (fun e => e.2.2)).map (fun e =>
      { off := 4 * e.1, bytes := leBytes 4 e.2.1.toNat, poison := true })

/-- NaN and poison of a result (R128, R131). -/
def vectorSummary (r : Run) (v : List (Word × Bool)) : Summary :=
  (({ datumFinal := r.g.num.datum } : Summary).withConv false (v.any (fun x => f32IsNan x.1))).withPoison (v.any (fun x => x.2))

/-- The result of an FP32 operation at the root of position 0. -/
def finishVector (r : Run) (d : RedDesc) (v : List (Word × Bool)) (s : State) : State × Active :=
  let m := vectorSummary r v
  ((outJoists r d.toAll).foldl (fun s j => writePieces j d.dst (vectorPieces v) s) s,
    { ix := r.ix, status := m.status, summary := m })

/-! ### Device levels (R123) -/

/-- The step's images name the stage, the level and the low 8 bits of the jig sequence count (R124). -/
def imageStep (x : Step) : Nat := x.jigSeq % 256

/-- The 208 bytes of a group image (R124). -/
def imageBytes (m : GroupImage) : List Byte :=
  leBytes 2 (signed 16 m.datum) ++ leBytes 1 (bit 0 m.ovf + bit 1 m.nan + bit 2 m.poison + bit 3 m.realign) ++ leBytes 1 m.group
    ++ leBytes 2 m.discard ++ leBytes 2 (match m.amax with | none => 0x8000 | some e => signed 16 e)
    ++ leBytes 4 (m.stage + m.level * 2 ^ 16 + m.step * 2 ^ 24) ++ leBytes 4 0
    ++ (List.range 16).flatMap (fun i => leBytes 12 (signed 96 (m.acc.getD i 0)))

/-- Sends bytes to the device at a position of the exchange list, the last write with an immediate (R381); the address
within the peer's window is a free value (DESIGN CHOICE, log entry 45). The status that ends the stage at once, or whether packets had to
wait for credits. A halted channel sends nothing (R131, R138, R220). -/
def sendDevice (r : Run) (e : Exch) (pos : Nat) (data : List Byte) (s : State) : State × Except Status Bool :=
  let k := e.list.getD pos 0
  if (s.bayOf r.bay).any (fun y => y.dmaHalted) then (s, .error .dmaUe) else
  match peerReady s r.y.tenancy k with
  | .error st => (s, .error st)
  | .ok (j, p) =>
    let va := Config.freeNat (drawNo s)
    let l := peerPackets p (scribeFor j p) e.peerBay e.landing va (some (r.x.jigSeq % 65536 + e.pos * 65536))
      (r.bay, r.x.id, r.ix) (data.length + 1) data
    let t := sendToPeer r.y.tenancy k l (spend 1 s)
    (t.1, .ok t.2)

/-- An exchange list is in use. -/
def exchReaches (e : Exch) : Bool := decide (2 ≤ e.count)

/-- An entry of the list names no entry of the tenancy's peer table, or no binding is in force (R381). -/
def exchLost (s : State) (t : Nat) (e : Exch) : Bool :=
  exchReaches e && e.list.any (fun k => (peerAt s t k).isNone)

/-- The highest device level at which a position takes part below the level n, as a list of the levels whose partner sends
to it, highest first. -/
def childLevels (e : Exch) (n : Nat) : List Nat :=
  ((List.range n).filter (fun k => decide (e.pos % 2 ^ (k + 1) = 0 ∧ e.pos + 2 ^ k < e.count))).reverse

/-- Passes the closed outputs on to the devices below this one (R130). -/
def sendDown (r : Run) (e : Exch) (n : Nat) (data : List Byte) (s : State) : State × Bool × Option Status :=
  (childLevels e n).foldl (fun a k =>
    let t := sendDevice r e (e.pos + 2 ^ k) data a.1
    match t.2 with
    | .ok waits => (t.1, a.2.1 || waits, a.2.2)
    | .error st => (t.1, a.2.1, a.2.2.or (some st))) (s, false, none)

/-- What a stage with device levels does with its result: what it sends up, and how it ends at position 0. -/
structure Levels where
  e : Exch
  toAll : Bool
  /-- the bytes that carry the result to the next device -/
  up : State → DeviceWait → List Byte
  /-- position 0: the outputs are written; their stream, and the stage's record -/
  top : DeviceWait → State → State × List Byte × Active
  /-- any other position: nothing is written, and the stage's record -/
  rest : DeviceWait → State → State × Active

/-- A stage's record once packets may wait for credits (R343). -/
def posted (a : Active) (waits : Bool) : Active := { a with posting := waits, finished := a.finished && !waits }

/-- The stage waits at a device level: an AWAIT of its step waits (R123, R311). -/
def awaitLevel (r : Run) (w : DeviceWait) (a : Active) (s : State) : State × Active :=
  (setStep r.x.id (fun z => { z with awaited := true }) s,
    { a with finished := false, device := some w, waiting := true, startedAt := hclkNow s })
/-- The wait of a stage at a device level is over, and is counted. -/
def endLevelWait (r : Run) (s : State) : State :=
  setStep r.x.id (fun z => match z.active.find? (fun a => a.ix = r.ix) with
    | none => z
    | some a => { z with
      awaitWait := sat 0xFFFFFFFF (z.awaitWait + a.waited s)
      active := z.active.map (fun b => if b.ix = r.ix then { b with waiting := false } else b) }) s

/-- The result climbs the device levels until it must wait for a partner, has been sent on, or is complete. -/
def climb (r : Run) (l : Levels) : Nat → DeviceWait → State → State × Active
  | 0, _, s => (s, r.failed .failed)
  | n + 1, w, s =>
    let k := w.level
    if l.e.count ≤ 2 ^ k then
      let t := l.top w s
      let d := if l.toAll then sendDown r l.e k t.2.1 t.1 else (t.1, false, none)
      match d.2.2 with
      | some st => (d.1, r.failed st)
      | none => (d.1, posted t.2.2 d.2.1)
    else if l.e.pos % 2 ^ (k + 1) = 0 then
      if l.e.pos + 2 ^ k < l.e.count then
        awaitLevel r w { ix := r.ix } s
      else climb r l n { w with level := k + 1 } s
    else
      let t := sendDevice r l.e (l.e.pos - 2 ^ k) (l.up s w) s
      match t.2 with
      | .error st => (t.1, r.failed st)
      | .ok waits =>
        let u := l.rest w t.1
        if l.toAll then awaitLevel r { w with back := true } (posted u.2 waits) u.1
        else (u.1, posted u.2 waits)

/-- The closed outputs have come back: they are passed on. -/
def goBack (r : Run) (l : Levels) (a : Active) (w : DeviceWait) (flits : List Byte) (s : State) : State × Active :=
  let d := sendDown r l.e w.level flits s
  match d.2.2 with
  | some st => (d.1, r.failed st)
  | none => (d.1, posted { a with device := none, finished := !a.posting } d.2.1)

/-! ### The stage -/

/-- The bytes that carry a vector to another device: a poisoned word travels as a NaN (DESIGN CHOICE, log entry 46). -/
def vectorUp (v : List (Word × Bool)) : List Word := v.map (fun x => if x.2 then qnan else x.1)

/-- The levels of a sum: the partial sums lie in the root's groups. -/
def sumLevels (r : Run) (d : RedDesc) : Levels :=
  let root := r.js.headD 0
  { e := d.exch
    toAll := d.toAll
    up := fun s w => (sortNat d.groups).flatMap (fun k =>
      imageBytes ((s.group root k).image r.ix (treeDepth r.y + w.level) (imageStep r.x) k) ++ List.replicate 48 0)
    top := fun _ s =>
      let c := closeRoot r d s
      let m := summaryOf r.g.num.datum 0 c.2.2
      ((outJoists r d.toAll).foldl (fun s j => writePieces j d.dst c.2.1 s) c.1,
        flitsOf (64 * redUnits d) c.2.1, { ix := r.ix, status := m.status, summary := m })
    rest := fun _ s =>
      let gs := d.groups.map (fun k => s.group root k)
      let m := summaryOf r.g.num.datum 0 gs
      let s := closeSilent r.js d.groups s
      (captureRun r (redCloses r d.groups s) s, { ix := r.ix, status := m.status, summary := m }) }

/-- The levels of an FP32 operation: the vector travels as its words, without a tag (DESIGN CHOICE, log entry 46: R123 and R136 give such a
transfer no byte form). -/
def vectorLevels (r : Run) (d : RedDesc) : Levels :=
  { e := d.exch
    toAll := d.toAll
    up := fun _ w => wordBytes w.vector
    top := fun w s =>
      let v := w.vector.map (fun x => (x, false))
      let t := finishVector r d v s
      (t.1, wordBytes w.vector, t.2)
    rest := fun w s =>
      let m := vectorSummary r (w.vector.map (fun x => (x, false)))
      (s, { ix := r.ix, status := m.status, summary := m }) }

def redLevels (r : Run) (d : RedDesc) : Levels := if d.op = .sumDatum then sumLevels r d else vectorLevels r d

/-- Poison that a device's own operands carried is reported by its stage (R131). -/
def withOwn (own : Bool) (t : State × Active) : State × Active :=
  if own then
    let m := t.2.summary.withPoison true
    (t.1, { t.2 with summary := m, status := if t.2.status = .datumOvf ∨ t.2.status = .nanSeen ∨ t.2.status = .ok then m.status else t.2.status })
  else t

/-- The root's inbox holds nothing of an earlier stage. -/
def emptyInbox (r : Run) (s : State) : State := s.setJoist (r.js.headD 0) (fun x => { x with inbox := [] })

/-- REDUCE on one device, up to its device levels. -/
def reduceStage (r : Run) (d : RedDesc) (s : State) : State × Active :=
  if exchLost s r.y.tenancy d.exch then (s, r.failed .topology)
  else if d.op = .sumDatum then
    if r.js.any (fun j => d.groups.any (fun k => !(s.group j k).isOpen)) then (s, r.failed .badDesc)
    else if exchReaches d.exch then climb r (redLevels r d) 12 { level := 0 } (emptyInbox r (mergeTree r d.groups s))
    else replayed r (mayRaise r.g) (fun raise s => redSum r d raise s) s
  else
    let s := meetStage r.x.id (poisonOf r s stageSrc (shareReads r.js (stageReads r.img r.y r.g))) s
    let v := treeVector r d s
    let s := useVectors r.js s
    if exchReaches d.exch then
      withOwn (v.any (fun x => x.2)) (climb r (redLevels r d) 12 { level := 0, vector := vectorUp v } (emptyInbox r s))
    else finishVector r d v s

def execReduce (r : StageRef) (s : State) : Host.Outcome State Fault Refusal :=
  stageEvent r (fun r => match r.g.work with
    | .reduce d =>
      if controlLost r.found then some (fun s => (s, r.failed .uncorrectable))
      else if dmaLost r.found then some (dmaFailed r)
      else some (reduceStage r d)
    | _ => none) s

end Sys2Proof.Machine
end

