-- ==== Sys2Proof/Machine/Cull.lean ====
section
/-! DEFINITION. The CULL stage (R132 to R138), arrivals at device levels (R125, R126) and their timeout. -/

namespace Sys2Proof.Machine

/-! ### Lists -/

/-- A row of a cull: NaN values excluded, and the best entries, best first. -/
abbrev CullRow := Nat × List (Word × Nat)

/-- Entry a is better than entry b (R132). -/
def cullBetter (smallest : Bool) (a b : Word × Nat) : Bool :=
  let gt := if smallest then flt a.1 b.1 else flt b.1 a.1
  let lt := if smallest then flt b.1 a.1 else flt a.1 b.1
  gt || (!lt && decide (a.2 < b.2))

/-- Puts an entry into an ordered list of at most k. -/
def cullPut (smallest : Bool) (k : Nat) (e : Word × Nat) (l : List (Word × Nat)) : List (Word × Nat) :=
  (l.takeWhile (fun x => cullBetter smallest x e) ++ e :: l.dropWhile (fun x => cullBetter smallest x e)).take k

/-- The best k of the union of two lists (R134). -/
def cullMerge (smallest : Bool) (k : Nat) (a b : CullRow) : CullRow :=
  (sat 0xFFFFFFFF (a.1 + b.1), b.2.foldl (fun l e => cullPut smallest k e l) a.2)

/-- The position of element 0 of a joist's segment (R133). -/
def cullBase (r : Run) (d : CullDesc) (jx : Nat) : Nat :=
  d.posBase + (d.exch.pos * (bayBents r.y).length * r.y.w * r.y.h + jx) * d.segLen

/-- Element i of row k of a joist's segment: FP32 or BF16 widened, and its poison. -/
def cullElem (s : State) (d : CullDesc) (j k i : Nat) : Word × Bool :=
  let n := if d.inBf16 then 2 else 4
  let a := d.src + k * cullStride d + n * i
  let v := leNat (readMem s.mem false j a n)
  (if d.inBf16 then widenBf16 v else BitVec.ofNat 32 v, badMem s.mem false j a n)

/-- A joist's row: NaN and poisoned values never enter the list (R132, R74). -/
def cullScan (s : State) (r : Run) (d : CullDesc) (jx j k : Nat) : CullRow × Bool :=
  (List.range d.segLen).foldl (fun a i =>
    let e := cullElem s d j k i
    if e.2 || f32IsNan e.1 then ((sat 0xFFFFFFFF (a.1.1 + 1), a.1.2), a.2 || e.2)
    else ((a.1.1, cullPut d.smallest d.k (e.1, cullBase r d jx + i) a.1.2), a.2)) ((0, []), false)

/-- The rows at the root of the bay, and whether poison reached each. -/
def cullTree (s : State) (r : Run) (d : CullDesc) : List (CullRow × Bool) :=
  (List.range d.rows).map (fun k =>
    ((treeFold (fun a b => (cullMerge d.smallest d.k a.1 b.1, a.2 || b.2)) (treePairs r.y)
      ((r.js.mapIdx (fun x j => (x, j))).map (fun e => cullScan s r d e.1 e.2 k))).head?).getD ((0, []), false))

/-! ### Sampling (R137) -/

/-- The running sums C of the weights of a list. -/
def cullSums (d : CullDesc) (l : List (Word × Nat)) : List Word :=
  let t := fmul d.invTemp 0x3FB8AA3B#32
  let v0 := (l.headD (0, 0)).1
  (l.foldl (fun (a : Word × List Word) e =>
    let diff := if d.smallest then fsub v0 e.1 else fsub e.1 v0
    let sum := fadd a.1 (fexp2 (fmul diff t))
    (sum, a.2 ++ [sum])) (0#32, [])).2

/-- The index that the random value draws. -/
def cullDraw (r : Run) (d : CullDesc) (n : Nat) (l : List (Word × Nat)) : Nat :=
  let c := cullSums d l
  let s := c.getLastD 0
  let v := stochasticR r.g.num.seed 0xFFFF n
  let u := fmul (f32Exact ⟨(v : Int), -32⟩ false) s
  (c.findIdx? (fun x => flt u x)).getD (l.length - 1)

/-- The index n of row k: its sequence and token position. A row without an entry in the length table has a free index (log
entry 47). -/
def cullIndex (s : State) (r : Run) (k : Nat) : Nat :=
  match r.x.table[k]? with
  | some e => e.seqId * 2 ^ 36 + (e.start + e.qlen)
  | none => Config.freeNat (drawNo s + k)

/-! ### Records (R136) -/

def cullSize (d : CullDesc) : Nat := 16 + 8 * d.k

/-- The record of a row, with the entry that was drawn. -/
def cullRecord (d : CullDesc) (row : CullRow) (drawn : Option (Word × Nat)) : List Byte :=
  leBytes 4 row.1 ++ leBytes 1 row.2.length ++ leBytes 1 (bit 0 drawn.isSome) ++ leBytes 2 0
    ++ leBytes 4 ((drawn.map (fun e => e.2)).getD 0xFFFFFFFF) ++ leBytes 4 ((drawn.map (fun e => e.1.toNat)).getD 0x7FC00000)
    ++ (List.range d.k).flatMap (fun i =>
      let e := row.2.getD i (0x7FC00000#32, 0xFFFFFFFF)
      leBytes 4 e.1.toNat ++ leBytes 4 e.2)

/-- The entry that row k draws, where sampling is on and the row has any. -/
def cullSample (s : State) (r : Run) (d : CullDesc) (k : Nat) (row : CullRow) : Option (Word × Nat) :=
  if d.sample ∧ row.2 ≠ [] then row.2[cullDraw r d (cullIndex s r k) row.2]? else none

/-- The outputs of position 0. -/
def cullPieces (s : State) (r : Run) (d : CullDesc) (rows : List (CullRow × Bool)) : List Piece :=
  (rows.mapIdx (fun k e => (k, e))).map (fun e =>
    { off := e.1 * cullSize d, bytes := cullRecord d e.2.1 (cullSample s r d e.1 e.2.1), poison := e.2.2 })

/-- The records are written. -/
def finishCull (r : Run) (d : CullDesc) (rows : List (CullRow × Bool)) (s : State) : State × List Piece × Active :=
  let l := cullPieces s r d rows
  let m := ({ datumFinal := r.g.num.datum } : Summary).withPoison (rows.any (fun e => e.2))
  let s := if d.sample then useVectors (r.js.take 1) (spend d.rows s) else s
  ((outJoists r d.toAll).foldl (fun s j => writePieces j d.dst l s) s, l, { ix := r.ix, status := m.status, summary := m })

/-- The levels of a cull: lists travel as records of R136 without a sample (DESIGN CHOICE, log entry 46: R123 gives such a transfer no byte
form). -/
def cullLevels (r : Run) (d : CullDesc) : Levels :=
  { e := d.exch
    toAll := d.toAll
    up := fun _ w => w.lists.flatMap (fun row => cullRecord d row none)
    top := fun w s =>
      let t := finishCull r d (w.lists.map (fun row => (row, false))) s
      (t.1, flitsOf (d.rows * cullSize d) t.2.1, t.2.2)
    rest := fun _ s => (s, { ix := r.ix, summary := { datumFinal := r.g.num.datum } }) }

def cullStage (r : Run) (d : CullDesc) (s : State) : State × Active :=
  if exchLost s r.y.tenancy d.exch then (s, r.failed .topology)
  else
    let s := meetStage r.x.id (poisonOf r s stageSrc (shareReads r.js (stageReads r.img r.y r.g))) s
    let rows := cullTree s r d
    let s := useVectors r.js s
    if exchReaches d.exch then
      withOwn (rows.any (fun e => e.2)) (climb r (cullLevels r d) 12 { level := 0, lists := rows.map (fun e => e.1) } (emptyInbox r s))
    else let t := finishCull r d rows s; (t.1, t.2.2)

def execCull (r : StageRef) (s : State) : Host.Outcome State Fault Refusal :=
  stageEvent r (fun r => match r.g.work with
    | .cull d =>
      if controlLost r.found then some (fun s => (s, r.failed .uncorrectable))
      else if dmaLost r.found then some (dmaFailed r)
      else some (cullStage r d)
    | _ => none) s

/-! ### Arrivals -/

/-- A stage of a bay's running step that waits at a device level. -/
def levelWait (s : State) (bay : Nat) : Option (Run × Active × DeviceWait) :=
  match s.bayOf bay, runningStep s bay with
  | some y, some x =>
    (x.active.findSome? (fun a => a.device.map (fun w => (a, w)))).bind (fun e => y.program.bind (fun img =>
      (img.stages[e.1.ix]?).map (fun g =>
        ({ bay := bay, y := y, img := img, x := x, g := g, ix := e.1.ix, js := bayJoists s y }, e.1, e.2))))
  | _, _ => none

/-- The tag of an arrival: stage, level and step. -/
def arrivalTag : Arrival → Nat × Nat × Nat
  | .group m => (m.stage, m.level, m.step)
  | .vector st l k _ => (st, l, k)
  | .lists st l k _ => (st, l, k)

/-- A discarded arrival enters the device event log (R125). -/
def discardArrival (bay : Nat) (a : Arrival) (s : State) : State :=
  let t := arrivalTag a
  s.onNet (fun n => { n with events := n.events ++ [.image bay t.1 t.2.1 t.2.2] })

/-- The record of an active stage is replaced. -/
def putActive (r : Run) (own : Bool) (t : State × Active) : State :=
  let u := withOwn own t
  setActive r.x.id r.ix (fun _ => u.2) u.1

/-- The levels of a stage that reduces beyond the device. -/
def stageLevels (r : Run) : Option Levels :=
  match r.g.work with
  | .reduce d => some (redLevels r d)
  | .cull d => some (cullLevels r d)
  | _ => none

/-- One arrival merges with the result that waits for its level: each group image as it comes (R119). -/
def mergeOne (r : Run) (w : DeviceWait) (s : State) (m : Arrival) : State × DeviceWait :=
  match r.g.work, m with
  | .reduce _, .group i =>
    (s.setGroup (r.js.headD 0) i.group (fun g => g.merge (groupOfImage i)), { w with merged := i.group :: w.merged })
  | .reduce d, .vector _ _ _ v => (s, { w with vector := List.zipWith (redOp d.op) w.vector v })
  | .cull d, .lists _ _ _ rows => (s, { w with lists := List.zipWith (cullMerge d.smallest d.k) w.lists rows })
  | _, _ => (s, w)

/-- The level is done: every selected group has merged; one vector, or one set of lists, is the whole of its level. -/
def levelDone (r : Run) (w : DeviceWait) : Bool :=
  match r.g.work with
  | .reduce d => decide (d.op ≠ .sumDatum) || d.groups.all (fun k => w.merged.contains k)
  | _ => true

/-- Merges what has come for the level that waits, and, once that is done, for the levels above it. -/
def serveInbox (r : Run) (own : Bool) : Nat → DeviceWait → State → State
  | 0, _, s => s
  | n + 1, w, s =>
    let root := r.js.headD 0
    let mine (m : Arrival) : Bool := decide ((arrivalTag m).2.1 = treeDepth r.y + w.level)
    match stageLevels r, (s.joist root).inbox.filter mine with
    | some _, [] => s
    | some l, m :: ms =>
      let e := (m :: ms).foldl (fun a m => mergeOne r a.2 a.1 m) (s, w)
      let s := e.1.setJoist root (fun x => { x with inbox := x.inbox.filter (fun m => !mine m) })
      if levelDone r e.2 then
        let t := climb r l 12 { e.2 with level := w.level + 1, merged := [] } (endLevelWait r s)
        let u := putActive r own t
        match t.2.device with
        | some v => if v.back then u else serveInbox r own n v u
        | none => u
      else setActive r.x.id r.ix (fun z => { z with device := some e.2 }) s
    | none, _ => s

/-- The arrival is of a kind, and of a size, that the stage takes. -/
def arrivalFits (r : Run) (m : Arrival) : Bool :=
  match r.g.work, m with
  | .reduce d, .group i => decide (d.op = .sumDatum) && d.groups.contains i.group
  | .reduce d, .vector _ _ _ v => decide (d.op ≠ .sumDatum ∧ v.length = d.elements)
  | .cull d, .lists _ _ _ rows => decide (rows.length = d.rows)
  | _, _ => false

/-- A level, this one or one to come, at which a partner sends to the device and this operand has not come yet. -/
def levelOpen (r : Run) (e : Exch) (w : DeviceWait) (m : Arrival) (s : State) : Bool :=
  let n := (arrivalTag m).2.1
  let k := n - treeDepth r.y
  decide (treeDepth r.y + w.level ≤ n ∧ e.pos % 2 ^ (k + 1) = 0 ∧ e.pos + 2 ^ k < e.count)
    && !(s.joist (r.js.headD 0)).inbox.any (fun x => decide (arrivalTag x = arrivalTag m) && (match x, m with
      | .group i, .group j => decide (i.group = j.group)
      | _, _ => true))
    && !(match m with | .group i => decide (n = treeDepth r.y + w.level) && w.merged.contains i.group | _ => false)

/-- An operand has come: one of the level that waits merges at once, since the own result is there; one of a level to come stays in the
landing window that R123 brings it to, until its level takes it. -/
def enterInbox (r : Run) (a : Active) (w : DeviceWait) (m : Arrival) (s : State) : State :=
  serveInbox r a.summary.poison 12 w (s.setJoist (r.js.headD 0) (fun x => { x with inbox := x.inbox ++ [m] }))

/-- NaNs of an FP32 result that comes back are reported here too (R128). -/
def backSummary (r : Run) (a : Active) (v : List Word) : Active :=
  match r.g.work with
  | .reduce d =>
    if d.op = .sumDatum then a
    else
      let m := (vectorSummary r (v.map (fun x => (x, false)))).withPoison a.summary.poison
      { a with summary := m, status := m.status }
  | _ => a

/-- What comes back down under TO_ALL is written in every joist and passed on (R130). -/
def outputsArrive (r : Run) (l : Levels) (places : List (Nat × Nat)) (dst : Nat) (a : Active) (w : DeviceWait) (v : List Word)
    (s : State) : State :=
  let flits := wordBytes v
  let s := r.js.foldl (fun s j => writePieces j dst (piecesOf places flits) s) s
  putActive r false (goBack r l { backSummary r a v with waiting := false } w flits (endLevelWait r s))

/-- An arrival that its receiver waits for, now or at a level to come; none where it must be discarded (R125). -/
def accepted (r : Run) (a : Active) (w : DeviceWait) (m : Arrival) (s : State) : Option State :=
  let t := arrivalTag m
  if t.1 ≠ r.ix ∨ t.2.2 ≠ imageStep r.x then none
  else if w.back then
    match r.g.work, m with
    | .reduce d, .vector _ n _ v =>
      let places := if d.op = .sumDatum then unitPlaces d else [(0, 4 * d.elements)]
      if n = treeDepth r.y + w.level then some (outputsArrive r (redLevels r d) places d.dst a w v s) else none
    | .cull d, .vector _ n _ v =>
      if n = treeDepth r.y + w.level then
        some (outputsArrive r (cullLevels r d) [(0, d.rows * cullSize d)] d.dst a w v s) else none
    | _, _ => none
  else
    match stageLevels r with
    | some l => if arrivalFits r m && levelOpen r l.e w m s then some (enterInbox r a w m s) else none
    | none => none

def execBraceImageArrival (bay : Nat) (a : Arrival) (s : State) : Host.Outcome State Fault Refusal :=
  match levelWait s bay with
  | none => .next (discardArrival bay a s)
  | some e => .next ((accepted e.1 e.2.1 e.2.2 a s).getD (discardArrival bay a s))

/-- A partner's image has not come: E_PEER_FENCED after a fence refusal, else E_TIMEOUT, and no result (R126). -/
def levelTimeout (r : Run) (s : State) : State :=
  let s := s.setJoist (r.js.headD 0) (fun x => { x with inbox := [] })
  let st : Status := if r.x.fencedStages.contains r.ix then .peerFenced else .timeout
  setActive r.x.id r.ix (fun _ => r.failed st) (endLevelWait r s)

def execDeviceLevelTimeout (bay ix : Nat) (s : State) : Host.Outcome State Fault Refusal :=
  match levelWait s bay with
  | some e => .next (if e.1.ix = ix then levelTimeout e.1 s else s)
  | none => .next s

end Sys2Proof.Machine
end

