-- ==== Sys2Proof/Machine/Jobs.lean ====
section
/-! DEFINITION. Job bindings: JOB_BIND, its LLDP wait and the peer handshake (R326, R341, R352, R355, R375, R413, R414,
R477). -/

namespace Sys2Proof.Machine

/-! ### What JOB_BIND checks -/

/-- Entry k of a peer table, and whether the fields that R375 reserves are zero (R13); an address is a number in network order. -/
def peerEntry (b : List Byte) (k : Nat) : PeerEntry × Bool :=
  let e := (b.drop (64 * k)).take 64
  ({ serial := u e 0 8, port := u e 8 1, ipv6 := (u e 9 1).testBit 0, expSubtype := u e 10 1, grant := u e 12 4,
     ip := leNat ((e.drop 16).take (if (u e 9 1).testBit 0 then 16 else 4)).reverse, qpn := u e 32 3, psn := u e 36 3, expChassis := u e 40 16, expPort := u e 56 8 },
   decide (u e 9 1 / 2 = 0 ∧ u e 11 1 = 0 ∧ u e 35 1 = 0 ∧ u e 39 1 = 0 ∧ ((u e 9 1).testBit 0 ∨ u e 20 12 = 0)))

/-- The peer table in a slice window. -/
def peerTable (s : State) (w : SliceWin) (offset n : Nat) : List (PeerEntry × Bool) :=
  let b := windowBytes s w offset (64 * n)
  (List.range n).map (peerEntry b)

/-- A peer table entry's fields lie in range, and its port can carry 4,096-byte payloads (R352, R375). -/
def peerOk (s : State) (p : PeerEntry) : Bool :=
  portPresent s p.port && decide (64 ≤ p.grant ∧ p.grant ≤ 65536 ∧ p.qpn < 2 ^ 24 ∧ p.psn < 2 ^ 24)
    && decide (4224 ≤ maxFrame s p.port)

/-- Two entries that name one port expect the same neighbour (R375). -/
def expectAgree (l : List PeerEntry) : Bool :=
  l.all (fun a => l.all (fun b => decide (a.port ≠ b.port) || decide (a.expSubtype = b.expSubtype
    ∧ a.expChassis = b.expChassis ∧ a.expPort = b.expPort)))

/-- The bindings in force or in progress of the other tenancies. -/
def otherJobs (s : State) (t : Nat) : List Job :=
  (present s.net.jobs ++ present s.net.binding).filterMap (fun e => if e.1 = t then none else some e.2)

def grantSum (l : List PeerEntry) : Nat := l.foldl (fun n p => n + p.grant) 0

/-- The cells that the other tenancies' bindings hold. -/
def grantsHeld (s : State) (t : Nat) : Nat :=
  (otherJobs s t).foldl (fun n j => n + grantSum (j.peers.map (fun p => p.entry))) 0

/-- The first run of free TALLY_CREDIT instances (R355). -/
def creditRun (s : State) (t n : Nat) : Option Nat :=
  lowestFree (fun k => decide (k + n ≤ 1024) && (otherJobs s t).all (fun j =>
    decide (k + n ≤ j.creditBase ∨ j.creditBase + j.peers.length ≤ k))) 0 1024

/-! ### The LLDP check (R326) -/

/-- An LLDP neighbour is known and its TTL of 20 s has not passed (R325). -/
def neighbourLive (s : State) (p : Port) : Bool := p.neighbour.isSome && decide (keeperNow s ≤ p.neighbourAt + 20 * 25000000)

/-- The result of the check on one port: 1 match, 2 mismatch, 3 silent, 4 port down (R441). -/
def neighResult (s : State) (e : PeerEntry) : Nat :=
  let p := s.port e.port
  if !(decide (p.link = 1 ∨ p.link = 2)) then 4
  else if !neighbourLive s p then 3
  else if p.neighbour = some { subtype := e.expSubtype, chassis := e.expChassis, portId := e.expPort } then 1 else 2

/-- Every listed port is up and has heard a neighbour. -/
def allHeard (s : State) (j : Job) : Bool :=
  j.peers.all (fun p => let r := neighResult s p.entry; decide (r = 1 ∨ r = 2))

/-- JOB_BIND ends without a binding: what it made goes, the event is logged with the peer entry and the check (R413). -/
def failBinding (t peer check : Nat) (j : Job) (s : State) : State :=
  finish j.cx 0x0060 { status := .topology } (logEvent 0x0006 2 [(peer : Int), check, t] (dropBinding t s))

/-! ### The handshake (R413) -/

/-- PH1 of this end (R413). -/
def ph1Bytes (s : State) (p : Peer) (epoch : Nat) : List Byte :=
  leBytes 8 s.kp.fuses.serial.toNat ++ pointBytes (Config.publicKey p.eph) ++ List.replicate 3 0 ++ beBytes 32 p.nonce.toNat
    ++ leBytes 4 p.entry.grant ++ leBytes 4 epoch

/-- One peer's queue pair and PH1: the queue pair starts at PEER_PSN in both directions. -/
def greetPeer (t k epoch : Nat) (p : Peer) (s : State) : Peer × State :=
  let key := qpKey p.entry.port s.net.nextQpn
  let s := (s.onNet (fun n => { n with nextQpn := qpnAfter n.nextQpn })).putQp key
    (some { port := p.entry.port, peer := some (t, k), rxPsn := p.entry.psn, txPsn := p.entry.psn, remote := p.entry.qpn
            srcPort := Config.portHash s.net.nextQpn p.entry.qpn })
  let p := { p with qpn := key, eph := Config.random (drawNo s), nonce := Config.random (drawNo s + 1), gotPh1 := false, gotPh2 := false }
  (p, transmit { qpn := key, psn := 0, port := p.entry.port, imm := some 1, data := ph1Bytes s p epoch, size := 116 } (spend 2 s))

def greetAll (t epoch : Nat) : Nat → List Peer → State → List Peer × State
  | _, [], s => ([], s)
  | k, p :: ps, s =>
    let r := greetPeer t k epoch p s
    let rs := greetAll t epoch (k + 1) ps r.2
    (r.1 :: rs.1, rs.2)

/-- The handshake begins: JOB_EPOCH rises and every peer gets its PH1. -/
def startHandshake (t : Nat) (j : Job) (s : State) : State :=
  if !s.kp.randomOk then finish j.cx 0x0060 { status := .failed } (dropBinding t s)
  else
    let s := s.onNet (fun n => { n with jobEpoch := (n.jobEpoch + 1) % 2 ^ 32 })
    let r := greetAll t s.net.jobEpoch 0 j.peers s
    r.2.putBinding t (some { j with phase := 2, epoch := s.net.jobEpoch, peers := r.1 })

/-- The LLDP check ends: each port's neighbour is compared, and the handshake follows a match everywhere. -/
def judgeLldp (t : Nat) (j : Job) (s : State) : State :=
  let s1 := j.peers.foldl (fun s p => s.setPort p.entry.port (fun x => { x with neigh := neighResult s p.entry })) s
  if j.peers.all (fun p => decide (neighResult s p.entry = 1)) then startHandshake t j s1
  else finish j.cx 0x0060 { status := .topology } (dropBinding t s1)

/-- The check runs as soon as every listed port has heard its neighbour. -/
def tryLldp (t : Nat) (s : State) : State :=
  match mget none s.net.binding t with
  | some j => if j.phase = 1 ∧ allHeard s j then judgeLldp t j s else s
  | none => s

/-- The binding that JOB_BIND asks for, before its LLDP check. -/
def newJob (cx : Cmd) (fenceMode jobSize base : Nat) (peers : List PeerEntry) : Job :=
  { cx := cx, phase := 1, epoch := 0, scribeMode := decide (fenceMode = 1), size := jobSize, creditBase := base,
    peers := peers.map (fun e => { entry := e, qpn := 0 }) }

def execJobBind (cx : Cmd) (fenceMode window offset jobSize : Nat) (read : HubRead) (s : State) : Host.Outcome State Fault Refusal :=
  qci cx 0x0060 (fun s => withTenancy cx (fun t _ =>
    let peers := read.count
    match s.sliceWin t window with
    | none => .fail s .badDesc
    | some w =>
      let joists := ((s.bayOf w.bay).map (fun z => (bayJoists s z).length)).getD 0
      if 1 < fenceMode ∨ offset % 64 ≠ 0 ∨ peers < 1 ∨ 1024 < peers ∨ jobSize < 2 ∨ 65535 < jobSize
          ∨ joists * w.extent < offset + 64 * peers then .fail s .badDesc
      else if bayFenced s w.bay then .fail s .fenced
      else if w.halted then .fail s .dmaUe
      else readingWindow t window offset w { read with count := 64 * peers } (fun s =>
        let l := peerTable s w offset peers
        let l1 := l.map (fun e => e.1)
        if !(l.all (fun e => e.2 && peerOk s e.1)) || !expectAgree l1 || decide (fenceMode = 1 ∧ jobSize ≤ 16)
            || decide (fenceMode = 0 ∧ 16 < jobSize) then .fail s .badDesc
        else if (mget none s.net.binding t).isSome || (baysOfTenancy s t).any (fun n => (runningStep s n).isSome) then .fail s .busy
        else if tallyPool s < grantsHeld s t + grantSum l1 || !qpsFree s peers then .fail s .noResource
        else
          match creditRun s t peers with
          | none => .fail s .noResource
          | some base => .later (tryLldp t ((l1.map (fun e => e.port)).eraseDups.foldl (fun s p => askAll p s)
              (s.putBinding t (some (newJob cx fenceMode jobSize base l1)))))) s) s) s

def execJobBindLldpTimeout (tenancy : Nat) (s : State) : Host.Outcome State Fault Refusal :=
  match mget none s.net.binding tenancy with
  | some j => if j.phase = 1 then .next (judgeLldp tenancy j s) else .next s
  | none => .next s

/-- Replaces one peer of a binding in progress. -/
def setBindPeer (t k : Nat) (p : Peer) (j : Job) (s : State) : State := s.putBinding t (some { j with peers := j.peers.set k p })

/-- The peer keys (R414): from the lower serial to the higher, "lo2hi", and back, "hi2lo". -/
def peerKeyOf (own peer : Nat) (p : Peer) (eph : BitVec 512) (nonce : BitVec 256) (d : String) : BitVec 256 :=
  let mine := beBytes 32 p.nonce.toNat
  let theirs := beBytes 32 nonce.toNat
  let prk := Config.hkdfExtract (nums (if own < peer then mine ++ theirs else theirs ++ mine)) (nums (beBytes 32 (Config.ecdh p.eph eph).toNat))
  Config.hkdfExpand prk (nums (ascii "AFIAN-PEER-1 " ++ ascii d ++ leBytes 8 (min own peer) ++ leBytes 8 (max own peer)))
/-- The nonce of both reports of a handshake (R413): over the PH1 of the lower serial, then that of the higher. -/
def handshakeNonce (s : State) (j : Job) (p : Peer) : BitVec 256 :=
  let mine := ph1Bytes s p j.epoch
  sha (ascii "AFIAN-PEER-1" ++ if s.kp.fuses.serial.toNat < p.entry.serial then mine ++ p.ph1 else p.ph1 ++ mine)
/-- PH2 of this end (R413): the report for the binding's tenancy, and the chain. -/
def ph2Bytes (s : State) (t : Nat) (j : Job) (p : Peer) : List Byte :=
  reportBytes (reportFor s t j.cx.session (handshakeNonce s j p)) ++ chainBytes s

/-- PH1 arrives: the peer's serial is compared, its half of the keys joins ours, and PH2 goes out. -/
def execPh1Rx (tenancy peer serial grant epoch : Nat) (eph : BitVec 512) (nonce : BitVec 256) (s : State) :
    Host.Outcome State Fault Refusal :=
  match mget none s.net.binding tenancy with
  | none => .next s
  | some j =>
    match j.peers[peer]? with
    | none => .next s
    | some p =>
      if j.phase ≠ 2 ∨ p.gotPh1 then .next s
      else if serial ≠ p.entry.serial then .next (failBinding tenancy peer 1 j s)
      else
        let own := s.kp.fuses.serial.toNat
        let key := peerKeyOf own serial p eph nonce
        let theirs := leBytes 8 serial ++ pointBytes eph ++ List.replicate 3 0 ++ beBytes 32 nonce.toNat ++ leBytes 4 grant ++ leBytes 4 epoch
        let p := { p with gotPh1 := true, ph1 := theirs, peerGrant := grant, peerEpoch := epoch
                          keyOut := key (if own < serial then "lo2hi" else "hi2lo"), keyIn := key (if own < serial then "hi2lo" else "lo2hi") }
        let data := ph2Bytes s tenancy j p
        .next (transmitAll { qpn := p.qpn, psn := 0, port := p.entry.port, imm := some 2 } 4096 0 (data.length + 1) data
          (setBindPeer tenancy peer p j s))

/-- The first check of R413 that a peer's messages fail: 2 chain and report, 3 open mode, 4 firmware, 5 owner, 6 grant. -/
def ph2Check (s : State) (t : Nat) (j : Job) (p : Peer) (m : Ph2) : Option Nat :=
  let r := m.report
  if r.serial.toNat ≠ p.entry.serial then some 1
  else if !m.chain.linked ∨ m.chain.root ≠ s.kp.rootHash ∨ m.chain.serial ≠ r.serial ∨ r.nonce ≠ handshakeNonce s j p
      ∨ !signedBy m.chain.key (sha ((reportBytes r).take 320)) r.signature then some 2
  else if r.openMode then some 3
  else if r.mFw ≠ s.kp.running.sha ∨ r.mUcode ≠ s.kp.running.ucodeSha then some 4
  else if some r.mOwner ≠ (s.tenancy t).map (fun x => keyDigest x.ownerKey) then some 5
  else if p.peerGrant ≠ p.entry.grant then some 6
  else none

/-- The binding takes force as a whole: the old one's queue pairs go, counts start at zero, retired keys are free. -/
def bindJob (t : Nat) (j : Job) (s : State) : State :=
  let s := match s.job t with
    | none => s
    | some old => old.peers.foldl (fun (s : State) (p : Peer) => removeQp p.qpn s) s
  let s := deliverKeys (j.peers.flatMap (fun p => [p.keyOut, p.keyIn])) s
  let s := j.peers.foldl (fun (s : State) (p : Peer) => (s.setQp p.qpn (fun q => { q with isSealed := true, txKey := p.keyOut, rxKey := p.keyIn })).setPort p.entry.port
    (fun x => { x with neighMismatch := false })) s
  let s := s.onBay (fun x => { x with retired := x.retired.filter (fun e => e.2.2.1 ≠ t) })
  finish j.cx 0x0060 { status := .ok, result := [j.epoch, j.creditBase] }
    ((s.putJob t (some { j with phase := 0 })).putBinding t none)

def execPh2Rx (tenancy peer : Nat) (msg : Ph2) (s : State) : Host.Outcome State Fault Refusal :=
  match mget none s.net.binding tenancy with
  | none => .next s
  | some j =>
    match j.peers[peer]? with
    | none => .next s
    | some p =>
      if j.phase ≠ 2 ∨ !p.gotPh1 ∨ p.gotPh2 then .next s
      else
        match ph2Check s tenancy j p msg with
        | some c => .next (failBinding tenancy peer c j s)
        | none =>
          let j := { j with peers := j.peers.set peer { p with gotPh2 := true } }
          if j.peers.all (fun p => p.gotPh2) then .next (bindJob tenancy j s)
          else .next (s.putBinding tenancy (some j))

/-- No PH2 within 2 s of the LLDP check: the first peer without one is logged, as check 7. -/
def execPh2Timeout (tenancy : Nat) (s : State) : Host.Outcome State Fault Refusal :=
  match mget none s.net.binding tenancy with
  | none => .next s
  | some j =>
    if j.phase = 2 then .next (failBinding tenancy ((j.peers.findIdx? (fun p => !p.gotPh2)).getD 0) 7 j s) else .next s

end Sys2Proof.Machine
end

