-- ==== Sys2Proof/Machine/StatsStage.lean ====
section
/-! DEFINITION. The STATS stage (R139 to R143): what it examines of a tensor, the capture counters it reads and the record it
writes into a slice window. -/

namespace Sys2Proof.Machine

/-! ### The elements of a tensor -/

/-- Counts over elements (R141). -/
structure StatCount where
  elements : Nat := 0
  zeros : Nat := 0
  nans : Nat := 0
  sats : Nat := 0
  hist : List Nat := List.replicate 16 0
  /-- the largest finite magnitude of each channel, FP32; zero if none -/
  chmax : List Word := []
  poison : Bool := false
  deriving DecidableEq, Repr

/-- Elements of a joist's share: those of its BYTES (R378). -/
def shareElems (t : Tensor) : Nat :=
  let n := min t.bytes (t.extents.foldl (fun n e => n + e.2) 0)
  if t.fmt.bits = 0 then 0 else if t.fmt.isMx then n / (4 * t.fmt.bits) * 32 else n / (t.fmt.bits / 8)

/-- Element i of a share, with the magnitude of its code apart from the block scale. -/
def statElem (m : Mem) (img : Image) (ti j i : Nat) : Operand × Val :=
  let t := tensorAt img ti
  let o := tensorElem m img ti j i
  if t.fmt.isMx then
    let code := leNat (tensorRead m t j (i / 32 * (4 * t.fmt.bits)) (4 * t.fmt.bits))
    (o, decodeElem t.fmt (unpackCode t.fmt.bits code (i % 32)))
  else (o, o.val)

/-- The code's magnitude equals the largest finite one of its format; R65's Max is meant, so that an integer minimum beyond it does
not count (R141, DEDUCED, log entry 49). -/
def atTop (f : Fmt) (v : Val) : Bool :=
  match v with
  | .num d => f.top.le d.abs && d.abs.le f.top
  | _ => false

/-- One element is counted; infinities count as NaNs (R73, R141). The spec leaves two points open, which the model settles (DESIGN
CHOICE, log entry 74): a poisoned element counts in NANS, and an element's channel is its index in its joist's share modulo
CHANNELS. -/
def countElem (f : Fmt) (base : Int) (byElem : Bool) (channels i : Nat) (e : Operand × Val) (a : StatCount) : StatCount :=
  let a := { a with elements := a.elements + 1, poison := a.poison || e.1.bad }
  if e.1.bad then { a with nans := a.nans + 1 }
  else
    match e.1.val with
    | .num d =>
      if d.m = 0 then { a with zeros := a.zeros + 1 }
      else
        let w := toF32 (.num d.abs)
        { a with
          sats := a.sats + bit 0 (atTop f e.2)
          hist := if byElem then a.hist.modify (histBin base d.exp) (· + 1) else a.hist
          chmax := a.chmax.modify (i % channels) (fun x => if flt x w then w else x) }
    | _ => { a with nans := a.nans + 1 }

/-- Every element of every share. -/
def countTensor (m : Mem) (img : Image) (d : StatsDesc) (js : List Nat) : StatCount :=
  let t := tensorAt img d.tensor
  js.foldl (fun a j => (List.range (shareElems t)).foldl (fun a i =>
    countElem t.fmt d.histBase (!d.histGroups) d.channels i (statElem m img d.tensor j i) a) a)
    { chmax := List.replicate d.channels 0 : StatCount }

/-! ### The record (R142, R143) -/

/-- A capture counter summed over joists. -/
def capSum (s : State) (js : List Nat) (item : Nat) : Nat := js.foldl (fun n j => n + mget 0 s.joi.capture (j * 32 + item)) 0
def capTop (s : State) (js : List Nat) (item : Nat) : Nat := js.foldl (fun n j => max n (mget 0 s.joi.capture (j * 32 + item))) 0

/-- The fields of a record that runs merge. -/
structure StatRecord where
  flags : Nat
  runs : Nat
  elements : Nat
  zeros : Nat
  nans : Nat
  sats : Nat
  satCloses : Nat
  discards : Nat
  ovfCloses : Nat
  /-- largest AMAX_EXP plus 1,024; zero if none -/
  amax : Nat
  hist : List Nat
  chmax : List Word
  deriving DecidableEq, Repr

/-- The record of this run alone. -/
def runRecord (s : State) (r : Run) (d : StatsDesc) (c : StatCount) : StatRecord :=
  let on (n : Nat) : Nat := if d.source = 1 then n else 0
  { flags := bit 0 (d.source == 1) + bit 2 (decide (0 < on (capSum s r.js 20)))
    runs := 1
    elements := c.elements
    zeros := c.zeros
    nans := sat 0xFFFFFFFF c.nans
    sats := sat 0xFFFFFFFF c.sats
    satCloses := sat 0xFFFFFFFF (on (capSum s r.js 19))
    discards := sat 0xFFFFFFFF (on (capSum s r.js 17))
    ovfCloses := sat 0xFFFFFFFF (on (capSum s r.js 18))
    amax := on (capTop s r.js 16)
    hist := if d.histGroups then (List.range 16).map (capSum s r.js) else c.hist
    chmax := c.chmax }

/-- A record merged into an earlier one: counts add with saturation, maxima by maximum. -/
def mergeRecord (a b : StatRecord) : StatRecord :=
  let add (top x y : Nat) : Nat := sat top (x + y)
  { flags := (a.flags ||| b.flags) ||| (if 1 < add 0xFFFFFFFF a.runs b.runs then 2 else 0)
    runs := add 0xFFFFFFFF a.runs b.runs
    elements := add 0xFFFFFFFFFFFFFFFF a.elements b.elements
    zeros := add 0xFFFFFFFFFFFFFFFF a.zeros b.zeros
    nans := add 0xFFFFFFFF a.nans b.nans
    sats := add 0xFFFFFFFF a.sats b.sats
    satCloses := add 0xFFFFFFFF a.satCloses b.satCloses
    discards := add 0xFFFFFFFF a.discards b.discards
    ovfCloses := add 0xFFFFFFFF a.ovfCloses b.ovfCloses
    amax := max a.amax b.amax
    hist := List.zipWith (add 0xFFFFFFFFFFFFFFFF) a.hist b.hist
    chmax := List.zipWith (fun x y => if flt x y then y else x) a.chmax b.chmax }

/-- Bytes of a record. -/
def recordLen (d : StatsDesc) : Nat := up (192 + 4 * d.channels) 64

/-- A record's bytes; STAMP and DATUM are those of the last write. -/
def recordImage (d : StatsDesc) (stamp : Nat) (datum : Nat) (x : StatRecord) : List Byte :=
  let l := leBytes 2 1 ++ leBytes 2 x.flags ++ leBytes 4 x.runs ++ leBytes 8 stamp ++ leBytes 2 d.channels
    ++ leBytes 2 (signed 16 d.histBase) ++ leBytes 1 (bit 0 d.histGroups) ++ leBytes 3 0 ++ leBytes 8 x.elements
    ++ leBytes 8 x.zeros ++ leBytes 4 x.nans ++ leBytes 4 x.sats ++ leBytes 4 x.satCloses ++ leBytes 4 x.discards
    ++ leBytes 4 x.ovfCloses ++ leBytes 2 (if x.amax = 0 then 0x8000 else signed 16 ((x.amax : Int) - 1024))
    ++ leBytes 2 datum ++ x.hist.flatMap (leBytes 8) ++ x.chmax.flatMap (fun w => leBytes 4 w.toNat)
  l ++ List.replicate (recordLen d - l.length) 0

/-- A record read from its bytes. -/
def parseRecord (d : StatsDesc) (l : List Byte) : StatRecord :=
  let at_ (o n : Nat) : Nat := leNat ((l.drop o).take n)
  { flags := at_ 2 2, runs := at_ 4 4, elements := at_ 24 8, zeros := at_ 32 8, nans := at_ 40 4, sats := at_ 44 4,
    satCloses := at_ 48 4, discards := at_ 52 4, ovfCloses := at_ 56 4,
    amax := if at_ 60 2 = 0x8000 then 0 else (decodeInt 16 (at_ 60 2) + 1024).toNat
    hist := (List.range 16).map (fun i => at_ (64 + 8 * i) 8)
    chmax := (List.range d.channels).map (fun i => BitVec.ofNat 32 (at_ (192 + 4 * i) 4)) }

/-! ### The window -/

/-- Where the record's bytes lie: joist, slice address and length of each run; none where the window is not bound or too
small. -/
def recordPlaces (s : State) (t : Nat) (d : StatsDesc) : Option (List (Nat × Nat × Nat)) :=
  (s.sliceWin t d.window).bind (fun w => (s.bayOf w.bay).bind (fun y =>
    let js := bayJoists s y
    let runs := windowRuns w.extent (recordLen d + 1) d.offset (recordLen d)
    if d.offset + recordLen d ≤ js.length * w.extent then
      some (runs.filterMap (fun e => (js[e.1]?).map (fun j => (j, w.addr + e.2.1, e.2.2))))
    else none))

def readPlaces (m : Mem) (l : List (Nat × Nat × Nat)) : List Byte := l.flatMap (fun e => readMem m true e.1 e.2.1 e.2.2)
/-- Writes bytes over a list of runs, for a tenancy. -/
def writePlaces (t : Nat) (poison : Bool) : List (Nat × Nat × Nat) → List Byte → State → State
  | [], _, s => s
  | (j, a, n) :: l, data, s =>
    writePlaces t poison l (data.drop n) (stampJoist t true j (s.onMem (writeMem true j a (data.take n) poison)))

/-! ### The stage -/

/-- DATUM of the record: the observed stage's base datum; a free value where no stage is observed, and 0 where SOURCE
is 1 in a program's first stage (DESIGN CHOICE, log entry 50). -/
def recordDatum (s : State) (r : Run) (d : StatsDesc) : Nat :=
  if d.source = 1 then
    ((r.x.ended.find? (fun e => e.1 + 1 = r.ix)).map (fun e => signed 16 e.2.2.datumFinal)).getD 0
  else Config.freeNat (drawNo s) % 65536

/-- STATS: the spec has no words for a WINDOW that is not bound when the stage runs, or too small for the record at OFFSET: the
model ends it with E_BAD_DESC (R142, R143; DESIGN CHOICE, log entry 74). -/
def statsStage (r : Run) (d : StatsDesc) (s : State) : State × Active :=
  match recordPlaces s r.y.tenancy d with
  | none => (s, r.failed .badDesc)
  | some places =>
    let reads := shareReads r.js (stageReads r.img r.y r.g)
      ++ (if d.accum then places.map (fun e => (e.1, (⟨true, e.2.1, e.2.2⟩ : Region))) else [])
    let lost := d.accum && places.any (fun e => badMem s.mem true e.1 e.2.1 e.2.2)
    let s := meetStage r.x.id (stagePoison r s reads) s
    let s := throughCache .normal false r d.tensor s
    let c := countTensor s.mem r.img d r.js
    let own := runRecord s r d c
    let x := if d.accum then mergeRecord (parseRecord d (readPlaces s.mem places)) own else own
    let bad := c.poison || lost
    let data := recordImage d (aclkNow s ((bayBents r.y).headD 0)) (recordDatum s r d) x
    let m := ({ datumFinal := r.g.num.datum } : Summary).withPoison bad
    (useVectors r.js (writePlaces r.y.tenancy bad places data (spend 1 s)), { ix := r.ix, status := m.status, summary := m })

def execStats (r : StageRef) (s : State) : Host.Outcome State Fault Refusal :=
  stageEvent r (fun r => match r.g.work with | .stats d => some (statsStage r d) | _ => none) s

end Sys2Proof.Machine
end

