-- ==== Sys2Proof/Machine/Exchange.lean ====
section
/-! DEFINITION. The EXCHANGE and AWAIT stages (R338, R343, R381, R382, R480) and what tally credits and arrivals let go on. -/

namespace Sys2Proof.Machine

/-! ### EXCHANGE -/

/-- The packets of the c-th sending joist (R381). -/
def joistPackets (r : Run) (d : ExchangeDesc) (j : Job) (p : Peer) (c : Nat) (data : List Byte) : List TxPkt :=
  let imm := if d.imm then some (r.x.jigSeq % 65536 + d.senderPos * 65536) else none
  peerPackets p (scribeFor j p) d.peerBay d.window (d.dst + c * d.stride) imm (r.bay, r.x.id, r.ix) (data.length + 1) data

/-- What has been gathered of the sending joists: packets, and whether a read met an uncorrectable word. -/
def gatherSends (s : State) (r : Run) (d : ExchangeDesc) (j : Job) (p : Peer) : List TxPkt × Bool :=
  (((r.js.drop d.first).take d.count).mapIdx (fun c k => (c, k))).foldl (fun (a : List TxPkt × Bool) e =>
    if a.2 then a
    else if badMem s.mem false e.2 d.src d.length then (a.1, true)
    else (a.1 ++ joistPackets r d j p e.1 (readMem s.mem false e.2 d.src d.length), false)) ([], false)

def exchangeStage (r : Run) (d : ExchangeDesc) (s : State) : State × Active :=
  match peerReady s r.y.tenancy d.peer with
  | .error st => (s, r.failed st)
  | .ok (j, p) =>
    if r.y.dmaHalted then (s, r.failed .dmaUe)
    else
      let js := (r.js.drop d.first).take d.count
      let s := meetStage r.x.id (poisonOf r s (fun _ => 2) (shareReads js [benchRegion d.src d.length])) s
      let g := gatherSends s r d j p
      let t := sendToPeer r.y.tenancy d.peer g.1 s
      let s := t.1
      if g.2 then (haltBayDma r.bay s, posted (r.failed .dmaUe) t.2)
      else (s, posted { ix := r.ix } t.2)

def execExchange (r : StageRef) (s : State) : Host.Outcome State Fault Refusal :=
  stageEvent r (fun r => match r.g.work with
    | .exchange d => if dmaLost r.found then some (dmaFailed r) else some (exchangeStage r d)
    | _ => none) s

/-- Packets of a stage that still wait in a peer's sending order. -/
def stillHeld (s : State) (t bay step ix : Nat) : Bool :=
  ((s.job t).map (fun j => j.peers.any (fun p => p.heldPkts.any (fun x => x.step = some (bay, step, ix))))).getD false

/-- Stages whose last packet has gone may end (R343). -/
def settleStep (s : State) (x : Step) : Step :=
  match s.bayOf x.bay with
  | none => x
  | some y =>
    { x with active := x.active.map (fun a =>
      if a.posting ∧ !stillHeld s y.tenancy x.bay x.id a.ix then { a with posting := false, finished := a.device.isNone } else a) }
def settlePosting (s : State) : State := s.onJig (fun j => { j with steps := j.steps.map (settleStep s) })

/-- A peer's queue pair has entered the error state: what waited for it ends with a status, and steps whose packets drew a
fence refusal record it (R480). -/
def failPosting (t k : Nat) (st : Status) (refused : List (Nat × Nat × Nat)) (s : State) : State :=
  let held := (((peerAt s t k).map (fun p => p.heldPkts)).getD []).filterMap (fun x => x.step)
  let s := setPeer t k (fun p => { p with heldPkts := [], stalled := false, counted := 0 }) s
  let s := s.onJig (fun j => { j with steps := j.steps.map (fun x =>
    let mine := (refused.filter (fun e => e.1 = x.bay ∧ e.2.1 = x.id)).map (fun e => e.2.2)
    { x with
      peerFenced := x.peerFenced || !mine.isEmpty
      fencedStages := (x.fencedStages ++ mine).eraseDups
      active := x.active.map (fun a =>
        if a.posting ∧ held.contains (x.bay, x.id, a.ix) then
          { a with posting := false, finished := true, device := none, status := st } else a) }) })
  settlePosting s

/-! ### AWAIT -/

/-- Arrivals of a step in a window. -/
def arrivals (s : State) (bay jigSeq w : Nat) : Nat :=
  ((s.bayOf bay).map (fun y => mget 0 y.arrivals (arrivalKey jigSeq w))).getD 0

def awaitStage (r : Run) (d : AwaitDesc) (s : State) : State × Active :=
  if d.count ≤ arrivals s r.bay r.x.jigSeq d.window then (s, { ix := r.ix })
  else (setStep r.x.id (fun z => { z with awaited := true }) s, { ix := r.ix, finished := false, waiting := true, startedAt := hclkNow s })

def execAwait (r : StageRef) (s : State) : Host.Outcome State Fault Refusal :=
  stageEvent r (fun r => match r.g.work with | .await d => some (awaitStage r d) | _ => none) s

/-- The AWAIT descriptor of a stage. -/
def awaitOf (img : Image) (ix : Nat) : Option AwaitDesc :=
  match (img.stages[ix]?).map (fun (g : Stage) => g.work) with
  | some (.await d) => some d
  | _ => none

/-- An AWAIT of a step ends: its wait is counted (R311). -/
def endAwait (ix : Nat) (st : Status) (s : State) (x : Step) : Step :=
  match x.active.find? (fun a => a.ix = ix ∧ a.finished = false) with
  | none => x
  | some a => { x with
    awaitWait := sat 0xFFFFFFFF (x.awaitWait + a.waited s)
    active := x.active.map (fun b => if b.ix = ix then { b with finished := true, waiting := false, status := st } else b) }

/-- An arrival has been counted: the AWAIT of the bay's running step ends when its count is reached. -/
def settleAwaits (bay : Nat) (s : State) : State :=
  match (s.bayOf bay).bind (fun y => y.program), runningStep s bay with
  | some img, some x =>
    match x.active.find? (fun a => !a.finished && ((awaitOf img a.ix).map (fun d =>
        decide (d.count ≤ arrivals s bay x.jigSeq d.window))).getD false) with
    | none => s
    | some a => setStep x.id (endAwait a.ix .ok s) s
  | _, _ => s

def execAwaitTimeout (bay ix : Nat) (s : State) : Host.Outcome State Fault Refusal :=
  match (s.bayOf bay).bind (fun y => y.program), runningStep s bay with
  | some img, some x =>
    if (awaitOf img ix).isSome then .next (setStep x.id (endAwait ix (if x.peerFenced then .peerFenced else .timeout) s) s)
    else .next s
  | _, _ => .next s

/-- An immediate in a landing window that is not its bay's trigger window (R338): a count, an entry in the event log, or
both neither. -/
def closeTransfer (bay w imm : Nat) (s : State) : State :=
  let pos := imm / 2 ^ 16 % 2 ^ 11
  let note (s : State) : State := s.onNet (fun n => { n with events := n.events ++ [.immediate bay w imm] })
  if 2 ^ 27 ≤ imm ∨ (1024 ≤ pos ∧ pos ≤ 2046) then note s
  else
    match (stepsOf s bay).find? (fun x => !x.isQueued && decide (x.jigSeq % 65536 = imm % 65536)) with
    | none => note s
    | some x => settleAwaits bay (s.setBay bay (fun y =>
        { y with arrivals := mmod 0 y.arrivals (arrivalKey x.jigSeq w) (· + 1) }))

end Sys2Proof.Machine
end

