-- ==== Sys2Proof/Machine/JigCmds.lean ====
section
/-! DEFINITION. The jig's events: admission (R256 to R259, R535), copy-on-write copies (R251), step boundaries and the start
of steps (R257, R261, R264, R274, R276), express triggers (R263 to R265) and the forecast of their energy (R510). -/

namespace Sys2Proof.Machine

/-! ### The forecast (R510) -/

/-- Energy tags, in µJ, of the stages that may still run: of running steps from their lowest running stage on, then of
admitted and armed steps. -/
def tagsAhead (s : State) : Nat :=
  (s.jig.steps.filter (fun x => !x.isQueued)).foldl (fun n x =>
    let stages := ((s.bayOf x.bay).map bayStages).getD []
    let active := (stages.mapIdx (fun k g => (k, g))).filter (fun e => x.active.any (fun a => a.ix = e.1))
    n + ((stages.drop x.nextIx) ++ active.map (fun e => e.2)).foldl (fun n g => n + g.energy) 0) 0

/-- P_base: the smallest 10 ms average of the last second while no stage ran, or 350 W. -/
def basePower (s : State) : Nat :=
  match s.thm.idleAvg.find? (fun e => decide (usNow s < e.1 + 1000000)) with
  | some e => e.2
  | none => 350

/-- P_base + E_4 ÷ 4 ms × f_n ÷ 1.7 GHz within PCAP, E_4 in µJ. -/
def levelFits (s : State) (e4 n : Nat) : Bool :=
  let d := (levelDs n).1
  decide (basePower s * 32000 * d + e4 * (16 - (levelDs n).2) ≤ s.thm.pcap * 32000 * d)

/-- The lowest level that fits, or the deepest one. -/
def forecastLevel (s : State) (e4 : Nat) : Nat := ((List.range 33).find? (levelFits s e4)).getD 32

/-- L_fc is formed anew. E_4 is the share of the tags that falls in the next 4 ms, a free value up to their sum. While
nothing starts, a higher frequency waits for the next boundary. -/
def forecast (boundary : Bool) (s : State) : State :=
  let n := if !forecastOn s then 0 else forecastLevel s (Config.freeNat (drawNo s) % (tagsAhead s + 1))
  noteSteps (syncPegs (spend 1 (s.onThm (fun t => { t with lFc := if boundary then n else max t.lFc n }))))

/-! ### Admission -/

/-- The bay's queued steps, highest priority first, in order of submission within one (R256). -/
def admitOrder (s : State) (bay : Nat) : List Step :=
  (List.range 8).flatMap (fun p => (stepsOf s bay).filter (fun x => x.isQueued && decide (x.prio = p)))

/-- R257: an earlier step that names one of the sequences has not completed. -/
def earlierNames (s : State) (x : Step) : Bool :=
  s.jig.steps.any (fun z => decide (z.id < x.id) && x.table.any (fun e => z.names e.seqId))

/-- The bay already has its step admitted ahead of one (R260): an admitted step that R257 keeps from starting holds back no step but
another that R257 keeps (R256). -/
def slotTaken (s : State) (x : Step) : Bool :=
  (stepsOf s x.bay).any (fun z => z.phase == .admitted && (!earlierNames s z || earlierNames s x))

/-- The joists of a bay are ungated from the admission of a step on (R535). -/
def ungate (bay : Nat) (s : State) : State :=
  s.setBay bay (fun y => if y.gated then { y with gated := false, ungating := true } else y)

/-- An admission attempt that finds too few page sets (R259, R269). -/
def noteLack (x : Step) (s : State) : State :=
  (setStep x.id (fun z => { z with lackedPages := true }) s).setBay x.bay (fun y => { y with waits := sat 0xFF (y.waits + 1) })

/-- Why an armed step cannot be placed when its admission comes: its tag is armed by now, or all four slots are full (R263). -/
def armFault (s : State) (x : Step) : Option Status :=
  match x.arm with
  | none => none
  | some tag => if tagArmed s x.bay tag then some .badDesc else if slotsFull s x.bay then some .noResource else none

/-- Admits what can be admitted, in order: a step held by R257, or that only waits for the bay's slot, lets others pass; one that lacks
page sets, in the slot's queue or not, holds back all behind it (R256, R260). -/
def admitList (bay : Nat) : List Step → State → State
  | [], s => s
  | x :: l, s =>
    if x.arm.isNone && slotTaken s x then (if tryAdmit s x = .lacking then s else admitList bay l s)
    else
      match tryAdmit s x with
      | .held => admitList bay l s
      | .bad => admitList bay l (cancelStep .badDesc x s)
      | .lacking =>
        let s := noteLack x s
        if x.admitTimeout = 0 then admitList bay l (cancelStep .pageExhausted x s) else s
      | .admitted t =>
        match armFault s x with
        | some st => admitList bay l (cancelStep st x s)
        | none =>
          let t := ungate bay t
          admitList bay l (if x.arm.isSome then forecast false t else t)

/-- The jig runs: the framer is not halted, the device is ready and awake, and the bay is not under reset. -/
def jigRuns (s : State) (bay : Nat) : Bool :=
  decide (s.kp.stage = 0xA) && !s.kp.hubHeld && decide (s.pwr.retain ≤ 1 ∨ s.pwr.retain = 8) && !bayFenced s bay

def execStepAdmit (bay : Nat) (s : State) : Host.Outcome State Fault Refusal :=
  if jigRuns s bay then .next (admitList bay (admitOrder s bay) s) else .next s

/-- The copy of one page set ends: its step may start (R251). It runs in one event, as do the device's other own sequences (R209;
DEDUCED, log entry 81). -/
def copyDone (read : PageRead) (y : Bay) (x : Step) (s : State) : State :=
  (x.grant.cows.filter (fun c => c.2.2.1 = read.page ∧ c.2.2.2 = false)).foldl (fun s c =>
    setStep x.id (fun z => { z with grant := { z.grant with
      cows := z.grant.cows.map (fun e => if e.2.2.1 = read.page then (e.1, e.2.1, e.2.2.1, true) else e) } })
      (copyMeeting y c.2.1 read.page read.found s)) s
/-- The same for a copy whose step has gone. -/
def orphanDone (bay : Nat) (read : PageRead) (y : Bay) (s : State) : State :=
  ((orphansOf s bay).filter (fun c => c.2.2 = read.page)).foldl (fun s c =>
    (copyMeeting y c.2.1 read.page read.found s).onJig (fun k => { k with orphans := k.orphans.filter (fun e => e ≠ c) })) s

/-- A copy into a page set of the bay waits or runs. -/
def copyWaits (s : State) (bay target : Nat) : Bool :=
  (stepsOf s bay).any (fun x => x.grant.cows.any (fun c => decide (c.2.2.1 = target) && !c.2.2.2))
    || (orphansOf s bay).any (fun c => decide (c.2.2 = target))

def execCowCopyDone (bay : Nat) (target : PageRead) (s : State) : Host.Outcome State Fault Refusal :=
  match s.bayOf bay with
  | none => .next s
  | some y =>
    if copyWaits s bay target.page then
      .next (ownSequence (pageBanks (bayJoists s y) [target.page])
        (fun s => orphanDone bay target y ((stepsOf s bay).foldl (fun s x => copyDone target y x s) s)) s)
    else .next s

def execAdmissionTimeout (step : Nat) (s : State) : Host.Outcome State Fault Refusal :=
  match stepOf s step with
  | none => .next s
  | some x =>
    if x.isQueued && !s.qci.framerHalted then
      .next (cancelStep (if x.lackedPages then .pageExhausted else .timeout) x s)
    else .next s

/-! ### Starting a step -/

/-- A step boundary of a bay: pending Boundary settings are adopted, its halted channel resumes, routes are taken anew and
the forecast is made (R220, R23, R26, R261, R385, R510). -/
def atBoundary (bay : Nat) (s : State) : State :=
  let mine := s.cfg.scheduled.filter (fun e => e.1 = bay)
  let s := mine.foldl (fun s e => adoptNow bay e.2.1 e.2.2 s)
    (s.onCfg (fun c => { c with scheduled := c.scheduled.filter (fun e => e.1 ≠ bay) }))
  let r := routesNow s
  forecast true (s.setBay bay (fun y => { y with dmaHalted := false, routes := r }))

/-- The bay may start a step now. -/
def mayStart (s : State) (bay : Nat) (y : Bay) : Bool :=
  jigRuns s bay && !bayHeld s bay && !y.gated && !y.ungating && (runningStep s bay).isNone
    && (bayJoists s y).all (fun j => !(s.joist j).needsReload)
    && (bayBents y).all (fun b => !(s.bent b).stopped)

/-- A copy that an earlier step caused still runs into a page set of one of the step's sequences. -/
def orphanHolds (s : State) (x : Step) : Bool :=
  (orphansOf s x.bay).any (fun c => x.table.any (fun e => (s.seqRec e.seqId).any (fun r => r.entries.contains c.2.2)))
/-- A step that nothing holds: its copies have ended and no earlier step names its sequences (R251, R257). -/
def stepFree (s : State) (x : Step) : Bool := x.grant.cows.all (fun c => c.2.2.2) && !orphanHolds s x && !earlierNames s x

/-- Triggered steps in the order of their triggers. -/
def triggered (s : State) (bay : Nat) : List Step :=
  let l := (stepsOf s bay).filter (fun x => x.phase == .latched)
  (sortNat (l.map (fun x => x.trigAt))).filterMap (fun n => l.find? (fun x => x.trigAt = n))

/-- The step that a boundary starts (R261). -/
def nextStep (s : State) (bay : Nat) : Option Step :=
  (triggered s bay ++ (stepsOf s bay).filter (fun x => x.phase == .admitted)).find? (stepFree s)

/-- The bytes of the length table (R274). -/
def tableBytes (l : List LtEntry) : List Byte :=
  l.flatMap (fun e => leBytes 2 e.seqId ++ leBytes 2 e.start ++ leBytes 2 e.qlen ++ leBytes 2 e.append)

/-- The planned lengths no longer hold (R276). -/
def planBroken (s : State) (x : Step) : Bool :=
  x.grant.planned.any (fun e => ((s.seqRec e.1).map (fun r => r.length)).getD 0 ≠ e.2)

/-- Counters that the jig clears on every joist as a step starts (R101, R203). -/
def clearHolds (js : List Nat) (s : State) : State :=
  js.foldl (fun s j => s.setJoist j (fun x => { x with feedHold := 0, drainHold := 0, pegHalted := false })) s

/-- Causes of VOID that stand from the start (R311). -/
def startVoid (y : Bay) : List Nat := (if y.reserved then [] else [1]) ++ (if y.unbounded = [] then [] else [3])

/-- A step starts: START kind 0 from STEP_RUN, 1 armed on an idle bay, 2 armed with its trigger latched. Where the planned
lengths no longer hold it completes with E_RESET instead. -/
def startStep (kind : Nat) (x : Step) (y : Bay) (s : State) : State :=
  if planBroken s x then cancelStep .reset x s
  else
    let js := bayJoists s y
    let data := tableBytes x.table
    let lt := ((y.program.map (fun p => p.ltOff)).getD 0)
    let s := js.foldl (fun s j => s.onMem (writeMem false j lt data false)) (clearHolds js s)
    let at_ := aclkNow s ((bayBents y).headD 0)
    let s := setStep x.id (fun z => { z with phase := .running, epoch := bayEpoch s x.bay, startedAt := at_, startKind := kind, void := startVoid y }) s
    let s := s.setBay x.bay (fun y => { y with stage := 0, matched := if kind = 0 then y.matched else sat 0x7FFF (y.matched + 1) })
    noteSteps s

def execStepBoundary (bay : Nat) (s : State) : Host.Outcome State Fault Refusal :=
  match s.bayOf bay, runningStep s bay with
  | some y, none =>
    let s := atBoundary bay s
    match (if mayStart s bay y then nextStep s bay else none) with
    | some x => .next (startStep (if x.phase = .latched then 2 else 0) x y s)
    | none => .next s
  | _, _ => .next s

/-! ### Express triggers -/

def missTrigger (bay : Nat) (s : State) : State := s.setBay bay (fun y => { y with unmatched := sat 0xFFFF (y.unmatched + 1) })

/-- The trigger waits for the step boundary. -/
def latchTrigger (x : Step) (s : State) : State :=
  let n := s.jig.nextTrig
  (setStep x.id (fun z => { z with phase := .latched, trigAt := n }) s).onJig (fun j => { j with nextTrig := n + 1 })

/-- An immediate in the trigger window (R264, R265). -/
def trigger (bay : Nat) (y : Bay) (imm : BitVec 32) (s : State) : State :=
  let w := imm.toNat
  if 2 ^ 22 ≤ w ∨ w / 2 ^ 16 % 64 ≠ bay then missTrigger bay s
  else
    match (stepsOf s bay).find? (fun x => x.phase == .armed && x.arm == some (w % 2 ^ 16)) with
    | none => missTrigger bay s
    | some x =>
      -- triggers start in the order in which they arrived (R261)
      if mayStart s bay y && stepFree s x && !(triggered s bay).any (stepFree s) then startStep 1 x y (atBoundary bay s) else latchTrigger x s

end Sys2Proof.Machine
end

