-- ==== Sys2Proof/Machine/Mailbox.lean ====
section
/-! DEFINITION. The mailboxes' slot memory (R356, R361), and the status window (R565). -/

namespace Sys2Proof.Machine

/-! ### Slot memory -/

/-- A mailbox that exists (R356). -/
def mailboxOpen (s : State) (m : Nat) : Bool := decide (m = 0xFF) || (s.tenancy m).isSome
/-- The slots of whose COMMIT a write of n bytes at an address writes any byte. -/
def commitsOf (va n : Nat) : List Nat := (List.range 32).filter (fun k => decide (va < 512 * k + 512 ∧ 512 * k + 504 < va + n))
/-- A write into a mailbox (R356): its bytes stand in the slots, and the slot watcher sees each COMMIT that it touches (R361). -/
def storeSlots (m port va : Nat) (data : List Byte) (s : State) : State :=
  if mailboxOpen s m ∧ va + data.length ≤ 0x4000 then
    s.onQci (fun q => { q with
      slots := writeBytes q.slots (16384 * m + va) data
      commits := q.commits ++ (commitsOf va data.length).map (fun k => (m, k, port)) })
  else s
/-- The 512 bytes of a slot. -/
def slotBytes (s : State) (m slot : Nat) : List Byte := readBytes s.qci.slots (16384 * m + 512 * slot) 512
/-- The port on which a slot's COMMIT was last written, while the framer has not looked at it. -/
def committed (s : State) (m slot : Nat) : Option Nat :=
  (s.qci.commits.reverse.find? (fun e => decide (e.1 = m ∧ e.2.1 = slot))).map (fun e => e.2.2)
/-- The framer looks at a slot. -/
def lookAt (m slot : Nat) (s : State) : State :=
  s.onQci (fun q => { q with commits := q.commits.filter (fun e => !(decide (e.1 = m ∧ e.2.1 = slot))) })

/-! ### The status window -/

/-- The window is served: the mailbox is open, and hub state is awake. -/
def windowServed (s : State) : Bool :=
  decide (s.kp.stage = 0xA ∨ s.kp.stage = 0xB ∨ s.kp.stage = 0xC) && decide (s.pwr.retain < 2 ∨ s.pwr.retain = 8)

/-- The words that a READ of n bytes at a window address returns, all of one snapshot. -/
def windowRange (s : State) (mailbox va n : Nat) : List Word :=
  (List.range ((va % 4 + n + 3) / 4)).map (fun i => snapWord s mailbox ((va - 0x10000) / 4 + i))

/-- The bytes that a READ returns. -/
def statusBytes (s : State) (mailbox va n : Nat) : List Byte :=
  (((windowRange s mailbox va n).flatMap (fun w => leBytes 4 w.toNat)).drop (va % 4)).take n

def execStatusWindowRead (port mailbox session va len : Nat) (s : State) : Host.Outcome State Fault Refusal :=
  onPort port (fun s =>
    match sessionRec s session with
    | none => s
    | some x =>
      if windowServed s && decide (x.mailbox = mailbox ∧ 0x10000 ≤ va ∧ va + len ≤ 0x20000) then
        match s.qp (recordQp session x port) with
        | none => s
        | some q => respondAll (recordQp session x port) va q.rxPsn q (statusBytes s mailbox va len)
            (s.putQp (recordQp session x port) (some { q with rxPsn := (q.rxPsn + readSpan q len) % 2 ^ 24 }))
      else s) s

def execStatusWindowSnapshot (s : State) : Host.Outcome State Fault Refusal :=
  if (decide (s.kp.stage = 0xA ∨ s.kp.stage = 0xC)) && decide (s.pwr.retain < 3 ∨ s.pwr.retain = 8) then
    .next (snapshot s)
  else .next s

end Sys2Proof.Machine
end

