-- ==== Sys2Proof/Machine/Roce.lean ====
section
/-! DEFINITION. RoCEv2: the checks on a received packet (R329), its way to its destination (R330, R331, R337, R338), what is
acknowledged and what is sent again (R328, R332, R366, R480), tally returns (R344, R345) and congestion and flow control (R347 to
R350). A queue pair is named by its key: port × 2^24 + number. -/

namespace Sys2Proof.Machine

/-! ### Before a queue pair is looked at -/

/-- RoCEv2 packets are taken: the device is past bring-up, and its hub is awake (R431, R543). -/
def hubAwake (s : State) : Bool :=
  decide (s.kp.stage = 0xA ∨ s.kp.stage = 0xB ∨ s.kp.stage = 0xC) && !s.kp.hubHeld && decide (s.pwr.retain < 2 ∨ s.pwr.retain = 8)

/-- The first packet with PSN 0 latches the partner of a bootstrap queue pair, whose PSNs start at those of BOOT_PEER (R357, R386). -/
def latchBoot (p : Pkt) (s : State) : State :=
  if p.qpn = 0x10 ∧ bootLatches s p.port ∧ (s.port p.port).bootPeer = none ∧ p.psn = 0 then
    (s.setPort p.port (fun x => { x with bootPeer := some p.srcIp })).setQp (pktKey p) (fun q => { q with
      rxPsn := (settingOf s 2 p.port 9).getD 4 0, txPsn := (settingOf s 2 p.port 9).getD 3 0 })
  else s

/-- A queue pair that takes the packet: it exists, is not in error, and a bootstrap one is with its partner. -/
def takingQp (s : State) (p : Pkt) : Option Qp :=
  match s.qp (pktKey p) with
  | none => none
  | some q => if q.err ≠ .none ∨ (p.qpn = 0x10 ∧ bootAddress s p.port ≠ some p.srcIp) then none else some q

/-- A congestion notification, at most one for each queue pair in 50 µs (R349). -/
def sendCnp (key : Nat) (q : Qp) (s : State) : State :=
  if (q.cnpSentAt.map (fun t => decide (usNow s < t + 50))).getD false then s
  else frameOut (key / 2 ^ 24) [(0x158, 1)] (.cnp key)
    (s.setQp key (fun q => { q with cnpSentAt := some (usNow s) }))

/-! ### Checks 3 to 6 -/

/-- The READs that stand open: 16 for a queue pair and 4,096 for the device are served; one more is an invalid request (PRESUMED, log
entry 83; R328 gives the numbers). -/
def readsFull (s : State) (key : Nat) : Bool :=
  let open_ := s.net.rx.filter (fun r => isRead r.pkt)
  decide (4096 ≤ open_.length ∨ 16 ≤ (open_.filter (fun r => pktKey r.pkt = key)).length)

/-- The packets of a READ's responses that the store still holds, from a PSN on. -/
def storedResponses (s : State) (key psn n : Nat) : List TxPkt :=
  s.net.store.filter (fun x => decide (x.qpn = key) && x.response && decide ((x.psn + 2 ^ 24 - psn) % 2 ^ 24 < n))
/-- A duplicate (R329, R330, R332): a READ's responses that the store still holds are sent again as they were, else it runs again from the
source; a packet whose data is in place is acknowledged again. -/
def duplicatePkt (q : Qp) (p : Pkt) (s : State) : State :=
  let key := pktKey p
  if isRead p then
    let kept := storedResponses s key p.psn (readSpan q p.len)
    if kept.any (fun x => decide (x.psn = p.psn)) then
      kept.foldl (fun s x => frameOut x.port [(0x150, 1)] (.packet x) s) s
    else if readsFull s key then s
    else s.onNet (fun n => { n with nextRx := n.nextRx + 1, rx := n.rx ++ [{ id := n.nextRx, pkt := p, again := true }] })
  else if s.net.rx.any (fun r => decide (pktKey r.pkt = key ∧ r.pkt.psn = p.psn) && !r.acked) then s
  else sendFrame p.port (.ack key (ackPoint key s)) s

/-- The operation is one that the queue pair may carry: a SEND only as a tally return from a peer (R328, R333). -/
def opAllowed (q : Qp) (p : Pkt) : Bool :=
  match p.op with
  | .other => false
  | .send => q.peer.isSome && decide (p.data.length = 16) && p.first && p.last
  | _ => true

/-- A packet from a peer in fence mode that names a released bay or a retired key (R478). -/
def fencedPeer (s : State) (q : Qp) (k : Nat) : Bool :=
  match q.peer with
  | none => false
  | some e => !inScribeMode s q && decide (k / 2 ^ 28 = 1) && (keyRetired s e.1 k || (bayFenced s (keyBay k)
      && ((s.bayOf (keyBay k)).map (fun y => y.tenancy)) == some e.1))
/-- A packet from a host, while the bay it names is fenced (R478). -/
def fencedHost (s : State) (q : Qp) (k : Nat) : Bool :=
  q.peer.isNone && decide (k / 2 ^ 24 % 16 = qpOwner s q) && s.pwr.resets.any (fun r => r.keys.contains k)

/-- Check 5 fails: dropped without an answer and counted (R329). -/
def sealFail (p : Pkt) (s : State) : State := countPort p.port 0x138 1 s
/-- A NAK for a remote access error, with the queue pair in error (check 4). -/
def accessFail (p : Pkt) (s : State) : State := qpError (pktKey p) .access (sendNak (pktKey p) p.psn 2 s)

/-- Check 6: the cells that a peer's packet takes. -/
def cellsFor (q : Qp) (p : Pkt) : Nat :=
  if q.peer.isNone ∨ p.op = .send ∨ isRead p then 0 else cellCost (payloadBytes q p)

/-- Check 7: the packet stands in packet SRAM; its PSN and its COUNTER are consumed. -/
def placeRx (q : Qp) (p : Pkt) (cells : Nat) (headroom : Bool) (bents : List Nat) (s : State) : State :=
  let s := s.onNet (fun n => { n with nextRx := n.nextRx + 1
                                      rx := n.rx ++ [{ id := n.nextRx, pkt := openPkt q p, cells := cells
                                                       headroom := headroom, bents := bents }] })
  let span := if isRead p then readSpan q p.len else 1
  let s := s.setQp (pktKey p) (fun q => acceptSeal p { q with rxPsn := (q.rxPsn + span) % 2 ^ 24 })
  if q.peer.isNone then checkXoff s else s

/-- Check 6, on a packet that has passed the others (R342, R348). -/
def bufferRx (q : Qp) (p : Pkt) (bents : List Nat) (s : State) : State :=
  if q.peer.isSome then
    if grantOf s q < cellsHeld s (pktKey p) + cellsFor q p then countPort p.port 0x140 1 (sendNak (pktKey p) p.psn 4 s)
    else placeRx q p (cellsFor q p) false bents s
  else
    match hostSpace s p.port p.priority (if isRead p then 0 else p.data.length) with
    | none => countPort p.port 0x148 1 s
    | some h => placeRx q p 0 h bents s

/-- The bents that a retired key's bay had. -/
def retiredBents (s : State) (t k : Nat) : List Nat :=
  ((s.bay.retired.filter (fun e => decide (e.1 = keyBay k ∧ e.2.2.1 = t ∧ (e.2.1 = 0xFF ∨ e.2.1 = keyWindow k)))).flatMap
    (fun e => bitsOf 4 e.2.2.2)).eraseDups

/-- Checks 4 and 5 of a packet that names a window. -/
def windowRx (q : Qp) (p : Pkt) (s : State) : State :=
  let key := pktKey p
  if fencedPeer s q p.rkey then qpError key .fenced (sendNak key p.psn 3 s)
  else if fencedHost s q p.rkey then sendNak key p.psn 4 s
  else if inScribeMode s q && keyRetired s (qpOwner s q) p.rkey && decide (p.rkey / 2 ^ 28 = 1) then
    countStale (retiredBents s (qpOwner s q) p.rkey) (sealFail p s)
  else
    match resolve s q p.rkey with
    | none => accessFail p s
    | some g =>
      let bents := targetBents s g
      if !accessOk s g p then accessFail p s
      else if !sealPasses q p && !(match g with | .handshake _ _ => true | _ => false) then sealFail p s
      else if staleBents s q p bents ≠ [] then countStale (staleBents s q p bents) (sealFail p s)
      else if s.pwr.retain = 8 ∧ bents.any s.pwr.exitOrder.contains then discard p.port s
      else if targetHalted s g then sendNak key p.psn 3 s
      else
        match g with
        | .handshake _ _ => placeRx q p 0 false [] s
        | _ => bufferRx q p bents s

/-- Check 3 onward, on a queue pair that takes the packet. -/
def sequenceRx (q : Qp) (p : Pkt) (s : State) : State :=
  let d := (p.psn + 2 ^ 24 - q.rxPsn) % 2 ^ 24
  if d ≠ 0 then if 2 ^ 23 ≤ d then duplicatePkt q p s else sendNak (pktKey p) q.rxPsn 0 s
  else if !opAllowed q p || (isRead p && readsFull s (pktKey p)) then sendNak (pktKey p) p.psn 1 s
  else if p.op = .send then
    if !sealPasses q p then sealFail p s
    else if leNat ((openPkt q p).data.drop 12) ≠ 0 then sendNak (pktKey p) p.psn 1 s
    else bufferRx q p [] s
  else windowRx q p s

/-- Bytes of the frame that a packet came in (DESIGN CHOICE, log entry 89). -/
def rxFrameBytes (s : State) (p : Pkt) : Nat :=
  let sealed_ := ((s.qp (pktKey p)).map (fun q => q.isSealed)).getD false
  roceBytes (isV6 p.srcIp) (portTagged s p.port) (match p.op with | .write | .read => 16 | .writeImm => 20 | _ => 0)
    (if isRead p then 0 else p.data.length + (if sealed_ then 24 else 0))

def rocePacket (p : Pkt) (s : State) : State :=
  if s.kp.hubHeld ∧ s.kp.stage ≠ 0xD then s
  else
    let s := frameIn p.port (rxFrameBytes s p) s
    if !hubAwake s || !p.headersOk then discard p.port s
    else
      let s := latchBoot p s
      match takingQp s p with
      | none => discard p.port s
      | some q => sequenceRx q p (if p.ecnCe then sendCnp (pktKey p) q s else s)

def execRocePacketRx (p : Pkt) (s : State) : Host.Outcome State Fault Refusal := onPort p.port (rocePacket p) s

/-! ### To the destination (R331, R337) -/

def rxOf (s : State) (id : Nat) : Option RxPkt := s.net.rx.find? (fun r => r.id = id)
def setRx (id : Nat) (f : RxPkt → RxPkt) (s : State) : State :=
  s.onNet (fun n => { n with rx := n.rx.map (fun r => if r.id = id then f r else r) })
def dropRx (id : Nat) (s : State) : State := s.onNet (fun n => { n with rx := n.rx.filter (fun r => r.id ≠ id) })

/-- Packets of the same queue pair that came before and for which something is still to do. -/
def before (s : State) (r : RxPkt) (p : RxPkt → Bool) : Bool :=
  (s.net.rx.takeWhile (fun x => x.id ≠ r.id)).any (fun x => decide (pktKey x.pkt = pktKey r.pkt) && p x)

/-- A packet lost in packet SRAM: it and what followed it on its queue pair are expected again (R219, R330). -/
def loseRx (r : RxPkt) (s : State) : State :=
  if r.again then dropRx r.id s else
  let key := pktKey r.pkt
  let gone := (s.net.rx.dropWhile (fun x => x.id ≠ r.id)).filter (fun x => decide (pktKey x.pkt = key) && !x.placed && !x.again)
  let s := s.setQp key (fun q => { q with
    rxPsn := r.pkt.psn
    rxCount := gone.foldl (fun m x => mmod 0 m x.pkt.keyGen (fun c => min c x.pkt.counter)) q.rxCount })
  s.onNet (fun n => { n with rx := n.rx.filter (fun x => !gone.any (fun y => y.id = x.id)) })

/-- The units that a write of n bytes covers in part. -/
def mergeReads (s : State) (inSlice : Bool) (j a n : Nat) : List Finding :=
  let first := if a % 8 ≠ 0 ∨ n < 8 then poisonReads s inSlice j (a / 8 * 8) 8 2 else []
  let last := if (a + n) % 8 ≠ 0 ∧ (a + n) / 8 ≠ a / 8 then poisonReads s inSlice j ((a + n) / 8 * 8) 8 2 else []
  first ++ last

/-- One run of a write: the data, and whether its merge met a bad unit; a unit whose error the same merge has just found is no
poison read (R221). -/
def landRun (g : Target) (inSlice : Bool) (j a : Nat) (data : List Byte) (owner : Nat) (found : List Finding) (s : State) : State :=
  let bad := mergeBad s.mem inSlice j a data.length
  let s := meetShared ((mergeReads s inSlice j a data.length).filter (fun f => !justFound found f)) s
  let s := s.onMem (writeMem inSlice j a data false)
  let s := if inSlice then s.setJoist j (fun x => { x with touchedBy := some owner }) else s
  if bad then haltTarget g s else s

def isSliceTarget : Target → Bool
  | .slice _ _ => true
  | _ => false

/-- The data of a WRITE goes to its window, split where it crosses joists. -/
def landData (g : Target) (p : Pkt) (owner : Nat) (found : List Finding) (s : State) : State :=
  let js := targetJoists s g
  let e := targetExtent s g
  let s := match targetBay s g with
    | some bay => if isSliceTarget g then voidBay 6 bay s else s
    | none => s
  ((windowRuns e.2 (p.data.length + 1) p.va p.data.length).foldl (fun (a : State × List Byte) run =>
    (landRun g (isSliceTarget g) (js.getD run.1 0) (e.1 + run.2.1) (a.2.take run.2.2) owner found a.1, a.2.drop run.2.2)) (s, p.data)).1

/-- A packet that a fence holds back in scribe mode (R484). -/
def heldByFence (s : State) (q : Qp) (r : RxPkt) : Bool :=
  inScribeMode s q && r.bents.any (bentFenced s)

/-- A channel that has halted answers a packet that reaches it with a NAK for a remote operational error (R220). -/
def refuseRx (r : RxPkt) (q : Qp) (s : State) : State :=
  sendNak (pktKey r.pkt) r.pkt.psn 3 (freeCells q r.cells (dropRx r.id s))

def writeRx (r : RxPkt) (q : Qp) (found : List Finding) (s : State) : State :=
  let s := framerStops found (meetShared (found.map (fun f => { f with src := 2 })) s)
  if hubUe found 0x30 then loseRx r s
  else
    match resolve s q r.pkt.rkey with
    | none => loseRx r s
    | some g =>
      if targetHalted s g then refuseRx r q s
      else setRx r.id (fun x => { x with placed := true }) (match g with
        | .landing b w => landData (.landing b w) r.pkt (qpOwner s q) found s
        | .slice t w => landData (.slice t w) r.pkt t found s
        | .control m => storeSlots m r.pkt.port r.pkt.va r.pkt.data s
        | .handshake _ _ => s)

/-- The next packet of its queue pair to be transferred. -/
def nextRx (s : State) (id : Nat) (p : RxPkt → Bool) : Option (RxPkt × Qp) :=
  match rxOf s id with
  | none => none
  | some r =>
    match s.qp (pktKey r.pkt) with
    | none => none
    | some q => if p r && !r.placed && !before s r (fun x => !x.placed) then some (r, q) else none

def isWrite (r : RxPkt) : Bool := r.pkt.op == .write || r.pkt.op == .writeImm

/-- Hub DMA to slice bytes waits for a peg segment that has started in one of their banks (R156). -/
def dmaWaits (s : State) (q : Qp) (p : Pkt) (n : Nat) : Bool :=
  match resolve s q p.rkey with
  | none => false
  | some g => isSliceTarget g && (windowRuns (targetExtent s g).2 (n + 1) p.va n).any (fun run =>
      (Region.banks ⟨true, (targetExtent s g).1 + run.2.1, run.2.2⟩).any (fun b =>
        (s.peg ((targetJoists s g).getD run.1 0) b).inSegment))

def execRdmaWriteRx (id : Nat) (found : List Finding) (s : State) : Host.Outcome State Fault Refusal :=
  match nextRx s id isWrite with
  | none => .next s
  | some (r, q) => if heldByFence s q r || dmaWaits s q r.pkt r.pkt.data.length then .next s else .next (writeRx r q (found.map (classed s)) s)

/-! ### READ -/

/-- The bytes of a READ, and whether a unit it covers is uncorrectable. -/
def readWindow (s : State) (g : Target) (va n : Nat) : List Byte × Bool :=
  let js := targetJoists s g
  let e := targetExtent s g
  (windowRuns e.2 (n + 1) va n).foldl (fun a run =>
    let j := js.getD run.1 0
    (a.1 ++ readMem s.mem (isSliceTarget g) j (e.1 + run.2.1) run.2.2,
     a.2 || badMem s.mem (isSliceTarget g) j (e.1 + run.2.1) run.2.2)) ([], false)

/-- The poisoned units that a READ meets. -/
def readPoison (s : State) (g : Target) (va n : Nat) : List Finding :=
  let js := targetJoists s g
  let e := targetExtent s g
  (windowRuns e.2 (n + 1) va n).flatMap (fun run => poisonReads s (isSliceTarget g) (js.getD run.1 0) (e.1 + run.2.1) run.2.2 2)

def readRx (r : RxPkt) (q : Qp) (found : List Finding) (s : State) : State :=
  let key := pktKey r.pkt
  let s := framerStops found s
  if hubUe found 0x30 then loseRx r (meetShared (found.map (fun f => { f with src := 2 })) s) else
  let s := dropRx r.id s
  match resolve s q r.pkt.rkey with
  | none => accessFail r.pkt s
  | some (.control m) =>
    -- framer and hub DMA SRAM words that the read meets (R219, R221)
    let s := meetShared ((found.filter (fun f => f.joist == hubJoist)).map (fun f => { f with src := 2 })) s
    if hubUe found 0x31 then sendNak key r.pkt.psn 3 s
    else respondAll key r.pkt.va r.pkt.psn q (statusBytes s m r.pkt.va r.pkt.len) s
  | some g =>
    if targetHalted s g then sendNak key r.pkt.psn 3 s else
    let fresh := found.map (fun f => { f with src := 2 })
    let old := (readPoison s g r.pkt.va r.pkt.len).filter (fun f => !fresh.any (fun x => x.joist = f.joist ∧ x.unit = f.unit
      ∧ x.row = f.row ∧ x.cw = f.cw))
    let d := readWindow s g r.pkt.va r.pkt.len
    let bad := d.2 || fresh.any (fun f => decide (f.kind = .ue))
    let s := meetShared (old ++ fresh) s
    if bad then sendNak key r.pkt.psn 3 (haltTarget g s)
    else respondAll key r.pkt.va r.pkt.psn q d.1 s

def execRdmaReadRx (id : Nat) (found : List Finding) (s : State) : Host.Outcome State Fault Refusal :=
  match nextRx s id (fun r => isRead r.pkt) with
  | none => .next s
  | some (r, q) => if dmaWaits s q r.pkt r.pkt.len then .next s else .next (readRx r q (found.map (classed s)) s)

/-! ### Delivered, arrived, acknowledged (R328, R330, R338) -/

/-- A packet leaves the hub's books once it is acknowledged and its immediate has been acted on. -/
def retireRx (id : Nat) (s : State) : State :=
  s.onNet (fun n => { n with rx := n.rx.filter (fun r => r.id ≠ id || !(r.acked && (r.counted || !(r.pkt.op == .writeImm)))) })

/-- A packet's data is in place: an ACK is due at the last packet of a message and at every eighth, the cells are free, and
flow control may let go. -/
def deliver (r : RxPkt) (q : Qp) (s : State) : State :=
  let key := pktKey r.pkt
  let s := setRx r.id (fun x => { x with acked := true }) (s.setQp key (fun q => { q with unacked := q.unacked + 1 }))
  let s := if r.pkt.last ∨ 8 ≤ q.unacked + 1 then sendAck key s else s
  retireRx r.id (checkXon (freeCells q r.cells s))

def execPacketDelivered (id : Nat) (s : State) : Host.Outcome State Fault Refusal :=
  match rxOf s id with
  | none => .next s
  | some r =>
    match s.qp (pktKey r.pkt) with
    | none => .next s
    | some q => if r.placed && !r.acked && !before s r (fun x => !x.acked) then .next (deliver r q s) else .next s

/-- The packet's immediate lies in its bay's trigger window (R264, R338). -/
def inTriggerWindow (s : State) (r : RxPkt) (q : Qp) : Bool :=
  match resolve s q r.pkt.rkey with
  | some (.landing b w) => ((s.bayOf b).map (fun y => y.trigOn && decide (y.trigWindow = w))).getD false
  | _ => false

/-- The packet whose immediate lies in a bay's trigger window and is the next to be acted on: its data, and that of the packets before it,
has landed (R264, R331). -/
def triggerPkt (s : State) (bay window : Nat) (imm : BitVec 32) : Option RxPkt :=
  s.net.rx.find? (fun r => r.placed && !r.counted && r.pkt.op == .writeImm && decide (r.pkt.imm = imm.toNat) && !before s r (fun x => !x.placed)
    && ((s.qp (pktKey r.pkt)).map (fun q => decide (resolve s q r.pkt.rkey = some (.landing bay window)))).getD false)

def execArmedTrigger (bay window : Nat) (imm : BitVec 32) (s : State) : Host.Outcome State Fault Refusal :=
  match s.bayOf bay, triggerPkt s bay window imm with
  | some y, some r =>
    if y.trigOn ∧ y.trigWindow = window then
      .next (retireRx r.id (trigger bay y imm (setRx r.id (fun x => { x with counted := true }) s)))
    else .next s
  | _, _ => .next s

/-- The immediate of a WRITE is acted on: an arrival in a landing window; one in the trigger window has its own event (R264). -/
def arrive (r : RxPkt) (q : Qp) (s : State) : State :=
  let s := setRx r.id (fun x => { x with counted := true }) s
  let s := match resolve s q r.pkt.rkey with
    | some (.landing b w) => if (s.bayOf b).isSome then closeTransfer b w r.pkt.imm s else s
    | _ => s
  retireRx r.id s

def execLandingArrival (id : Nat) (s : State) : Host.Outcome State Fault Refusal :=
  match rxOf s id with
  | none => .next s
  | some r =>
    match s.qp (pktKey r.pkt) with
    | none => .next s
    | some q =>
      if r.placed && !r.counted && r.pkt.op == .writeImm && !before s r (fun x => !x.placed) && !inTriggerWindow s r q then
        .next (arrive r q s)
      else .next s

def execAckCoalesceTimer (qpn : Nat) (s : State) : Host.Outcome State Fault Refusal :=
  match s.qp qpn with
  | none => .next s
  | some q => if 0 < q.unacked then .next (sendAck qpn s) else .next s

/-! ### Tally returns (R344, R345) -/

def execTallyReturnTimer (tenancy peer : Nat) (s : State) : Host.Outcome State Fault Refusal :=
  match peerAt s tenancy peer with
  | none => .next s
  | some p => if p.freedReturned < p.freed then .next (sendReturn tenancy peer s) else .next s

/-- Every peer sends what credits and the store now allow, and stages whose last packet has gone may end (R340, R343). -/
def flushAll (s : State) : State :=
  let s := flushWaiting s
  settlePosting ((present s.net.jobs).foldl (fun s e =>
    (List.range e.2.peers.length).foldl (fun s k =>
      flushPeer e.1 k (((peerAt s e.1 k).map (fun p => p.heldPkts.length)).getD 0) s) s) s)

/-- A return of the current binding raises C (R345): FREED and JOB_EPOCH of its payload (R344). -/
def takeReturn (t k : Nat) (p : Pkt) (s : State) : State :=
  match peerAt s t k with
  | none => s
  | some x =>
    if x.peerEpoch = leNat ((p.data.drop 8).take 4) then
      flushAll (setPeer t k (fun x => { x with returned := max x.returned (leNat (p.data.take 8)) }) s)
    else s

/-- The hub applies a return, unless its words in packet SRAM are lost (R219, check 7 of R329). -/
def execTallyReturnRx (rd : PktRead) (s : State) : Host.Outcome State Fault Refusal :=
  match nextRx s rd.id (fun r => r.pkt.op == .send) with
  | none => .next s
  | some (r, q) =>
    let found := rd.found.map (classed s)
    let s := framerStops found (meetShared (found.map (fun f => { f with src := 2 })) s)
    if hubUe found 0x30 then .next (loseRx r s) else
    let s := setRx rd.id (fun x => { x with placed := true }) s
    match q.peer with
    | none => .next s
    | some e => .next (takeReturn e.1 e.2 r.pkt s)

/-! ### The sending side (R328, R332, R366, R480) -/

/-- PSN a lies at or before PSN b. -/
def psnLe (a b : Nat) : Bool := decide ((b + 2 ^ 24 - a) % 2 ^ 24 < 2 ^ 23)

/-- Everything of a queue pair up to a PSN is acknowledged and leaves the store: what it has sent, or READ responses, which have the PSNs
of their requests (DESIGN CHOICE, log entry 91). -/
def freeStore (key psn : Nat) (responses : Bool) (s : State) : State :=
  s.onNet (fun n => { n with store := n.store.filter (fun p => !(decide (p.qpn = key) && p.response == responses && psnLe p.psn psn)) })

/-- An ACK of something sent, or of a READ response. -/
def validAck (s : State) (key psn : Nat) (responses : Bool) : Bool :=
  s.net.store.any (fun p => decide (p.qpn = key ∧ p.psn = psn) && p.response == responses)

/-- A frame that a queue pair's port has received counts there (R354). -/
def ackFrame (key further : Nat) (s : State) : State :=
  frameIn (key / 2 ^ 24) (roceBytes (portV6 s (key / 2 ^ 24)) (portTagged s (key / 2 ^ 24)) further 0) s

def execAckRx (qpn psn : Nat) (s : State) : Host.Outcome State Fault Refusal :=
  let s := ackFrame qpn 4 s
  let s := if validAck s qpn psn true then freeStore qpn psn true s else s
  .next (flushAll (if validAck s qpn psn false then freeStore qpn psn false s else s))

/-- The packets of a queue pair from a PSN on are sent again, the same bytes under the same PSNs. -/
def resendFrom (key psn : Nat) (s : State) : State :=
  (s.net.store.filter (fun p => decide (p.qpn = key) && !p.response && psnLe psn p.psn)).foldl (fun s p =>
    frameOut p.port [(0x150, 1)] (.packet p) s) s

/-- A lost reply or record of a session counts in LOST; a lost record's ring entry is taken by the next one (R366). -/
def loseRecord (p : TxPkt) (s : State) : State :=
  match p.record with
  | none => s
  | some (i, _) => s.setSession i (fun x =>
      let inRing := decide (p.rkey = x.ring.key ∧ x.ring.va ≤ p.va ∧ p.va < x.ring.va + 128 * x.ring.entries)
      { x with lost := sat 0xFFFF (x.lost + 1), ring := if inRing then ringBack x.ring else x.ring })

/-- A queue pair fails: it enters the error state, its packets leave the store, what they carried is lost, and what waited
for it ends. -/
def failQp (key : Nat) (e : QpErr) (steps : List (Nat × Nat × Nat)) (s : State) : State :=
  let mine := (s.net.store ++ s.net.waiting).filter (fun p => decide (p.qpn = key))
  let s := purgePkts (fun k => k == key) (qpError key e s)
  let s := mine.foldl (fun s p => loseRecord p s) s
  match (s.qp key).bind (fun q => q.peer) with
  | some (t, k) => flushAll (failPosting t k (peerStatus s t (s.qp key)) steps s)
  | none => flushAll s

/-- The steps of the packet that drew a NAK. -/
def stepsAt (s : State) (key psn : Nat) : List (Nat × Nat × Nat) :=
  (s.net.store.filter (fun p => decide (p.qpn = key ∧ p.psn = psn) && !p.response)).filterMap (fun p => p.step)

/-- A NAK: what came before is acknowledged; a sequence error or a receiver not ready has the packets sent again, any other
kind ends the queue pair. -/
def takeNak (key psn kind : Nat) (s : State) : State :=
  let s := countPort (key / 2 ^ 24) (0x1C0 + 8 * kind) 1 s
  let s := freeStore key ((psn + 2 ^ 24 - 1) % 2 ^ 24) false s
  if kind = 0 ∨ kind = 4 then flushAll (resendFrom key psn s)
  else failQp key (if kind = 3 then .fenced else .access) (if kind = 3 then stepsAt s key psn else []) s

def execNakRx (qpn psn kind : Nat) (s : State) : Host.Outcome State Fault Refusal :=
  let s := ackFrame qpn 4 s
  if validAck s qpn psn false ∧ kind < 5 then .next (takeNak qpn psn kind s) else .next s

/-- The oldest packet of a queue pair that is not acknowledged. -/
def oldestTx (s : State) (key : Nat) : Option TxPkt := s.net.store.find? (fun p => decide (p.qpn = key) && !p.response)

/-- The local ACK timeout: the packets are sent again, or the retries have run out. -/
def ackTimedOut (key : Nat) (p : TxPkt) (s : State) : State :=
  if ((s.qp key).map (fun q => q.retryCount)).getD 7 ≤ p.retries then failQp key .retries [] s
  else
    resendFrom key p.psn (s.onNet (fun n => { n with
      store := n.store.map (fun x => if x.qpn = key ∧ x.psn = p.psn ∧ !x.response then { x with retries := x.retries + 1 } else x) }))

def execAckTimeout (qpn : Nat) (s : State) : Host.Outcome State Fault Refusal :=
  match oldestTx s qpn with
  | none => .next s
  | some p => .next (ackTimedOut qpn p s)

/-! ### Congestion and pause (R347, R350) -/

/-- Line rate of a port in Mbit/s. -/
def lineRate (s : State) (port : Nat) : Nat := if (s.port port).link = 2 then 400000 else 800000
def ecnBase (s : State) (port : Nat) : Nat := (settingOf s 2 port 8).getD 1 5 * 1000
def ecnShift (s : State) (port : Nat) : Nat := (settingOf s 2 port 8).getD 0 3

/-- A notification lowers the rate by the factor 1 − β, to no less than 1 Gbit/s, and A returns to its base; a second one
within 50 µs is ignored. -/
def slowDown (s : State) (q : Qp) : Qp :=
  if (q.cnpAt.map (fun t => decide (usNow s < t + 50))).getD false then q
  else
    let r := min q.rate (lineRate s q.port)
    { q with rate := max 1000 (r - r / 2 ^ ecnShift s q.port), cnpAt := some (usNow s), cnpRuns := 0, stepRate := ecnBase s q.port }

def execCnpRx (qpn : Nat) (s : State) : Host.Outcome State Fault Refusal :=
  let s := ackFrame qpn 16 s
  match s.qp qpn with
  | none => .next s
  | some q => .next (countPort q.port 0x160 1 (s.putQp qpn (some (slowDown s q))))

/-- 100 µs without a notification: the rate rises by A, which doubles at each step after the fifth, up to 80 Gbit/s. -/
def speedUp (s : State) (q : Qp) : Qp :=
  let a := if q.cnpRuns < 5 then ecnBase s q.port else min 80000 (2 * q.stepRate)
  { q with rate := min (lineRate s q.port) (q.rate + a), cnpRuns := q.cnpRuns + 1, stepRate := a }

def execCnpRateStep (qpn : Nat) (s : State) : Host.Outcome State Fault Refusal :=
  match s.qp qpn with
  | none => .next s
  | some q => .next (s.putQp qpn (some (speedUp s q)))

/-- XOFF stops a priority for its pause quanta and counts in XOFF_RX; quanta 0 let it go on: the frames held leave (R347). -/
def execPfcXoffRx (port priority quanta : Nat) (s : State) : Host.Outcome State Fault Refusal :=
  onPort port (fun s =>
    let s := frameIn port 64 s
    let others := (s.port port).paused.filter (fun k => k ≠ priority)
    if quanta = 0 ∨ 8 ≤ priority then releaseHeld port (s.setPort port (fun x => { x with paused := others }))
    else countPort port 0x170 1 (s.setPort port (fun x => { x with paused := others ++ [priority] }))) s

def execPfcPauseExpiry (port priority : Nat) (s : State) : Host.Outcome State Fault Refusal :=
  onPort port (fun s => releaseHeld port (s.setPort port (fun x => { x with paused := x.paused.filter (fun k => k ≠ priority) }))) s

end Sys2Proof.Machine
end

