-- ==== Sys2Proof/Machine/Ethernet.lean ====
section
/-! DEFINITION. Ethernet and the ports: address resolution and echo (R324), frames that are dropped (R323), LLDP (R325, R326), links
(R321, R353) and the FEC rate (R322). -/

namespace Sys2Proof.Machine

/-- A port's frames reach the hub: it runs, or recovery has raised its port logic, and the device is not in RETAIN. -/
def portsServed (s : State) : Bool :=
  (!s.kp.hubHeld || decide (s.kp.stage = 0xD)) && decide (s.pwr.retain < 2 ∨ s.pwr.retain = 8)

/-- A frame of n bytes that a port takes. -/
def onFrame (port n : Nat) (f : State → State) (s : State) : Host.Outcome State Fault Refusal :=
  onPort port (fun s => if portsServed s then f (frameIn port n s) else s) s

/-! ### Addresses (R324, R426) -/

/-- The link-local IPv6 address that a port's MAC address gives. -/
def linkLocal (s : State) (p : Nat) : Nat :=
  let mac := s.kp.fuses.macBase.toNat + p
  0xFE80 * 2 ^ 112 + ((mac / 2 ^ 24 % 2 ^ 24) ^^^ 0x020000) * 2 ^ 40 + 0xFFFE * 2 ^ 24 + mac % 2 ^ 24

/-- A port's own addresses: of the settings, and in recovery without any the link-local one. -/
def ownAddresses (s : State) (p : Nat) : List Nat :=
  let l := (settingOf s 2 p 3).take 1 ++ (settingOf s 2 p 4).take 1
  if l = [] ∧ s.kp.stage = 0xD then [linkLocal s p] else l

def execArpRequestRx (port ip _mac _srcIp : Nat) (s : State) : Host.Outcome State Fault Refusal :=
  onFrame port 64 (fun s => if (ownAddresses s port).contains ip then sendFrame port (.arpReply port ip) s else s) s

def execArpReplyRx (port ip mac : Nat) (s : State) : Host.Outcome State Fault Refusal :=
  onFrame port 64 (fun s =>
    if (partners s port).contains ip then
      s.setPort port (fun x => { x with arp := x.arp.filter (fun e => e.1 ≠ ip) ++ [(ip, mac)] })
    else s) s

/-- At most 100 echo replies in a second of a port. -/
def answerEcho (port ip id : Nat) (s : State) : State :=
  let x := s.port port
  if x.icmpFrom + 1000000 ≤ usNow s then
    sendFrame port (.icmpReply port ip id) (s.setPort port (fun x => { x with icmpFrom := usNow s, icmpCount := 1 }))
  else if x.icmpCount < 100 then
    sendFrame port (.icmpReply port ip id) (s.setPort port (fun x => { x with icmpCount := x.icmpCount + 1 }))
  else s

def execIcmpEchoRx (port ip srcIp id : Nat) (s : State) : Host.Outcome State Fault Refusal :=
  onFrame port 64 (fun s => if (ownAddresses s port).contains ip then answerEcho port srcIp id s else discard port s) s

/-! ### Frames that are dropped (R323) -/

/-- The EtherTypes that the device accepts. -/
def etherTypes : List Nat := [0x0800, 0x86DD, 0x0806, 0x88CC, 0x8808, 0x88B5, 0x88B6]
/-- IP traffic that the device does not take (R324): options or extension headers, UDP to another port than RoCEv2's and the recovery
port, ICMP but echo requests, ICMPv6 but echo requests and neighbour discovery, and any other protocol. -/
def otherIp (f : EthBody) : Bool :=
  decide (f.etherType = 0x0800 ∨ f.etherType = 0x86DD)
    && (f.options || (if f.protocol = 17 then decide (f.udpPort ≠ 4791 ∧ f.udpPort ≠ 4792)
      else if f.protocol = 1 then decide (f.icmpType ≠ 8)
      else if f.protocol = 58 then decide (f.icmpType ≠ 128 ∧ f.icmpType ≠ 135 ∧ f.icmpType ≠ 136) else true))
/-- A frame that no part of the device takes. -/
def badFrame (bytes : Nat) (f : EthBody) (fcsOk : Bool) : Bool :=
  decide (bytes < 64 ∨ 9216 < bytes) || !fcsOk || !etherTypes.contains f.etherType || otherIp f

def execFrameDiscard (port bytes : Nat) (body : EthBody) (fcsOk : Bool) (s : State) : Host.Outcome State Fault Refusal :=
  if badFrame bytes body fcsOk then onFrame port bytes (discard port) s else onPort port id s

/-! ### LLDP (R325, R326) -/


def execLldpSend (s : State) : Host.Outcome State Fault Refusal :=
  if portsServed s && !s.kp.hubHeld then
    .next (((portsOf s).filter (portUp s)).foldl (fun s p => sendFrame p (.lldp p s.kp.fuses.serial.toNat p 20) s) s)
  else .next s

/-- The most recent neighbour is kept; a second one within the TTL is reported. -/
def noteNeighbour (port : Nat) (f : LldpFrame) (s : State) : State :=
  let two := neighbourLive s (s.port port) && decide ((s.port port).neighbour ≠ some f)
  s.setPort port (fun x => { x with
    neighbour := some f, neighbourAt := keeperNow s, neighMismatch := x.neighMismatch || two })

/-- The peers of the bindings in force that a port serves. -/
def boundPeers (s : State) (port : Nat) : List Peer :=
  (present s.net.jobs).flatMap (fun e => e.2.peers.filter (fun p => p.entry.port = port))

/-- The comparison on a bound port: a neighbour other than the expected one puts its peer queue pairs in error. -/
def compareBound (port : Nat) (s : State) : State :=
  match boundPeers s port with
  | [] => s
  | p :: ps =>
    let bad := (p :: ps).any (fun p => decide (neighResult s p.entry = 2))
    let s := s.setPort port (fun x => { x with neigh := if bad then 2 else 1, neighMismatch := x.neighMismatch || bad })
    if bad then (p :: ps).foldl (fun s p => failQp p.qpn .topology [] s) s else s

/-- A binding that waits for this port's neighbour may go on. -/
def execLldpRx (port : Nat) (f : LldpFrame) (s : State) : Host.Outcome State Fault Refusal :=
  onFrame port 64 (fun s =>
    let s := compareBound port (noteNeighbour port f s)
    (present s.net.binding).foldl (fun s e => tryLldp e.1 s) s) s

/-! ### Links (R321, R324, R353) -/

/-- LINK and the lanes in use of a MODE that is not disabled. -/
def modeLink (mode : Nat) : Nat := if mode = 0 then 1 else 2
def modeLanes (mode : Nat) : BitVec 4 := if mode = 0 then 0xF else if mode = 1 then 0x3 else 0xC

/-- The MODE that a port runs: of its settings, or 0 in recovery. -/
def modeOf (s : State) (p : Nat) : Nat := if s.kp.stage = 0xD then 0 else portMode s p

/-- The hub-to-engine lanes that the MODE uses are in service; the engine's lanes 0 to 3 serve its first port (R436; DEDUCED, log entry 55). -/
def lanesServe (s : State) (p : Nat) : Bool :=
  let lanes := ((s.engine (p / 2)).lanes >>> (4 * (p % 2))).truncate 4
  (lanes &&& modeLanes (modeOf s p)) == modeLanes (modeOf s p)

/-- The port can train: it is not disabled, its engine is up and lit, and its own light is not off. -/
def canTrain (s : State) (p : Nat) : Bool :=
  decide ((s.port p).link = 0 ∧ modeOf s p < 3 ∧ (s.engine (p / 2)).state = 0) && (s.engine (p / 2)).laserOn
    && !(s.port p).lightOff && decide (s.pwr.retain < 2 ∨ s.pwr.retain = 8) && lanesServe s p

/-- The port is up, and announces its addresses; tally returns that have waited for it go (R344). -/
def linkUpAt (port : Nat) (s : State) : State :=
  let m := modeOf s port
  let s := s.setPort port (fun x => { x with link := modeLink m, laneSignal := x.laneSignal ||| modeLanes m, lit := true })
  let s := (ownAddresses s port).foldl (fun s ip => sendFrame port (.announce port ip) s) s
  sendReturns port (askAll port s)

def execPortLinkUp (port : Nat) (s : State) : Host.Outcome State Fault Refusal :=
  onPort port (fun s => if canTrain s port then linkUpAt port s else s) s

def execPortLinkDown (port : Nat) (laneSignal : BitVec 4) (s : State) : Host.Outcome State Fault Refusal :=
  onPort port (fun s =>
    let s := if portUp s port then dropLink port 0 s else s
    s.setPort port (fun x => { x with laneSignal := laneSignal, lit := decide (laneSignal ≠ 0) })) s

def execPortTrainRetry (port : Nat) (laneSignal : BitVec 4) (s : State) : Host.Outcome State Fault Refusal :=
  onPort port (fun s =>
    if (s.port port).link = 0 then s.setPort port (fun x => { x with laneSignal := laneSignal, lit := decide (laneSignal ≠ 0) })
    else s) s

/-- Codewords of 5,440 bits that a port receives in 1 s: 212.5 Gbit/s on each lane. -/
def codewordsPerSecond (s : State) (p : Nat) : Nat := if (s.port p).link = 2 then 78125000 else 156250000

def execFecRateCheck (port corrected uncorrected : Nat) (s : State) : Host.Outcome State Fault Refusal :=
  onPort port (fun s =>
    let s := countPort port 0x128 uncorrected (countPort port 0x120 corrected s)
    if codewordsPerSecond s port < uncorrected * 10 ^ 8 then s.setPort port (fun x => { x with linkDegraded := true }) else s) s

end Sys2Proof.Machine
end

