-- ==== Sys2Proof/Machine/Optics.lean ====
section
/-! DEFINITION. The optical engines' lasers and the reflection check (R316 to R319). -/

namespace Sys2Proof.Machine

/-- The hub removes a laser's enable: both ports report it and go down (R318). -/
def loseLaser (e : Nat) (s : State) : State :=
  let s := s.setEngine e (fun x => { x with laserOn := false, laserFaults := x.laserFaults + 1 })
  let s := [2 * e, 2 * e + 1].foldl (fun s p => s.setPort p (fun x => { x with laserFault := true })) s
  dropEnginePorts e s

/-- What a poll of one module shows: an enabled laser whose module is gone or in fault is put out, and LASER_FAULT is set again while its
cause persists (R353). -/
def pollEngine (modules : List LaserReading) (faults : List Nat) (e : Nat) (s : State) : State :=
  let was := (s.engine e).laserOn
  let m := modules.find? (fun m => m.engine = e)
  let bad := m.isSome && faults.contains e
  let gone := m.isNone && ((s.engine e).laserPresent || (s.engine e).removed)
  let s := s.setEngine e (fun x => { x with laserPresent := m.isSome, laserFault := bad, removed := gone, module := m })
  if was && (m.isNone || bad) then loseLaser e s
  else if bad || gone then [2 * e, 2 * e + 1].foldl (fun s p => s.setPort p (fun x => { x with laserFault := true })) s
  else s

/-- The management bus is read while the hub runs: a module on each channel that answers, and those that report a fault. -/
def execLaserPoll (modules : List LaserReading) (faults : List Nat) (s : State) : Host.Outcome State Fault Refusal :=
  if s.kp.hubHeld ∧ s.kp.stage ≠ 0xD then .next s
  else .next (((List.range 6).filter (enginePresent s)).foldl (fun s e => pollEngine modules faults e s) s)

/-- A module's fault (0), light below half of its output (1) or removal (2). -/
def execLaserModuleFault (engine cause : Nat) (s : State) : Host.Outcome State Fault Refusal :=
  onEngine engine (fun s =>
    if !(s.engine engine).laserOn then s
    else loseLaser engine (s.setEngine engine (fun x => { x with
      laserFault := x.laserFault || decide (cause = 0), laserPresent := x.laserPresent && decide (cause ≠ 2)
      removed := x.removed || decide (cause = 2) }))) s

/-- A laser that is off, whose module is present and reports no fault, is tried again; a failed try counts as a fault. -/
def execLaserRetry (engine : Nat) (works : Bool) (s : State) : Host.Outcome State Fault Refusal :=
  onEngine engine (fun s =>
    if (s.engine engine).laserOn || !laserAllowed s engine then s
    else if works then s.setEngine engine (fun x => { x with laserOn := true })
    else loseLaser engine s) s

/-- An open transmit connector: the port's own light goes off; the engine's other port is not affected (R319). -/
def execReflectionOpen (port : Nat) (s : State) : Host.Outcome State Fault Refusal :=
  onPort port (fun s =>
    let s := if (s.port port).link = 3 then s else dropLink port 0 s
    s.setPort port (fun x => { x with lightOff := true, mated := 0 })) s

/-- The engine sends its probe of a dark port (R319): the third one in a row that finds the connector mated lights the port again. -/
def execReflectionProbe (port : Nat) (mated : Bool) (s : State) : Host.Outcome State Fault Refusal :=
  onPort port (fun s =>
    if !(s.port port).lightOff then s else
    let s := s.send (.probe port)
    if !mated then s.setPort port (fun x => { x with mated := 0 })
    else if (s.port port).mated + 1 < 3 then s.setPort port (fun x => { x with mated := x.mated + 1 })
    else lightLasers (s.setPort port (fun x => { x with lightOff := false, mated := 0 }))) s

end Sys2Proof.Machine
end

