-- ==== Sys2Proof/Machine/ThermalCmds.lean ====
section
/-! DEFINITION. The thermal commands: THERMAL_HINT and the end of a hint, COOLING_BASELINE (R509, R513, R514). -/

namespace Sys2Proof.Machine

/-- COOLING_DEGRADED (R509): set above 1.3 times the baseline or by a hinted flow below 1.5 L/min; clear below 1.2 times it
without such a hint; in between as it was. -/
def coolingFlag (baseline rth : Nat) (hint : Option Hint) (was : Bool) : Bool :=
  let low := match hint with | some h => decide (0 < h.flow ∧ h.flow < 1500) | none => false
  if low then true
  else if baseline = 0 then false
  else if 13 * baseline < 10 * rth then true
  else if 10 * rth < 12 * baseline then false
  else was

def judgeCooling (s : State) : State :=
  s.onThm (fun t => { t with coolingDegraded := coolingFlag s.kp.baseline t.rth t.hint t.coolingDegraded })

/-- A hint more than 5 °C from the thermistor. -/
def hintApart (inlet thermistor : Int) : Bool := decide (80 < inlet - thermistor ∨ 80 < thermistor - inlet)

def execThermalHint (cx : Cmd) (inlet : Int) (flow lifetime : Nat) (s : State) : Host.Outcome State Fault Refusal :=
  qci cx 0x00A0 (fun s =>
    if inlet < 0 ∨ 960 < inlet ∨ 65535 < flow ∨ lifetime < 100 ∨ 60000 < lifetime then .fail s .badDesc
    else
      let s := s.onThm (fun t =>
        { t with hint := some { inlet := inlet, flow := flow, until_ := usNow s + lifetime * 1000 },
                 inletDisagree := t.inletDisagree || hintApart inlet t.thermistor })
      .ok (judgeCooling s) [tempHalf inlet, tempHalf s.thm.thermistor]) s

def execHintExpiry (s : State) : Host.Outcome State Fault Refusal :=
  .next (judgeCooling (s.onThm (fun t => { t with hint := none })))

/-- R has been updated at every 500 µs of the last 5 s, at 1,000 W or more on average over that time. -/
def baselineReady (s : State) : Bool := decide (s.thm.rthWatts.length = 10000 ∧ 10000 * 1000 ≤ s.thm.rthWatts.foldl (· + ·) 0)

/-- The baseline with what it was taken at goes to MRAM. -/
def putBaseline (v : Nat) (s : State) : State :=
  judgeCooling (s.onKp (fun k => { k with
    baseline := v, baseInlet := inletOf s, baseFlow := (s.thm.hint.map (fun h => h.flow)).getD 0, baseAt := keeperNow s }))

def execCoolingBaseline (cx : Cmd) (mode value : Nat) (s : State) : Host.Outcome State Fault Refusal :=
  qci cx 0x00A1 (fun s =>
    if 2 < mode ∨ (mode = 1 ∧ (value < 655 ∨ 6554 < value)) then .fail s .badDesc
    else if mode = 0 ∧ !baselineReady s then .fail s .busy
    else if !mramOpen s then .fail s .tempRange
    else
      let s := if mode = 0 then putBaseline s.thm.rth s else if mode = 1 then putBaseline value s
        else judgeCooling (s.onKp (fun k => { k with baseline := 0 }))
      .ok s [s.kp.baseline]) s

end Sys2Proof.Machine
end

