-- ==== Sys2Proof/Machine/PowerManager.lean ====
section
/-! DEFINITION. The power loop (R506, R507, R509, R513), the framer's heartbeat (R463), the random source's health (R396) and the
keeper's queue of MRAM writes (R422). -/

namespace Sys2Proof.Machine

/-! ### Power (R506, R507, R510) -/

/-- R and PCAP are frozen in RETAIN, its entry and its exit (R489, R520). -/
def thermFrozen (s : State) : Bool := decide (2 ≤ s.pwr.retain)

def raiseCap (n : Nat) (t : Therm) : Therm := { t with lCap := min 32 (t.lCap + n) }

/-- Averages of the last second seen while no stage ran, kept so that they rise with time. -/
def noteIdle (now avg : Nat) (quiet : Bool) (l : List (Nat × Nat)) : List (Nat × Nat) :=
  let l := l.filter (fun e => decide (now < e.1 + 1000000))
  if quiet then l.filter (fun e => decide (e.2 < avg)) ++ [(now, avg)] else l

/-- No stage runs on the device. -/
def noStage (s : State) : Bool := s.jig.steps.all (fun x => x.active.isEmpty)

def execPowerMeasure (watts avg10ms : Nat) (s : State) : Host.Outcome State Fault Refusal :=
  let isOver := decide (s.thm.pcap < avg10ms)
  .next (noteSteps (syncPegs (s.onThm (fun t =>
    let t := { t with p10ms := avg10ms, idleAvg := noteIdle (usNow s) avg10ms (noStage s) t.idleAvg }
    let t := if isOver then raiseCap 1 t else t
    if 2300 < watts then raiseCap 4 t else t))))

def execLcapLower (avg10ms : Nat) (s : State) : Host.Outcome State Fault Refusal :=
  if 100 * avg10ms ≤ 95 * s.thm.pcap then .next (noteSteps (syncPegs (s.onThm (fun t => { t with lCap := t.lCap - 1 })))) else .next s

/-- The largest sill temperature of the device. -/
def hottestSill (s : State) : Int := (List.range 4).foldl (fun m b => max m (s.bent b).sillT) (s.bent 0).sillT

/-- x of R506 in 1/65,536 °C/W. -/
def sampleRth (s : State) (avg : Nat) : Nat := ((hottestSill s - inletOf s) * 4096 / (avg : Int)).toNat

/-- R moves a two-thousandth of the way to x; rthFrac holds the two-thousandths. -/
def moveRth (x : Nat) (t : Therm) : Therm :=
  let full := t.rth * 2000 + t.rthFrac + x - t.rth
  { t with rth := full / 2000, rthFrac := full % 2000 }

/-- An update at less than 400 W leaves R, and breaks the run that COOLING_BASELINE asks for. -/
def updateRth (avg : Nat) (s : State) : State :=
  if avg < 400 then s.onThm (fun t => { t with rthWatts := [] })
  else s.onThm (fun t => { moveRth (sampleRth s avg) t with rthWatts := (avg :: t.rthWatts).take 10000 })

def execRthUpdate (avg10ms : Nat) (thermistor : Int) (s : State) : Host.Outcome State Fault Refusal :=
  let s := s.onThm (fun t => { t with
    thermistor := thermistor
    inletDisagree := t.inletDisagree || ((t.hint.map (fun h => hintApart h.inlet thermistor)).getD false) })
  if thermFrozen s then .next s else .next (judgeCooling (updateRth avg10ms s))

/-- The formula of PCAP, over the lowest SILL_LIMIT of the bents. -/
def capFormula (s : State) : Nat :=
  let limit := (List.range 4).foldl (fun m b => min m (sillLimit s b)) (sillLimit s 0)
  if s.thm.rth = 0 then 2000 else (((limit - 3) * 16 - inletOf s) * 4096 / (s.thm.rth : Int)).toNat

/-- PCAP and the term that set it: 0 formula, 1 2,000 W, 2 PKG_LIMIT, 3 floor. -/
def capOf (s : State) : Nat × Nat :=
  let f := capFormula s
  let top := min 2000 (pkgLimit s)
  if min f top < 400 then (400, 3) else if f < top then (f, 0) else if pkgLimit s < 2000 then (pkgLimit s, 2) else (2000, 1)

def execPcapUpdate (s : State) : Host.Outcome State Fault Refusal :=
  if thermFrozen s then .next s
  else .next (s.onThm (fun t => { t with pcap := (capOf s).1, pcapSource := (capOf s).2 }))

/-! ### Heartbeat (R463) -/

/-- The framer's main loop runs. -/
def framerRuns (s : State) : Bool := !s.kp.hubHeld && !s.qci.framerHalted && decide (2 ≤ s.kp.stage ∧ s.kp.stage ≤ 0xC)

/-- The records that waited for the framer are written (R488). -/
def writeWaiting (s : State) : State :=
  s.qci.waiting.foldl (fun s e => writeRecord e.1 e.2.1 e.2.2 s) (s.onQci (fun q => { q with waiting := [] }))

/-- FRAMER counts, and a stall that the keeper saw is over. -/
def execHeartbeatTick (s : State) : Host.Outcome State Fault Refusal :=
  if framerRuns s then
    .next (writeWaiting (alertOff 3 ((s.onQci (fun q => { q with framer := (q.framer + 1) % 65536 })).onKp (fun k =>
      { k with framerStall := false }))))
  else .next s

/-- The keeper has seen no change for 100 ms; in RETAIN the heartbeat is frozen and nothing is judged (R489). -/
def execFramerStall (s : State) : Host.Outcome State Fault Refusal :=
  if !s.kp.hubHeld && decide (2 ≤ s.kp.stage ∧ s.kp.stage ≤ 0xC) && decide (s.pwr.retain < 4 ∨ s.pwr.retain = 8) then
    .next (alertOn 3 (s.onKp (fun k => { k with framerStall := true })))
  else .next s

/-! ### The keeper (R396, R422) -/

def execRandomHealthFail (s : State) : Host.Outcome State Fault Refusal :=
  if s.kp.randomOk then .next (logEvent 0x0004 0 [] (s.onKp (fun k => { k with randomOk := false }))) else .next s

def execRandomHealthRecovered (s : State) : Host.Outcome State Fault Refusal := .next (s.onKp (fun k => { k with randomOk := true }))

def execMramQueueFlush (s : State) : Host.Outcome State Fault Refusal :=
  if mramOpen s then .next (s.onKp flushQueue) else .next s

end Sys2Proof.Machine
end

