-- ==== Sys2Proof/Machine/ReadCmds.lean ====
section
/-! DEFINITION. The reading commands: STATUS_READ, LOG_READ and REG_READ (R173, R224, R235, R373, R441, R549 to R552, R565,
R573). -/

namespace Sys2Proof.Machine

/-! ### STATUS_READ -/

/-- The mailbox number whose window a caller sees. -/
def mailboxOf (s : State) (cx : Cmd) : Nat := (tenantOf s cx).getD 0xFF

/-- The words of a mailbox's window that are not zero. -/
def windowWords (s : State) (mailbox : Nat) : List (Nat × Word) :=
  (List.range 16384).filterMap (fun w => let v := snapWord s mailbox w; if v = 0 then none else some (w, v))

def execStatusRead (cx : Cmd) (reply : Reply) (s : State) : Host.Outcome State Fault Refusal :=
  qci cx 0x00B0 (fun s => replied cx reply 65536 (.words (windowWords s (mailboxOf s cx))) [] s) s

/-! ### LOG_READ -/

/-- The sizes of the fields of DATA, from its first byte on, by event code (R573). -/
def eventSizes (code : Nat) : List Nat :=
  match code with
  | 0x0001 | 0x0002 => [6, 2, 1, 1, 2, 1, 3]
  | 0x0006 => [2, 1, 1]
  | 0x0007 | 0x000C => [1, 2, 1]
  | 0x0008 => [2, 1, 1]
  | 0x0009 => [2, 2, 2]
  | 0x000A => [1, 2, 2]
  | 0x000D => [1, 2]
  | 0x0010 => [2, 2, 4]
  | _ => [1]
/-- An MRAM event log entry (R573): DATA is filled with zeros to 24 bytes. -/
def mramRow (e : MramEntry) : List Nat :=
  let fields := (eventSizes e.code).zip (e.data.map (signed 64))
  let used := fields.foldl (fun n f => n + f.1) 0
  record ([(8, e.time), (4, e.boot), (2, e.code), (1, e.source), (1, 0), (2, e.lost), (6, 0)] ++ fields ++ [(24 - used, 0)])
/-- An ECC log entry (R224). -/
def eccRow (e : EccEntry) : List Nat :=
  record [(6, e.stamp), (2, e.pjoist), (1, e.unit), (1, e.kind + 16 * e.src), (2, e.row), (1, e.cw), (1, 0), (2, e.syndrome.toNat)]
/-- A margin record's entry and its header (R173). -/
def marginRow (e : MarginRec) : List Nat :=
  record [(2, e.pjoist), (1, e.bank), (1, bit 0 e.marginal + bit 1 e.failed + bit 2 e.badSpare), (1, signed 8 e.tLow),
    (1, signed 8 e.tHigh), (1, signed 8 e.vLow), (1, signed 8 e.vHigh)]
def marginHead (b : Nat) (r : MarginRecord) : List Nat :=
  record [(1, b), (1, r.result), (2, r.tested.length), (2, r.tested.length * r.banks), (1, signed 8 r.vCeil), (1, 0), (8, r.stamp)]
/-- The entry of a bank of a tested joist: one that passed at every point has the whole sweep for its window. -/
def bankRow (r : MarginRecord) (p i : Nat) : List Nat :=
  marginRow ((r.entries.find? (fun e => e.pjoist = p ∧ e.bank = i)).getD
    { pjoist := p, bank := i, marginal := false, failed := false, badSpare := false, tLow := -8, tHigh := 7
      vLow := -20, vHigh := r.vCeil })
def marginRows (r : MarginRecord) : List (List Nat) := r.tested.flatMap (fun p => (List.range r.banks).map (bankRow r p))
/-- A remap entry as MRAM holds it: a DONE that is not yet written does not show (R232, R235). -/
def remapRow (e : Remap) : List Nat :=
  record [(2, keyIndex e.joist), (1, keyBent e.joist), (1, e.bank), (2, e.row), (1, e.spare),
    (1, 3 + bit 2 (e.isDone && !e.unwritten) + bit 3 e.hadUe)]

/-- The entries of a log, the bytes of one, and what precedes them. -/
structure LogView where
  rows : List (List Nat)
  size : Nat
  head : List (List Nat) := []
  headSize : Nat := 0
  deriving DecidableEq, Repr

/-- The log that a number names, oldest entry first. -/
def logView (s : State) (log : Nat) : LogView :=
  if log = 0 then ⟨s.kp.log.map mramRow, 48, [], 0⟩
  else if log ≤ 5 then ⟨(mget {} s.ecc.logs (log - 1)).entries.map eccRow, 16, [], 0⟩
  else if log ≤ 9 then
    let r := mget {} s.ecc.margin (log - 6)
    ⟨marginRows r, 8, [marginHead (log - 6) r], 16⟩
  else if log = 10 then ⟨(s.kp.remaps.filter (fun r => r.isDone || !r.unwritten)).map remapRow, 8, [], 0⟩
  else ⟨[(topologyReport s).flatten], 752, [], 0⟩

/-- The entries from FIRST on, COUNT of them or all. -/
def logSlice (first count : Nat) (l : List (List Nat)) : List (List Nat) :=
  if count = 0 then l.drop first else (l.drop first).take count

def execLogRead (cx : Cmd) (log first count : Nat) (reply : Reply) (s : State) : Host.Outcome State Fault Refusal :=
  qci cx 0x00B1 (fun s =>
    if 11 < log then .fail s .badDesc
    else
      let v := logView s log
      let rows := logSlice first count v.rows
      replied cx reply (v.headSize + v.size * rows.length) (.rows (v.head ++ rows)) [] s) s

/-! ### REG_READ -/

/-- Reads a list of addresses in order, latching as it goes. -/
def readRegs (s : State) : List Nat → List Nat × State
  | [] => ([], s)
  | a :: l =>
    match blockOf s a with
    | none => ([], s)
    | some (k, off) =>
      let r := readReg a k off s
      let rest := readRegs r.2 l
      (r.1 :: rest.1, rest.2)

def execRegRead (cx : Cmd) (addrs : List Nat) (s : State) : Host.Outcome State Fault Refusal :=
  qci cx 0x00B2 (fun s =>
    if addrs = [] ∨ 4 < addrs.length ∨ addrs.any (fun a => (blockOf s a).isNone) then .fail s .badDesc
    else
      let may (a : Nat) : Bool := match blockOf s a, callerOf s cx.session with
        | some (k, off), some c => mayRead s c k off
        | _, _ => false
      if addrs.all may then let r := readRegs s addrs; .ok r.2 r.1 else .fail s .auth) s

end Sys2Proof.Machine
end

