-- ==== Sys2Proof/Machine/Recovery.lean ====
section
/-! DEFINITION. Recovery: the datagrams to UDP port 4792 (R425 to R428). -/

namespace Sys2Proof.Machine

/-- A datagram of recovery of n bytes reaches the keeper: the device is in recovery, on P0 or P1 (R426). -/
def onRecovery (port n : Nat) (f : Recovery → State → State) (s : State) : Host.Outcome State Fault Refusal :=
  onPort port (fun s =>
    match s.kp.recovery with
    | some r => if s.kp.stage = 0xD ∧ port < 2 then f r (frameIn port (udpBytes (portV6 s port) (portTagged s port) n) s) else s
    | none => s) s

def putRecovery (r : Recovery) (s : State) : State := s.onKp (fun k => { k with recovery := some r })
/-- A recovery datagram: TYPE, a reserved byte, LEN and the body (R427). -/
def datagram (type : Nat) (body : List Byte) : List Byte := leBytes 1 type ++ leBytes 1 0 ++ leBytes 2 body.length ++ body
def answer (port addr type : Nat) (body : List Byte) (s : State) : State := sendFrame port (.recovery port addr (datagram type body)) s
def refuse (port addr : Nat) (st : Status) (s : State) : State := answer port addr 0x08 (leBytes 1 (statusCode st)) s

/-- The body of R_OFFER (R427). -/
def offerBody (s : State) (challenge : BitVec 128) (reason : Nat) : List Byte :=
  let b := leBytes 8 s.kp.fuses.serial.toNat ++ leBytes 4 s.kp.fwCounter ++ leBytes 4 romRev ++ beBytes 16 challenge.toNat
    ++ leBytes 1 reason ++ leBytes 1 (bit 0 s.kp.operatorKey.isSome)
  b ++ beBytes 64 (Config.identitySign s.kp.identityKey (sha (ascii "AFIAN-REC-1 offer" ++ b))).toNat
/-- What SIG of R_BEGIN signs. -/
def beginDigest (s : State) (challenge : BitVec 128) (length version : Nat) (digest : BitVec 256) : BitVec 256 :=
  sha (ascii "AFIAN-REC-1 begin" ++ beBytes 16 challenge.toNat ++ leBytes 4 length ++ leBytes 4 version ++ beBytes 32 digest.toNat
    ++ leBytes 8 s.kp.fuses.serial.toNat)

/-- R_HELLO: a new challenge, and any transfer in progress is abandoned. While the random source fails a health test, the
device cannot make one (R396). -/
def hello (port addr : Nat) (r : Recovery) (s : State) : State :=
  if !s.kp.randomOk then refuse port addr .failed s
  else
    let c : BitVec 128 := (Config.random (drawNo s)).truncate 128
    answer port addr 0x02 (offerBody s c r.reason)
      (spend 1 (putRecovery { r with challenge := some c, transfer := none } s))

def execRHello (port addr : Nat) (s : State) : Host.Outcome State Fault Refusal := onRecovery port 4 (hello port addr) s

/-- Another address than the transfer's is sent away. -/
def elsewhere (r : Recovery) (addr : Nat) : Bool :=
  match r.transfer with
  | some t => decide (t.addr ≠ none ∧ t.addr ≠ some addr)
  | none => false

/-- R_BEGIN: the challenge can be used once; the operator key, when enrolled, must have signed. -/
def beginTransfer (port addr : Nat) (challenge : BitVec 128) (length version : Nat) (digest : BitVec 256) (sig : BitVec 512)
    (r : Recovery) (s : State) : State :=
  if elsewhere r addr then refuse port addr .busy s
  else if r.challenge ≠ some challenge then refuse port addr .auth s
  else if (s.kp.operatorKey.map (fun k => !signedBy k (beginDigest s challenge length version digest) sig)).getD false ∨ version < s.kp.fwCounter then
    refuse port addr .auth (putRecovery { r with challenge := none } s)
  else putRecovery { r with challenge := none
                            transfer := some { addr := some addr, length := length, version := version, digest := digest } } s

def execRBegin (port addr : Nat) (challenge : BitVec 128) (length version : Nat) (digest : BitVec 256) (sig : BitVec 512)
    (s : State) : Host.Outcome State Fault Refusal :=
  onRecovery port 124 (beginTransfer port addr challenge length version digest sig) s

/-- R_DATA: image bytes go to MRAM and are acknowledged; outside [0, LENGTH) they fail, as in FW_CHUNK. -/
def takeData (port addr offset : Nat) (data : List Byte) (r : Recovery) (s : State) : State :=
  match r.transfer with
  | none => s
  | some t =>
    let ack (st : Status) (s : State) : State := answer port addr 0x05 (leBytes 4 offset ++ leBytes 2 data.length ++ leBytes 1 (statusCode st)) s
    if elsewhere r addr then refuse port addr .busy s
    else if data = [] ∨ 1024 < data.length ∨ min t.length 8388608 < offset + data.length then ack .badDesc s
    else if !mramOpen s then ack .tempRange s
    else ack .ok (storeImage offset data s)

def execRData (port addr offset : Nat) (data : List Byte) (s : State) : Host.Outcome State Fault Refusal :=
  onRecovery port (8 + data.length) (takeData port addr offset data) s

/-- R_END: steps 3 to 5 of R425; on success a cold bring-up starts, whose reports show that it followed a recovery. -/
def endTransfer (port addr : Nat) (r : Recovery) (s : State) : State :=
  match r.transfer with
  | none => s
  | some x =>
    if elsewhere r addr then refuse port addr .busy s else
    let done (st : Status) (s : State) : State := answer port addr 0x07 (leBytes 1 (statusCode st) ++ leBytes 4 (imageVersion s)) s
    let s := putRecovery { r with transfer := none } s
    if !mramOpen s then done .tempRange s
    else if !(imageDigestOk s x.length x.digest && imageAccepted s) then done .auth s
    else (startRaise true false (holdDies 120 (done .ok (commitImage s)))).onKp (fun k => { k with afterRecovery := true })

def execREnd (port addr : Nat) (_v : Unit) (s : State) : Host.Outcome State Fault Refusal :=
  onRecovery port 4 (endTransfer port addr) s

/-- 30 s without a datagram: the transfer is no longer bound to its address. -/
def execRecoverySilence (s : State) : Host.Outcome State Fault Refusal :=
  match s.kp.recovery with
  | none => .next s
  | some r => .next (putRecovery { r with transfer := r.transfer.map (fun t => { t with addr := none }) } s)

/-- Outside recovery every such datagram is refused, where the hub runs. -/
def execRecoveryDatagramRefused (port addr : Nat) (s : State) : Host.Outcome State Fault Refusal :=
  onPort port (fun s =>
    if s.kp.stage = 0xD ∨ s.kp.hubHeld ∨ (2 ≤ s.pwr.retain ∧ s.pwr.retain ≤ 7) then s else refuse port addr .busy s) s

end Sys2Proof.Machine
end

