-- ==== Sys2Proof/Machine/RegWrites.lean ====
section
/-! DEFINITION. REG_WRITE (R374, R551, R563, R564) and the writes of each permitted field (R169, R202, R227, R268, R353, R518,
R546). -/

namespace Sys2Proof.Machine

/-! ### The permitted fields -/

/-- The bits of a register that REG_WRITE may change; 0 where the register lies outside the permitted set. -/
def writable : Block → Nat → Nat
  | .bent _, 0x000 => 0x82
  | .bent _, 0x004 => 0xFFF
  | .bent _, 0x008 => 0xF
  | .bay _, 0x004 => 0x8000
  | .port _, 0x000 => 0x380
  | .hub, 0x024 => 0x12
  | .hub, 0x010 => 0x20000
  | _, _ => 0

/-- A field of a setting after the write: bits outside MASK are unchanged. -/
def merged (old value mask : Nat) : Nat := (old &&& (0xFFFFFFFF ^^^ mask)) ||| (value &&& mask)

/-- The setting that a write changes, with its new value. -/
def settingWritten (s : State) (k : Block) (off value mask : Nat) : Option Setting :=
  match k with
  | .bent b =>
    if off = 0x000 ∧ Nat.testBit mask 1 then some { block := 1, inst := b, num := 1, value := [value / 2 % 2] }
    else if off = 0x004 ∧ mask % 4096 ≠ 0 then
      some { block := 1, inst := b, num := 2, value := [merged ((s.bent b).rate % 4096) (value % 4096) (mask % 4096)] }
    else if off = 0x008 ∧ mask % 16 ≠ 0 then
      some { block := 1, inst := b, num := 3, value := [merged ((s.bent b).pegMax % 16) (value % 16) (mask % 16)] }
    else none
  | _ => none

/-! ### Immediate fields -/

/-- The neighbour on a port still differs from the one that a bound job expects there (R326, R353). -/
def neighPersists (s : State) (p : Nat) : Bool :=
  (present s.net.jobs).any (fun e => e.2.peers.any (fun x => decide (x.entry.port = p)
    && decide ((s.port p).neighbour ≠ some { subtype := x.entry.expSubtype, chassis := x.entry.expChassis, portId := x.entry.expPort })))

def clearPeak (b : Nat) (s : State) : State := s.setBent b (fun x => { x with postponePeak := 0 })
def clearTrig (n : Nat) (s : State) : State := s.setBay n (fun y => { y with matched := 0, unmatched := 0 })
/-- W1C bits are set again if their cause persists (R353). -/
def clearLaserFault (p : Nat) (s : State) : State := s.setPort p (fun x => { x with
  laserFault := (s.engine (p / 2)).laserFault || (s.engine (p / 2)).removed })
def clearDegraded (p : Nat) (s : State) : State := s.setPort p (fun x => { x with linkDegraded := false })
def clearNeigh (p : Nat) (s : State) : State := s.setPort p (fun x => { x with neighMismatch := neighPersists s p })
def clearSensorDisagree (s : State) : State := s.onThm (fun t => { t with sensorDisagree := false })
def clearInletDisagree (s : State) : State := s.onThm (fun t => { t with inletDisagree := false })
def clearPllLoss (s : State) : State := s.onPwr (fun p => { p with pllLoss := false })

def when (c : Bool) (f : State → State) (s : State) : State := if c then f s else s

/-- The immediate fields of a register to which the write puts 1. -/
def writeImmediate (k : Block) (off ones : Nat) (s : State) : State :=
  match k with
  | .bent b => when (decide (off = 0) && Nat.testBit ones 7) (clearPeak b) s
  | .bay n => when (decide (off = 4) && Nat.testBit ones 15) (clearTrig n) s
  | .port p =>
    if off = 0 then
      when (Nat.testBit ones 9) (clearNeigh p) (when (Nat.testBit ones 8) (clearDegraded p)
        (when (Nat.testBit ones 7) (clearLaserFault p) s))
    else s
  | .hub =>
    if off = 0x024 then when (Nat.testBit ones 4) clearInletDisagree (when (Nat.testBit ones 1) clearSensorDisagree s)
    else when (decide (off = 0x010) && Nat.testBit ones 17) clearPllLoss s
  | _ => s

/-! ### The write -/

/-- RESULT: the register after the write, and CFG_EPOCH. -/
def written (k : Block) (off : Nat) (s : State) : Ans := .ok s [blockReg s k off % 2 ^ 32, s.cfg.epoch]

def writeReg (addr value mask : Nat) (s : State) : Ans :=
  match blockOf s addr with
  | none => .fail s .badDesc
  | some (k, off) =>
    if writable k off = 0 then .fail s .auth
    else if mask &&& writable k off ≠ mask then .fail s .badDesc
    else
      match settingWritten s k off value mask with
      | none => written k off (writeImmediate k off (value &&& mask) s)
      | some x =>
        if !settingInRange x.block x.num x.value then .fail s .badDesc
        else if s.cfg.applying.isSome then .fail s .busy
        else written k off (writeImmediate k off (value &&& mask) (applySet [x] s))

/-- Register addresses of a bent, a port and a bay; an instance that no device has gives an address outside every block. -/
def bentAddr (b off : Nat) : Nat := if b < 4 then 0x20000000 + b * 0x100000 + off else 0
def portAddr (p : Nat) : Nat := if p < 12 then 0x30000000 + p * 0x10000 else 0
def bayAddr (n off : Nat) : Nat := if n < 64 then 0x60000000 + n * 0x1000 + off else 0

/-- REG_WRITE as a command of the catalogue. -/
def regCmd (cx : Cmd) (addr value mask : Nat) (s : State) : Host.Outcome State Fault Refusal :=
  qci cx 0x00B3 (writeReg addr value mask) s

def execRegWrite (cx : Cmd) (addr : Nat) (value mask : Word) (s : State) : Host.Outcome State Fault Refusal :=
  qci cx 0x00B3 (writeReg addr value.toNat mask.toNat) s

def execForceHotWrite (cx : Cmd) (bent : Nat) (on : Bool) (s : State) : Host.Outcome State Fault Refusal :=
  regCmd cx (bentAddr bent 0) (bit 1 on) 0x2 s
def execPeakClr (cx : Cmd) (bent : Nat) (s : State) : Host.Outcome State Fault Refusal :=
  regCmd cx (bentAddr bent 0) 0x80 0x80 s
def execScrubRateWrite (cx : Cmd) (bent rate : Nat) (s : State) : Host.Outcome State Fault Refusal :=
  regCmd cx (bentAddr bent 4) rate 0xFFF s
def execPegMaxWrite (cx : Cmd) (bent pegMax : Nat) (s : State) : Host.Outcome State Fault Refusal :=
  regCmd cx (bentAddr bent 8) pegMax 0xF s
def execBayTrigClr (cx : Cmd) (bay : Nat) (s : State) : Host.Outcome State Fault Refusal :=
  regCmd cx (bayAddr bay 4) 0x8000 0x8000 s
def execLaserFaultClear (cx : Cmd) (port : Nat) (s : State) : Host.Outcome State Fault Refusal :=
  regCmd cx (portAddr port) 0x80 0x80 s
def execLinkDegradedClear (cx : Cmd) (port : Nat) (s : State) : Host.Outcome State Fault Refusal :=
  regCmd cx (portAddr port) 0x100 0x100 s
def execNeighMismatchClear (cx : Cmd) (port : Nat) (s : State) : Host.Outcome State Fault Refusal :=
  regCmd cx (portAddr port) 0x200 0x200 s
def execSensorDisagreeClear (cx : Cmd) (s : State) : Host.Outcome State Fault Refusal := regCmd cx 0x10000024 0x2 0x2 s
def execInletDisagreeClear (cx : Cmd) (s : State) : Host.Outcome State Fault Refusal := regCmd cx 0x10000024 0x10 0x10 s
def execPllLossClear (cx : Cmd) (s : State) : Host.Outcome State Fault Refusal := regCmd cx 0x10000010 0x20000 0x20000 s

end Sys2Proof.Machine
end

