-- ==== Sys2Proof/Machine/Resets.lean ====
section
/-! DEFINITION. Requests for resets: RESET_PARTITION, RESET_DEVICE (R371, R376, R465, R486) and the keeper management frames
(R459, R471 to R473, R487, R543). -/

namespace Sys2Proof.Machine

/-- The tenancy owns every defined bay of the bents (R371, R473). -/
def ownsBents (s : State) (t : Nat) (bents : List Nat) : Bool :=
  (baysOnBents s bents).all (fun n => ((s.bayOf n).map (fun y => y.tenancy)) == some t)

/-- The requester may reset the bents. -/
def mayReset (s : State) (t : Option Nat) (bents : List Nat) : Bool :=
  match t with
  | some t => ownsBents s t bents
  | none => true

def execResetPartition (cx : Cmd) (mask : BitVec 4) (s : State) : Host.Outcome State Fault Refusal :=
  qci cx 0x0081 (fun s =>
    let bents := bitsOf 4 mask.toNat
    if bents = [] then .fail s .badDesc
    else if !mayReset s (tenantOf s cx) bents then .fail s .auth
    else if bents.any (fun b => (s.bent b).tripped && !(bentsInReset s).contains b) then .fail s .throttledTrip
    else .later (requestReset bents 0 (some cx) s)) s

/-- Another command that holds the device bars a warm reset by command (R371, R372). -/
def execResetDevice (cx : Cmd) (fullTests : Bool) (s : State) : Host.Outcome State Fault Refusal :=
  qci cx 0x0082 (fun s =>
    if s.pwr.retainCx.isSome then .fail s .busy else .later (warmReset 40 fullTests s)) s

/-! ### Keeper management frames -/

/-- The keeper takes management frames: READY or a state that follows it. -/
def mgmtServed (s : State) : Bool := decide (s.kp.stage = 0xA ∨ s.kp.stage = 0xB ∨ s.kp.stage = 0xC)

/-- The tag of a request (R471): over its first 16 bytes, under the session's K_cmd. -/
def mgmtTag (x : Session) (f : MgmtFrame) : BitVec 128 :=
  gcmTag x.kCmd ([0, 0, 0, 4] ++ leBytes 8 f.counter)
    (fieldBytes 16 [(0, 2, 1), (2, 2, f.session), (4, 8, f.counter), (12, 1, f.action), (13, 1, f.arg)]) []

/-- The reason for which a frame is dropped and logged (R573 code 7). -/
def mgmtFault (s : State) (f : MgmtFrame) : Option Nat :=
  if 1 < f.port then some 1
  else if !mgmtServed s then some 2
  else
    match s.session f.session with
    | none => some 3
    | some x => if f.counter ≤ x.mgmtCounter then some 4 else if !x.isSealed || decide (f.tag ≠ mgmtTag x f) then some 5 else none

/-- A reply to the last frame: its first 16 bytes (R471), and the tag over them under the session's K_cpl. -/
def mgmtBytes (f : MgmtFrame) (st : Status) (state flags : Nat) : List Byte :=
  fieldBytes 16 [(0, 2, 1), (2, 2, f.session), (4, 8, f.counter), (12, 1, f.action), (13, 1, statusCode st), (14, 1, state), (15, 1, flags)]
def mgmtReplyTo (f : MgmtFrame) (st : Status) (s : State) : State :=
  let flags := bit 0 s.kp.framerStall + fld 1 4 (maskOf (bentsInReset s).eraseDups)
  let key := ((s.session f.session).map (fun x => x.kCpl)).getD 0
  let tag := gcmTag key ([0, 0, 0, 5] ++ leBytes 8 f.counter) (mgmtBytes f st s.kp.stage flags) []
  sendFrame f.port (.mgmtReply f.src f.port f.session f.counter f.action st s.kp.stage flags (beBytes 16 tag.toNat)) s

/-- The keeper takes a frame that passes its checks; an ACTION outside 1 to 3 is answered at once. -/
def takeMgmt (f : MgmtFrame) (s : State) : State :=
  match mgmtFault s f with
  | some c => logEvent 0x0007 (0x30 + f.port) [(f.port : Int), f.session, c] s
  | none =>
    let s := (s.setSession f.session (fun x => { x with mgmtCounter := f.counter })).onKp (fun k =>
      { k with mgmtTaken := mset 0 k.mgmtTaken f.port (keeperNow s + 1) })
    if 1 ≤ f.action ∧ f.action ≤ 3 then s.onKp (fun k => { k with mgmt := k.mgmt ++ [f] }) else mgmtReplyTo f .badDesc s

/-- At most one request every 100 µs and port (R472). -/
def mgmtTooSoon (s : State) (port : Nat) : Bool :=
  let t := mget 0 s.kp.mgmtTaken port
  decide (t ≠ 0 ∧ keeperNow s + 1 < t + 2500)

/-- In RETAIN a frame reaches the keeper on the sentry port alone, and wakes the device (R543). -/
def mgmtInRetain (f : MgmtFrame) (s : State) : State :=
  if f.port ≠ sentryPort s then s
  else
    let s := wake 2 f.port s
    if 1 < f.port then logEvent 0x0007 (0x30 + f.port) [(f.port : Int), f.session, 6] s else takeMgmt f s

def execMgmtFrameRx (f : MgmtFrame) (s : State) : Host.Outcome State Fault Refusal :=
  onPort f.port (fun s =>
    let s := if s.kp.hubHeld then s else frameIn f.port 64 s
    if mgmtTooSoon s f.port then s
    else if 2 ≤ s.pwr.retain ∧ s.pwr.retain ≤ 7 then mgmtInRetain f s
    else takeMgmt f s) s

/-- Acts on the oldest frame accepted when its ACTION is n; frames wait until the end of HUB of a RETAIN exit. -/
def onMgmt (n : Nat) (act : MgmtFrame → Session → State → State) (s : State) : Host.Outcome State Fault Refusal :=
  match s.kp.mgmt with
  | [] => .next s
  | f :: rest =>
    if f.action ≠ n ∨ (2 ≤ s.pwr.retain ∧ s.pwr.retain ≤ 7) then .next s
    else
      let s := s.onKp (fun k => { k with mgmt := rest })
      match s.session f.session with
      | none => .next s
      | some x => .next (act f x s)

def execMgmtStatus (s : State) : Host.Outcome State Fault Refusal := onMgmt 1 (fun f _ s => mgmtReplyTo f .ok s) s

/-- ACTION 2: refused, or answered at once and started. -/
def mgmtReset (f : MgmtFrame) (x : Session) (s : State) : State :=
  let bents := bitsOf 4 f.arg
  if !mayReset s (if x.mailbox = 0xFF then none else some x.mailbox) bents then mgmtReplyTo f .auth s
  else if bents = [] ∨ 15 < f.arg then mgmtReplyTo f .badDesc s
  else if s.kp.stage = 0xC then mgmtReplyTo f .failed s
  else if s.kp.stage = 0xB then mgmtReplyTo f .topology s
  else if s.kp.coolantLoss || bents.any (fun b => (s.bent b).tripped && !(bentsInReset s).contains b) then
    mgmtReplyTo f .throttledTrip s
  else requestReset bents 0 none (mgmtReplyTo f .ok s)

def execMgmtResetPartition (s : State) : Host.Outcome State Fault Refusal := onMgmt 2 mgmtReset s

/-- ACTION 3: the operator's alone, answered before the reset starts. -/
def mgmtDevice (f : MgmtFrame) (x : Session) (s : State) : State :=
  if x.mailbox ≠ 0xFF then mgmtReplyTo f .auth s
  else if 1 < f.arg then mgmtReplyTo f .badDesc s
  else warmReset 40 (f.arg == 1) (mgmtReplyTo f .ok s)

def execMgmtResetDevice (s : State) : Host.Outcome State Fault Refusal := onMgmt 3 mgmtDevice s

end Sys2Proof.Machine
end

