-- ==== Sys2Proof/Machine/Sequences.lean ====
section
/-! DEFINITION. Sequences: SEQ_OPEN, SEQ_FORK, SEQ_CLOSE, SEQ_RESERVE (R249, R250, R252, R253). -/

namespace Sys2Proof.Machine

/-- A new sequence in a bay, given its length and entries; E_NO_RESOURCE without a free id or record slot. -/
def openSeq (bay : Nat) (y : Bay) (length : Nat) (entries : List Nat) (s : State) : Ans :=
  match freeSeqId s, freeSlot s bay y with
  | some q, some slot =>
    let s := refPages bay entries s
    .ok (putRecord q { bay := bay, slot := slot, length := length, entries := entries, pages := entries.length } s) [q, slot]
  | _, _ => .fail s .noResource

def execSeqOpen (cx : Cmd) (bay : Nat) (s : State) : Host.Outcome State Fault Refusal :=
  qci cx 0x0050 (fun s => withBay cx bay (fun y =>
    if hasCache y then openSeq bay y 0 [] s else .fail s .badDesc) s) s

def execSeqFork (cx : Cmd) (parent position : Nat) (s : State) : Host.Outcome State Fault Refusal :=
  qci cx 0x0051 (fun s => withSeq cx parent (fun r y =>
    if r.length < position then .fail s .badDesc
    else openSeq r.bay y position (r.entries.take (pagesFor y position)) s) s) s

/-- How the steps that name a sequence stand: pending (queued, admitted or armed), running, or none. -/
def namedPending (s : State) (q : Nat) : Bool := s.jig.steps.any (fun x => x.names q && !(x.phase == .running))
def namedRunning (s : State) (q : Nat) : Bool := s.jig.steps.any (fun x => x.names q && (x.phase == .running))

def execSeqClose (cx : Cmd) (seqId : Nat) (s : State) : Host.Outcome State Fault Refusal :=
  qci cx 0x0052 (fun s => withSeq cx seqId (fun r _ =>
    if namedPending s seqId then .fail s .busy
    else if namedRunning s seqId then
      .ok (putRecord seqId { r with isOpen := false, entries := [], reserve := [], pages := 0 } (dropPages r s))
    else .ok (freeSeq seqId r (dropPages r s))) s) s

def execSeqReserve (cx : Cmd) (seqId pages : Nat) (s : State) : Host.Outcome State Fault Refusal :=
  qci cx 0x0053 (fun s => withSeq cx seqId (fun r y =>
    if 64 < pages then .fail s .badDesc
    else
      let held := sortNat r.reserve
      if pages ≤ held.length then
        let gone := held.drop pages
        if gone = [] then .ok s
        else .ok (putRecord seqId { r with reserve := held.take pages } (releasePages r.bay gone s))
      else
        match pickPages (fun _ => true) (pages - held.length) (freePages s r.bay y) with
        | none => .fail s .pageExhausted
        | some ps => .ok (putRecord seqId { r with reserve := held ++ ps } (ownPages r.bay ps s))) s) s

end Sys2Proof.Machine
end

