-- ==== Sys2Proof/Machine/Slots.lean ====
section
/-! DEFINITION. Slots as the framer takes them: the fields and checks of a slot (R358 to R363), its seal (R406), the fields of each
command's body (R373, R384, R385, R387, R401, R415, R424, R465, R486, R513, R514, R536), and the command run from them. -/

namespace Sys2Proof.Machine

/-! ### The fields of a slot (R359) -/

def SlotCopy.seq (c : SlotCopy) : Nat := u c.bytes 0 4
def SlotCopy.opcode (c : SlotCopy) : Nat := u c.bytes 4 2
def SlotCopy.len (c : SlotCopy) : Nat := u c.bytes 6 2
def SlotCopy.tag (c : SlotCopy) : Nat := u c.bytes 8 8
def SlotCopy.session (c : SlotCopy) : Nat := u c.bytes 16 2
def SlotCopy.twoSlot (c : SlotCopy) : Bool := (u c.bytes 18 2).testBit 0
def SlotCopy.deadline (c : SlotCopy) : Nat := u c.bytes 20 4
def SlotCopy.commitLo (c : SlotCopy) : Nat := u c.bytes 504 4
def SlotCopy.commitHi (c : SlotCopy) : Nat := u c.bytes 508 4
/-- BODY and GCM_TAG as they stand in the slot. -/
def SlotCopy.stored (c : SlotCopy) : List Byte := (c.bytes.drop 32).take 448
def SlotCopy.gcmTag (c : SlotCopy) : List Byte := (c.bytes.drop 480).take 16
def SlotCopy.hasTag (c : SlotCopy) : Bool := c.gcmTag.any (fun b => b != 0)

/-- COMMIT is consistent with SEQ. -/
def commitGood (c : SlotCopy) : Bool := decide (c.commitLo = c.seq ∧ c.commitHi = 2 ^ 32 - 1 - c.seq ∧ 0 < c.seq)
/-- A pre-session HELLO with SEQ 1, which is always taken (R360). -/
def restarts (i : Nat) (c : SlotCopy) : Bool := decide (i = preSession ∧ c.opcode = 1 ∧ c.seq = 1) && commitGood c

def cmdOf (c : SlotCopy) (i : Nat) : Cmd :=
  { session := i, seq := c.seq, tag := c.tag, port := c.port, deadline := c.deadline }

/-! ### The seal (R406) -/

def slotNonce (c : SlotCopy) : List Byte := [0, 0, 0, 1] ++ leBytes 4 c.seq ++ leBytes 4 0
/-- GCM_TAG verifies under K_cmd. -/
def slotSealOk (x : Session) (c : SlotCopy) : Bool :=
  decide (c.gcmTag = beBytes 16 (gcmTag x.kCmd (slotNonce c) (c.bytes.take 32) c.stored).toNat)
/-- The body in plain. -/
def slotBody (x : Session) (c : SlotCopy) : List Byte := if x.isSealed then gcm x.kCmd (slotNonce c) c.stored else c.stored

/-! ### The fields of a body -/

/-- The opcodes of R371. -/
def knownOps : List Nat :=
  [0x0001, 0x0002, 0x0003, 0x0004, 0x0010, 0x0011, 0x0020, 0x0021, 0x0022, 0x0030, 0x0031, 0x0032, 0x0040, 0x0050, 0x0051,
   0x0052, 0x0053, 0x0060, 0x0070, 0x0071, 0x0072, 0x0073, 0x0080, 0x0081, 0x0082, 0x0090, 0x0091, 0x0092, 0x00A0, 0x00A1,
   0x00B0, 0x00B1, 0x00B2, 0x00B3, 0x00B4]

/-- The bytes of each command's body that its layout lists, as offsets and sizes; the others up to LEN are reserved. -/
def bodyFields (op : Nat) (b : List Byte) : List (Nat × Nat) :=
  match op with
  | 0x0001 => [(0, 14)]
  | 0x0002 => [(0, 33), (36, 16)]
  | 0x0003 => [(0, 30), (32, 12), (64, 1), (68, 65), (136, 32), (168, 65), (236, 80)]
  | 0x0004 | 0x0052 => [(0, 2)]
  | 0x0010 => [(0, 69)]
  | 0x0011 | 0x0021 | 0x0031 | 0x0050 | 0x0081 | 0x0082 | 0x00B4 => [(0, 1)]
  | 0x0020 => [(0, 20)]
  | 0x0022 | 0x0053 => [(0, 3)]
  | 0x0030 => [(0, 2), (4, 8), (16, 48)]
  | 0x0032 => [(0, 3), (4, 8)]
  | 0x0040 => [(0, 6), (8, 4), (32, 8 * u b 3 1)]
  | 0x0051 => [(0, 2), (4, 4)]
  | 0x0060 => [(0, 10)]
  | 0x0070 => [(0, 1)]
  | 0x0071 => [(0, 8)]
  | 0x0073 => [(0, 17)]
  | 0x0080 => [(0, 4)]
  | 0x0090 => [(0, 40)]
  | 0x0091 => [(0, 6), (8, u b 4 2)]
  | 0x00A0 => [(0, 6)]
  | 0x00A1 => [(0, 1), (4, 4)]
  | 0x00B0 => [(0, 16)]
  | 0x00B1 => [(0, 17), (20, 8)]
  | 0x00B2 => [(0, 1), (4, 16)]
  | 0x00B3 => [(0, 12)]
  | _ => []
/-- The byte after the last listed one: LEN covers the listed fields (DESIGN CHOICE, log entry 92). -/
def bodyEnd (op : Nat) (b : List Byte) : Nat := (bodyFields op b).foldl (fun n f => max n (f.1 + f.2)) 0
/-- LEN lies within the command's limit (R359, R363, R401). HELLO of a session has no field that is not ignored (R373). -/
def lenOk (op len : Nat) (twoSlot : Bool) (i : Nat) (b : List Byte) : Bool :=
  decide (len ≤ (if twoSlot then 896 else 448)) && decide (bodyEnd op b ≤ len ∨ (op = 0x0001 ∧ i ≠ preSession))
    && decide (op = 0x0003 → len = 316)
/-- The reserved bytes of a body are zero, on a sealed slot those beyond LEN too (R13, R373, R406). The entries of CONFIG_STAGE fill its
body from byte 4 on. -/
def bodyClear (op len : Nat) (isSealed : Bool) (b : List Byte) : Bool :=
  (List.range (if isSealed then b.length else min len b.length)).all (fun k =>
    (bodyFields op b).any (fun f => decide (f.1 ≤ k ∧ k < f.1 + f.2)) || (decide (op = 0x0070 ∧ 4 ≤ k ∧ k < len)) || decide (b.getD k 0 = 0))

def keyAtByte (b : List Byte) (i : Nat) : BitVec 512 := BitVec.ofNat 512 (leNat ((b.drop i).take 64).reverse)
def digestAt (b : List Byte) (i : Nat) : BitVec 256 := BitVec.ofNat 256 (leNat ((b.drop i).take 32).reverse)
def replyAt (b : List Byte) (i : Nat) : Reply := { va := u b i 8, key := u b (i + 8) 4, len := u b (i + 12) 4 }
/-- HOST_IP: an IPv6 address, or an IPv4 address in the first 4 bytes with the rest zero (R373). -/
def addressAt (b : List Byte) (i : Nat) : Nat :=
  if u b (i + 4) 12 = 0 then leNat ((b.drop i).take 4).reverse else leNat ((b.drop i).take 16).reverse
def openBodyAt (b : List Byte) : OpenBody :=
  { mailbox := u b 0 1, slotCount := u b 1 1, portMask := BitVec.ofNat 12 (u b 2 2), hostQpn := u b 4 4, hostPsn := u b 8 4
    hostIp := addressAt b 12, ringEntries := u b 28 2, ringVa := u b 32 8, ringKey := u b 40 4, ephForm := u b 68 1
    hostEph := keyAtByte b 69, hostNonce := digestAt b 136, keyForm := u b 168 1, reply := replyAt b 236 }
def bayBodyAt (b : List Byte) : BayBody :=
  { bay := u b 0 1, bentMask := u b 1 1, c0 := u b 2 1, r0 := u b 3 1, w := u b 4 1, h := u b 5 1, reserved := (u b 6 1).testBit 0
    pageTokens := u b 7 1, pageFirst := u b 8 2, pageCount := u b 10 2, ptBase := u b 12 4, seqSlots := u b 16 2, tableLen := u b 18 2 }
/-- Entry k of a length table (R274). -/
def ltEntryAt (b : List Byte) (k : Nat) : LtEntry :=
  { seqId := u b (32 + 8 * k) 2, start := u b (34 + 8 * k) 2, qlen := u b (36 + 8 * k) 2, append := u b (38 + 8 * k) 2 }

/-- Reserved bits within the listed fields, and fields that no command's operand can show out of range (R13, R359, R373, R401, R415, R424). -/
def bitsClear (op : Nat) (twoSlot : Bool) (b : List Byte) : Bool :=
  match op with
  | 0x0002 => decide (u b 32 1 ≤ 1)
  | 0x0003 => decide (u b 64 1 ≤ 2 ∧ u b 2 2 < 4096 ∧ (u b 64 1 ≠ 1 → u b 168 65 = 0))
  | 0x0020 => decide (u b 6 1 ≤ 1)
  | 0x0032 => decide (u b 2 1 ≤ 3)
  | 0x0040 => decide (u b 2 1 ≤ 1 ∧ (twoSlot = false → u b 3 1 ≤ 52))
  | 0x0070 | 0x0082 => decide (u b 0 1 ≤ 1)
  | 0x0081 => decide (u b 0 1 ≤ 15)
  | 0x0091 => decide (twoSlot = false → u b 4 2 ≤ 440)
  | 0x00B2 => decide (1 ≤ u b 0 1 ∧ u b 0 1 ≤ 4)
  | _ => true

/-- The command that a taken slot holds runs on the fields of its body. -/
def runBody (op len : Nat) (b : List Byte) (cx : Cmd) (found : List Finding) (named : List Named) (s : State) :
    Host.Outcome State Fault Refusal :=
  let refuse : Host.Outcome State Fault Refusal := qci cx op (fun s => .fail s .badDesc) s
  match op with
  | 0x0001 => execHello cx (u b 0 8) (u b 8 4) (u b 12 2) s
  | 0x0002 => execAttest cx (digestAt b 0) ((u b 32 1).testBit 0) (replyAt b 36) s
  | 0x0003 =>
    let sig := keyAtByte b 252
    if u b 64 1 = 1 then execSessionOpenEnroll cx (openBodyAt b) (keyAtByte b 169) sig s
    else if u b 64 1 = 2 then execSessionOpenUnenroll cx (openBodyAt b) sig s
    else execSessionOpen cx (openBodyAt b) sig s
  | 0x0004 => execSessionClose cx (u b 0 2) s
  | 0x0010 => execTenancyCreate cx (u b 0 1) (u b 1 1) (u b 2 1) (u b 3 1) (u b 4 1) (keyAtByte b 5) s
  | 0x0011 => execTenancyDestroy cx (u b 0 1) s
  | 0x0020 => execBayDefine cx (bayBodyAt b) s
  | 0x0021 => execBayRelease cx (u b 0 1) s
  | 0x0022 => execBayArm cx (u b 0 1) (u b 1 1) (u b 2 1) s
  | 0x0030 => execProgramLoad cx (u b 0 1) (u b 1 1) (u b 4 4) ⟨u b 8 4, found⟩ (digestAt b 16) named (replyAt b 48) s
  | 0x0031 => execProgramUnload cx (u b 0 1) s
  | 0x0032 => execWeightsBind cx (u b 0 1) (u b 1 1) (u b 2 1) (u b 4 4) (u b 8 4) s
  | 0x0040 => execStepRun cx (u b 0 1) (u b 1 1) ((u b 2 1).testBit 0) (u b 4 2) (u b 8 4) ((List.range (u b 3 1)).map (ltEntryAt b)) s
  | 0x0050 => execSeqOpen cx (u b 0 1) s
  | 0x0051 => execSeqFork cx (u b 0 2) (u b 4 4) s
  | 0x0052 => execSeqClose cx (u b 0 2) s
  | 0x0053 => execSeqReserve cx (u b 0 2) (u b 2 1) s
  | 0x0060 => execJobBind cx (u b 0 1) (u b 1 1) (u b 4 4) (u b 8 2) ⟨u b 2 2, found⟩ s
  | 0x0070 =>
    match decodeTlvs (len + 1) ((b.take len).drop 4) with
    | some l => execConfigStage cx ((u b 0 1).testBit 0) l s
    | none => refuse
  | 0x0071 => execConfigApply cx (u b 0 4) (u b 4 4) s
  | 0x0072 => execConfigCommit cx s
  | 0x0073 => execConfigRead cx (u b 16 1) (replyAt b 0) s
  | 0x0080 => execPowerRetain cx (u b 0 4) s
  | 0x0081 => execResetPartition cx (BitVec.ofNat 4 (u b 0 1)) s
  | 0x0082 => execResetDevice cx ((u b 0 1).testBit 0) s
  | 0x0090 => execFwBegin cx (u b 0 4) (u b 4 4) (digestAt b 8) s
  | 0x0091 => execFwChunk cx (u b 0 4) ((b.drop 8).take (u b 4 2)) s
  | 0x0092 => execFwFinish cx () s
  | 0x00A0 => execThermalHint cx (i16 b 0) (u b 2 2) (u b 4 2) s
  | 0x00A1 => execCoolingBaseline cx (u b 0 1) (u b 4 4) s
  | 0x00B0 => execStatusRead cx (replyAt b 0) s
  | 0x00B1 => execLogRead cx (u b 16 1) (u b 20 4) (u b 24 4) (replyAt b 0) s
  | 0x00B2 => execRegRead cx ((List.range (u b 0 1)).map (fun k => u b (4 + 4 * k) 4)) s
  | 0x00B3 => execRegWrite cx (u b 0 4) (BitVec.ofNat 32 (u b 4 4)) (BitVec.ofNat 32 (u b 8 4)) s
  | 0x00B4 => execMarginRun cx (u b 0 1) s
  | _ => refuse

/-! ### Taking a slot -/

/-- The session that owns a slot of a mailbox; slot 0 of the device mailbox is the pre-session slot. -/
def slotOwner (s : State) (mailbox slot : Nat) : Option Nat :=
  if mailbox = 0xFF ∧ slot = 0 then some preSession
  else ((present s.qci.sessions).find? (fun e => decide (e.1 ≠ preSession ∧ e.2.mailbox = mailbox ∧ e.2.slotFirst ≤ slot
    ∧ slot < e.2.slotFirst + e.2.slotCount))).map (fun e => e.1)

/-- The reserved fields of a slot's header and its trailer are zero, and GCM_TAG on an unsealed one (R359). -/
def headClear (x : Session) (c : SlotCopy) : Bool :=
  decide (u c.bytes 18 2 < 2 ∧ u c.bytes 24 8 = 0 ∧ u c.bytes 496 8 = 0) && (x.isSealed || !c.hasTag)

/-- The body of a command of one or two slots. -/
def wholeBody (x : Session) (c : SlotCopy) (more : Option SlotCopy) : List Byte :=
  slotBody x c ++ (more.map (slotBody x)).getD []

/-- The first failure among the checks of R363, with the conditions of R440, R487 and R508 after the third; the ranges of a body's fields
are its command's own. -/
def slotFault (s : State) (i : Nat) (x : Session) (c : SlotCopy) (more : Option SlotCopy) : Option Status :=
  let l := c :: more.toList
  let b := wholeBody x c more
  if (x.isSealed || !(openMode s || i == preSession)) && !(l.all (fun v => v.hasTag)) then some .sealed
  else if x.isSealed && !(l.all (slotSealOk x)) then some .auth
  else if !knownOps.contains c.opcode || !lenOk c.opcode c.len c.twoSlot i b then some .badDesc
  else if (more.map (fun v => decide (v.opcode ≠ 0 ∨ v.len ≠ 0 ∨ v.tag ≠ c.tag ∨ v.session ≠ c.session))).getD false then some .badDesc
  else if c.session ≠ i then some .auth
  else
    match gate s (cmdOf c i) c.opcode with
    | some st => some st
    | none =>
      if l.all (headClear x) && bodyClear c.opcode c.len x.isSealed b && bitsClear c.opcode c.twoSlot b then none else some .badDesc

/-- The framer has a whole command: it is refused with its first failure, or runs. -/
def startSlot (i : Nat) (x : Session) (c : SlotCopy) (more : Option SlotCopy) (s : State) : Host.Outcome State Fault Refusal :=
  let cx := cmdOf c i
  match slotFault s i x c more with
  | some st => .next (finish cx c.opcode { status := st } (noteTaken cx c.opcode s))
  | none => runBody c.opcode c.len (wholeBody x c more) cx (c.found ++ (more.map (fun v => v.found)).getD [])
      (c.named ++ (more.map (fun v => v.named)).getD []) s

/-- A slot stands as taken: E rises, and no first slot waits for its second any more (R361, R362). -/
def markTaken (i : Nat) (x : Session) (c : SlotCopy) (s : State) : State :=
  (s.putSession i (some { x with expect := c.seq + 1, taken := c.seq, done := if restarts i c then 0 else x.done })).onQci
    (fun q => { q with half := mset none q.half i none })

/-- The slot is taken; a TWO_SLOT command waits for its second slot (R361, R362). -/
def takeSlot (i : Nat) (x : Session) (c : SlotCopy) (s : State) : Host.Outcome State Fault Refusal :=
  let half := if restarts i c then none else mget none s.qci.half i
  let s := markTaken i x c s
  match half with
  | some first => startSlot i x first (some c) s
  | none =>
    if c.twoSlot then .next (s.onQci (fun q => { q with half := mset none q.half i (some c) })) else startSlot i x c none s

/-- The framer checks its copy of a slot whose COMMIT has been written (R361). -/
def lookSlot (c : SlotCopy) (s : State) : Host.Outcome State Fault Refusal :=
  match slotOwner s c.mailbox c.slot with
  | none => .next s
  | some i =>
    match sessionRec s i with
    | none => .next s
    | some x =>
      if restarts i c || (commitGood c && decide (c.seq = x.expect ∧ c.slot = x.slotFirst + c.seq % x.slotCount)) then
        takeSlot i x c s
      else if c.seq < x.expect then .next s
      else .next (s.putSession i (some { x with mbxOrder := sat 0xFFFF (x.mbxOrder + 1) }))

/-- A write's bytes stand in its slot. -/
def slotLanded (w : SlotWrite) (s : State) : State :=
  storeSlots w.mailbox w.port (512 * w.slot + w.offset) (w.data.take (512 - w.offset)) s
/-- The framer's copy of a slot. -/
def slotCopy (w : SlotWrite) (port : Nat) (t : State) : SlotCopy :=
  { mailbox := w.mailbox, slot := w.slot, port := port, bytes := slotBytes t w.mailbox w.slot, found := w.found, named := w.named }

/-- The write stands in the slot; the framer, while it takes commands, looks at the slot if its COMMIT has been written since it last did. -/
def execSlotCommitWrite (w : SlotWrite) (s : State) : Host.Outcome State Fault Refusal :=
  let t := slotLanded w s
  match committed t w.mailbox w.slot with
  | none => .next t
  | some port => if !listening t then .next t else lookSlot (slotCopy w port t) (lookAt w.mailbox w.slot t)

end Sys2Proof.Machine
end

