-- ==== Sys2Proof/Machine/Attention.lean ====
section
/-! DEFINITION. What the attention stages compute: cache records (R271, R272), rows and visibility (R277, R281, R286),
rotation (R285), scores (R282 to R284), the online softmax and its merge (R287, R288). -/

namespace Sys2Proof.Machine

/-! ### Small parts -/

/-- A list cut into runs of at most 32. -/
def cut32 (l : List α) : List (List α) := (runsOf true l.length).map (fun e => (l.drop e.1).take e.2)

/-- n elements of a format at an address of a joist, and the scale bytes of an MX part at another; of a bad one nothing counts but a NaN
that its valid part shows (R73, R74). -/
def planeVals (m : Mem) (inSlice : Bool) (f : Fmt) (j a sa n : Nat) : List Val :=
  if f.isMx then
    let code := leNat (readMem m inSlice j a (fmtBytes f n))
    let scales := readMem m inSlice j sa (n / 32)
    (List.range n).map (fun i =>
      let b := elemBytes f.bits i
      (loadedOperand f (unpackCode f.bits code i) (scales.getD (i / 32) 0).toNat (badMem m inSlice j (a + b.1) b.2)
        (badMem m inSlice j (sa + i / 32) 1)).val)
  else
    let w := f.bits / 8
    (List.range n).map (fun i =>
      (loadedOperand f (leNat (readMem m inSlice j (a + i * w) w)) 0 (badMem m inSlice j (a + i * w) w) false).val)

/-- The same with the scale bytes behind the elements. -/
def partVals (m : Mem) (inSlice : Bool) (f : Fmt) (j a n : Nat) : List Val := planeVals m inSlice f j a (a + fmtBytes f n) n

/-- Part n of a bench region: its values, and whether a unit of it is bad. -/
def regionVals (m : Mem) (g : Stage) (d : AttDesc) (region : Nat) (f : Fmt) (j base part n : Nat) : List Val × Bool :=
  let p := d.planes g.map region
  let a := base + p.elem.1 + n * p.elem.2
  let sa := base + p.scale.1 + n * p.scale.2
  (planeVals m false f j a sa part, badMem m false j a (fmtBytes f part) || (f.isMx && badMem m false j sa (part / 32)))

/-- An FP32 word of a bench. -/
def benchWord (m : Mem) (j a : Nat) : Word := BitVec.ofNat 32 (leNat (readMem m false j a 4))

/-- Values as operands of a truss, poisoned or not. -/
def asOps (bad : Bool) (l : List Val) : List Operand := l.map (fun v => ⟨v, bad⟩)

/-- A value rounded to BF16 for the trusses (R285). -/
def toBf16 (w : Word) : Val := decodeElem .bf16 (convertScalar .bf16 .rne {} 0 (f32Val w)).1.code

/-- The FP32 close of one accumulator of a group, whatever RMODE says (R283). -/
def closeWord (g : Group) : Word := BitVec.ofNat 32 ((g.closeScalar .fp32 {} 0 (fun i => i)).1.headD 0)
/-- The group as its FP32 close leaves it. -/
def closedWord (g : Group) : Group := (g.closeScalar .fp32 {} 0 (fun i => i)).2

/-! ### Rows and positions -/

/-- A query row: its ordinal in the stage, its entry's place among the covered ones, its position. -/
structure AttRow where
  ord : Nat
  ent : Nat
  pos : Nat
  deriving DecidableEq, Repr

/-- A covered entry: the length-table entry, its visible length and the page-table record of its sequence. -/
structure AttEnt where
  e : LtEntry
  v : Nat
  slotAt : Nat
  bay : Nat
  deriving DecidableEq, Repr

/-- The covered entries of a stage; a sequence that is no longer open is read as nothing (R252, R277, R281). -/
def attEnts (s : State) (r : Run) (d : AttDesc) : List AttEnt :=
  (covered d r.x.table).map (fun e =>
    match s.seqRec e.seqId with
    | some q => { e := e, v := if q.isOpen then visibleLen d q.length e.append else 0, slotAt := recordAddr r.y q.slot, bay := r.bay }
    | none => { e := e, v := 0, slotAt := 0, bay := r.bay })

/-- The query rows of the covered entries, in table order (R274, R281). -/
def attRows (l : List AttEnt) : List AttRow :=
  ((l.mapIdx (fun k e => (k, e))).foldl (fun (a : List AttRow × Nat) p =>
    (a.1 ++ (List.range p.2.e.qlen).map (fun i => ⟨a.2 + i, p.1, p.2.e.start + i⟩), a.2 + p.2.e.qlen)) ([], 0)).1

/-- A cache record as one stripe joist holds it: entry, position, address, latent and positional part as stored. -/
structure KeyRec where
  ent : Nat
  t : Nat
  /-- its place among the positions of all covered entries, whatever the stripe -/
  ix : Nat
  lat : List Val
  rope : List Val
  bad : Bool
  deriving DecidableEq, Repr

/-- The page that a record's replica on a joist names for an entry (R244, R271). -/
def replicaPage (m : Mem) (j recAddr e : Nat) : Nat := leNat (readMem m true j (recAddr + 16 + 2 * e) 2) % 512

/-- The slice address of the record of position t (R271). -/
def keyAddr (m : Mem) (y : Bay) (p : Stripe) (j recAddr t : Nat) : Nat :=
  replicaPage m j recAddr (t / y.pageTokens) * 16384 + p.regionOff + t % y.pageTokens / p.s * p.recBytes

/-- The positions of an entry that stripe joist k holds, ascending. -/
def keyPositions (p : Stripe) (v k : Nat) : List Nat := (List.range ((v + p.s - 1 - k) / p.s)).map (fun i => i * p.s + k)

def readKey (m : Mem) (y : Bay) (d : AttDesc) (j ent first recAddr t : Nat) : KeyRec :=
  let a := keyAddr m y d.stripe j recAddr t
  { ent := ent, t := t, ix := first + t, lat := partVals m true d.cacheFmt j a d.latent,
    rope := partVals m true .bf16 j (a + d.ropeOff) d.ropeDim,
    bad := badMem m true j a (d.ropeOff + 2 * d.ropeDim) }

/-- Positions of the entries with query rows before place n. -/
def positionsBefore (l : List AttEnt) (n : Nat) : Nat := (l.take n).foldl (fun a e => if e.e.qlen = 0 then a else a + e.v) 0

/-- Everything that one stripe joist holds for the covered entries that have query rows. -/
def joistKeys (m : Mem) (y : Bay) (d : AttDesc) (l : List AttEnt) (j k : Nat) : List KeyRec :=
  (l.mapIdx (fun n e => (n, e))).flatMap (fun p =>
    if p.2.e.qlen = 0 then [] else (keyPositions d.stripe p.2.v k).map (readKey m y d j p.1 (positionsBefore l p.1) p.2.slotAt))

/-- R286. -/
def isVisible (m : Mem) (d : AttDesc) (j : Nat) (q : AttRow) (k : KeyRec) : Bool :=
  decide (q.ent = k.ent) && (!d.causal || decide (k.t ≤ q.pos)) && (!d.windowed || decide (q.pos < k.t + d.span))
    && (!d.bitmask || (decide (k.t < 8 * d.maskStride) &&
      ((readMem m false j (d.mask + q.ord * d.maskStride + k.t / 8) 1).headD 0).getLsbD (k.t % 8)))

/-! ### Rotation (R285) -/

/-- The 32-bit frequency of pair i for a head. -/
def ropeFreq (m : Mem) (d : AttDesc) (j h i : Nat) : Nat :=
  let e := fmul (f32Exact ⟨-(2 * i : Int), -(Nat.log2 d.ropeDim : Int)⟩ true) (flog2 (benchWord m j (d.posTab + 4 * h)))
  let f := fmul (fmul (fexp2 e) 0x3E22F983#32) 0x4F800000#32
  match f32Val f with
  | .num x => (roundTo .rne 0 x 0).toNat
  | _ => 0

/-- Cosine and sine of a position's turn. -/
def ropeTurn (m : Mem) (d : AttDesc) (j h i pos : Nat) : Word × Word :=
  let turn := fmul (f32Exact ⟨(pos * ropeFreq m d j h i % 2 ^ 32 : Nat), 0⟩ false) 0x2F800000#32
  (fcos turn, fsin turn)

/-- The pair of element e, and whether it is the first of the pair. -/
def ropePair (d : AttDesc) (e : Nat) : Nat × Bool :=
  if d.halves then (e % (d.ropeDim / 2), decide (e < d.ropeDim / 2)) else (e / 2, decide (e % 2 = 0))
def ropeIx (d : AttDesc) (i : Nat) : Nat × Nat := if d.halves then (i, i + d.ropeDim / 2) else (2 * i, 2 * i + 1)

/-- A positional part rotated by its position; backward, by the opposite angle (R285, R298). -/
def rotateWords (m : Mem) (d : AttDesc) (j h pos : Nat) (back : Bool) (l : List Word) : List Word :=
  (List.range d.ropeDim).map (fun e =>
    let p := ropePair d e
    let ix := ropeIx d p.1
    let x := l.getD ix.1 0
    let y := l.getD ix.2 0
    let cs := ropeTurn m d j h p.1 pos
    if p.2 then
      let a := fmul y cs.2
      ffma x cs.1 (if back then a else fnegate a)
    else ffma (if back then fnegate x else x) cs.2 (fmul y cs.1))

/-- A head's rotary base comes from a bad word: what is rotated with it is poisoned (R219, R291). -/
def baseBad (m : Mem) (d : AttDesc) (j h : Nat) : Bool := decide (0 < d.ropeDim) && badMem m false j (d.posTab + 4 * h) 4

/-- A value of which only a NaN counts. -/
def nanOnly : Val → Val
  | .num _ => .num ⟨0, 0⟩
  | v => v

def rotated (m : Mem) (d : AttDesc) (j h pos : Nat) (l : List Val) : List Val :=
  if baseBad m d j h then l.map nanOnly else (rotateWords m d j h pos false (l.map toF32)).map toBf16

/-! ### Expansions (R282) -/

/-- An up-projection of a group, WUK (region 8) or WUV (12): D_h columns of D_L elements, and whether a unit of it is bad. -/
def upProj (m : Mem) (t : Stage) (d : AttDesc) (j region g : Nat) : List Val × Bool :=
  regionVals m t d region d.wFmt j (if region = 8 then d.wuk else d.wuv) (d.latent * d.headDim) g
def upColumns (m : Mem) (t : Stage) (d : AttDesc) (j region g : Nat) : List (List Val) :=
  (List.range d.headDim).map (fun i => ((upProj m t d j region g).1.drop (i * d.latent)).take d.latent)
def upBad (m : Mem) (t : Stage) (d : AttDesc) (j region g : Nat) : Bool := (upProj m t d j region g).2

/-- A vector of operands against a list of columns: MX block sums, or single BF16 products. -/
structure Proj where
  mx : Bool
  vec : List Operand
  cols : List (List Operand)
  deriving DecidableEq, Repr

/-- n outputs formed sixteen to a group, as the sum of several products of a vector and columns (R43). -/
def projectAll (datum : Int) (n : Nat) (l : List Proj) : List Group :=
  (List.range ((n + 15) / 16)).map (fun k =>
    (List.range (min 16 (n - 16 * k))).foldl (fun g i =>
      l.foldl (fun g p => (dotSteps p.mx (cut32 p.vec) (cut32 (p.cols.getD (16 * k + i) []))).foldl
        (fun g x => contributeSum g i x) g) g) (openGroup datum))
def project (datum : Int) (vec : List Operand) (bad : Bool) (cols : List (List Val)) : List Group :=
  projectAll datum cols.length [⟨true, vec, cols.map (asOps bad)⟩]

/-- A value of a flagged group: a NaN, or none where poison alone flags it (R74). -/
def flaggedVal (g : Group) : Val := if g.nan then .nan else .num ⟨0, 0⟩
/-- The exact values of a list of groups, sixteen of each. -/
def groupVals (l : List Group) : List Val :=
  l.flatMap (fun g => (List.range 16).map (fun i => if g.flagged then flaggedVal g else .num ⟨g.acc.getD i 0, g.datum⟩))

/-- Values converted to blocks of a format with round-to-nearest-even and SCALE_CEIL, as the trusses then read them, and CONV_SAT. -/
def blockVals (f : Fmt) (nc : NumCtl) (l : List Val) : List Val × Bool :=
  let bs := (cut32 l).map (convertBlock f .rne { nc with rmode := .rne } 0 (fun i => i))
  (bs.flatMap (fun c => c.2.1.map (fun x => decodeScaled f x.code c.1)), bs.any (fun c => c.2.1.any Conv.sat))

/-- A group among those whose close, or whose operands' conversion, may have clipped an element (R65, R83). -/
def Group.clipped (sat : Bool) (g : Group) : Group := { g with convSat := g.convSat || sat }

/-! ### Scores (R283, R284) -/

/-- A query of one head: content and rotated positional part. -/
structure QHead where
  content : List Val
  rope : List Val
  bad : Bool
  deriving DecidableEq, Repr

def readQuery (m : Mem) (t : Stage) (d : AttDesc) (j : Nat) (q : AttRow) (h : Nat) : QHead :=
  let n := q.ord * d.heads + h
  let c := regionVals m t d 0 d.qFmt j d.qSrc d.content n
  let p := d.planes t.map 0
  let ra := d.qSrc + p.rope.1 + n * p.rope.2
  { content := c.1, rope := rotated m d j h q.pos (partVals m false .bf16 j ra d.ropeDim),
    bad := c.2 || badMem m false j ra (2 * d.ropeDim) || baseBad m d j h }

/-- The accumulator of one score before its close. -/
def scoreGroup (datum : Int) (q : QHead) (key : List Val) (keyRope : List Val) (bad : Bool) : Group :=
  (dotSteps true (cut32 (asOps q.bad q.content)) (cut32 (asOps bad key))
    ++ dotSteps false (cut32 (asOps q.bad q.rope)) (cut32 (asOps bad keyRope))).foldl
      (fun g l => contributeSum g 0 l) (openGroup datum)

/-- Where the bias of a VISION window lies (R284). -/
def biasAt (d : AttDesc) (h qpos t : Nat) : Nat :=
  let w := d.win
  d.posTab + h * d.biasStride + 2 * ((qpos / w + w - 1 - t / w) * (2 * w - 1) + (qpos % w + w - 1 - t % w))
def biasOf (m : Mem) (d : AttDesc) (j h qpos t : Nat) : Word := widenBf16 (leNat (readMem m false j (biasAt d h qpos t) 2))
/-- A bad word of the bias table, or of the mask row, poisons the score (R291; the mask: DESIGN CHOICE, log entry 73). -/
def positionBad (m : Mem) (d : AttDesc) (j h : Nat) (q : AttRow) (t : Nat) : Bool :=
  (if d.vision then badMem m false j (biasAt d h q.pos t) 2 else baseBad m d j h)
    || (d.bitmask && badMem m false j (d.mask + q.ord * d.maskStride + t / 8) 1)

/-- The score that enters the softmax. -/
def scoreWord (m : Mem) (d : AttDesc) (j h : Nat) (q : AttRow) (t : Nat) (raw : Word) : Word :=
  let x := fmul raw d.scale
  let x := if d.vision then fadd x (biasOf m d j h q.pos t) else x
  fmul x 0x3FB8AA3B#32

/-! ### The online softmax (R287, R288, R291) -/

/-- The state of one row and head on a joist: m, l, O, what flags it, and the groups its scores opened. -/
structure Soft where
  m : Word := 0xFF800000#32
  l : Word := 0
  o : List Word
  nan : Bool := false
  poison : Bool := false
  groups : List Group := []
  deriving DecidableEq, Repr

def Soft.flagged (a : Soft) : Bool := a.nan || a.poison

/-- One visible position enters; poison flags the state and is reported apart from NaNs (R74, R291). -/
def softStep (a : Soft) (score : Word) (g : Group) (bad : Bool) (lat : List Val) : Soft :=
  let badLat := lat.any (fun v => match v with | .num _ => false | _ => true)
  let a := { a with nan := a.nan || g.nan || badLat || (f32IsNan score && !g.poison), poison := a.poison || g.poison || bad,
                    groups := a.groups ++ [g] }
  if a.flagged then a
  else
    let a := if flt a.m score then
        let k := fexp2 (fsub a.m score)
        { a with l := fmul a.l k, o := a.o.map (fun x => fmul x k), m := score }
      else a
    let p := fexp2 (fsub score a.m)
    { a with l := fadd a.l p, o := (a.o.zip lat).map (fun e => ffma p (toF32 e.2) e.1) }

/-- Two joists' states merge. -/
def softMerge (a b : Soft) : Soft :=
  let f : Soft := { a with nan := a.nan || b.nan, poison := a.poison || b.poison, groups := a.groups ++ b.groups }
  if f.flagged then f
  else if b.m = f32Inf true then f
  else if a.m = f32Inf true then { f with m := b.m, l := b.l, o := b.o }
  else
    let m := fmax a.m b.m
    let ka := fexp2 (fsub a.m m)
    let kb := fexp2 (fsub b.m m)
    { f with m := m, l := ffma a.l ka (fmul b.l kb), o := (a.o.zip b.o).map (fun e => ffma e.1 ka (fmul e.2 kb)) }

/-- Neighbours of a list merge in pairs: one level of the stripe tree. -/
def pairUp (f : α → α → α) : List α → List α
  | a :: b :: l => f a b :: pairUp f l
  | l => l
/-- n levels of the stripe tree (R288). -/
def treeLevels (f : α → α → α) : Nat → List α → List α
  | 0, l => l
  | n + 1, l => treeLevels f n (pairUp f l)

/-! ### The joists and reads of a stripe -/

/-- Pages that the covered sequences' visible positions lie in: sequence and page, as the rack holds them (R277); an entry with QLEN 0
takes no part (R274). -/
def readPages (s : State) (r : Run) (d : AttDesc) : List (Nat × Nat) :=
  (covered d r.x.table).flatMap (fun e =>
    match s.seqRec e.seqId with
    | some q => if q.isOpen ∧ 0 < e.qlen then (q.entries.take (pagesFor r.y (visibleLen d q.length e.append))).map (fun p => (e.seqId, p)) else []
    | none => [])

/-- The control data that a stripe joist reads: its length-table entries and page-table entries. -/
def controlReads (r : Run) (l : List AttEnt) (j : Nat) : List ShareRead :=
  [(j, ⟨false, r.img.ltOff, 8 * r.x.table.length⟩)]
    ++ (l.filter (fun e => 0 < e.v ∧ 0 < e.e.qlen)).map (fun e => (j, ⟨true, e.slotAt + 16, 2 * pagesFor r.y e.v⟩))

/-- The control words as the narrow path fetches them (R158). -/
def fetched (l : List ShareRead) : List ShareRead := l.map (fun e => if e.2.inSlice then (e.1, e.2.narrowed) else e)

/-- The planes of the first n parts of a bench region that holds one part for each row and head. -/
def partReads (t : Stage) (d : AttDesc) (region base : Nat) (f : Fmt) (rope n : Nat) : List Region :=
  let p := d.planes t.map region
  (List.range n).flatMap (fun i =>
    [benchRegion (base + p.elem.1 + i * p.elem.2) (fmtBytes f d.content),
     benchRegion (base + p.scale.1 + i * p.scale.2) (if f.isMx then d.content / 32 else 0),
     benchRegion (base + p.rope.1 + i * p.rope.2) rope])

/-- The data that a stripe joist reads: the parameter regions of the rows in use, the biases of visible cells, and the records that some
row sees (R274, R286). -/
def dataReads (m : Mem) (r : Run) (d : AttDesc) (bwd : Bool) (l : List AttEnt) (j k : Nat) : List ShareRead :=
  let rows := attRows l
  let n := rows.length * d.heads
  let seen := (joistKeys m r.y d l j k).map (fun x => (x, rows.filter (fun q => isVisible m d j q x)))
  let params := (attParams { d with maxRows := rows.length } bwd).filterMap (fun x =>
    if x.2.2 || [0, 32, 36].contains x.1 || (x.1 == 16 && d.vision) then none else some x.2.1)
  let parts := partReads r.g d 0 d.qSrc d.qFmt (2 * d.ropeDim) n
    ++ (if bwd then partReads r.g d 32 d.doSrc d.outFmt 0 n ++ partReads r.g d 36 d.oSrc d.outFmt 0 n else [])
  let bias := if d.vision then seen.flatMap (fun e => e.2.flatMap (fun q =>
    (List.range d.heads).map (fun h => benchRegion (biasAt d h q.pos e.1.t) 2))) else []
  let keys := (seen.filter (fun e => e.2 ≠ [])).map (fun e =>
    (⟨true, keyAddr m r.y d.stripe j (((l[e.1.ent]?).map (fun x => x.slotAt)).getD 0) e.1.t, d.ropeOff + 2 * d.ropeDim⟩ : Region))
  if rows = [] then [] else (params ++ parts ++ bias ++ keys).map (fun g => (j, g))

/-- The lines that a list of slice reads or writes passes through. -/
def throughLines (path : PortPath) (isWrite : Bool) (l : List ShareRead) (s : State) : State :=
  s.onJoi (fun x => { x with cache := l.foldl (fun c e =>
    cacheTensor path isWrite { fmt := .nofmt, inSlice := e.2.inSlice, extents := [(e.2.base, e.2.len)] } e.1 c) x.cache })

/-- The stage pins pages for a step until it ends (R246). -/
def pinStage (r : Run) (pages : List (Nat × Nat)) (s : State) : State :=
  setStep r.x.id (fun z => { z with pins := z.pins ++ pages.map (fun e => (r.ix, e.1, e.2)) })
    (pinPages r.bay (pages.map (fun e => e.2)) s)

/-- What the microcode leaves in a group: one of the datums that the stage opens groups with and flags that the summary has, everything
else a free value; or the group as it stood (R53; DESIGN CHOICE, log entry 90). -/
def freeGroup (n pick : Nat) (datums : List Int) (m : Summary) (old : Group) : Group :=
  match datums[pick % (datums.length + 1)]? with
  | none => old
  | some x =>
    let v := Config.freeNat n
    { datum := x, nan := m.nan && Nat.testBit v 10, poison := m.poison && Nat.testBit v 11, ovf := m.ovf && Nat.testBit v 12,
      realign := m.realign && Nat.testBit v 13, convSat := m.convSat && Nat.testBit v 14, discard := v / 2 ^ 15 % 65536,
      amax := if Nat.testBit v 31 then some ((v / 2 ^ 32 % 1024 : Nat) - 512) else none,
      acc := (List.range 16).map (fun i => (v / 2 ^ (42 + 96 * i) % 2 ^ 95 : Nat)) }

/-- The shape of a stage's work, from which the microcode's use of groups follows. -/
def microShape (d : AttDesc) (l : List AttEnt) : List Nat :=
  [bit 0 d.expand, d.heads, d.kGroups, d.latent, d.headDim, d.ropeDim, d.stripe.s] ++ l.flatMap (fun e => [e.e.start, e.e.qlen, e.v])

/-- The groups of a stripe that no earlier stage left open, after the stage's final run. -/
def freeGroups (shape : List Nat) (datums : List Int) (m : Summary) (js : List Nat) (s : State) : State :=
  (js.mapIdx (fun p j => (p, j))).foldl (fun s e => (List.range 8).foldl (fun s k =>
    if (s.group e.2 k).isOpen then s
    else spend 1 (s.setGroup e.2 k (freeGroup (drawNo s) (Config.groupPick shape e.1 k) datums m))) s) s

/-- OVF_GROUPS counts group openings, and how scores share groups is the microcode's: a free value from 1 to the scores. -/
def freeOvf (n : Nat) (m : Summary) : Summary :=
  { m with ovfGroups := if m.ovfGroups = 0 then 0 else 1 + Config.freeNat n % m.ovfGroups }

/-- What a capture counter of an observed attention stage can have counted: nothing where the summary shows that no close could count
there. -/
def captureOpen (m : Summary) (i : Nat) : Bool :=
  if i < 16 then m.amax.isSome
  else if i = 16 then false
  else if i = 17 then decide (m.discards ≠ 0)
  else if i = 18 then m.ovf
  else if i = 19 then m.convSat
  else if i = 20 then m.nan || m.poison
  else true

/-- The capture counters of an observed attention stage: how scores share groups is the microcode's, so the counts of closes are free
values where the summary does not fix them (R139). -/
def captureFree (r : Run) (js : List Nat) (m : Summary) (s : State) : State :=
  match observer r.img r.ix with
  | none => s
  | some _ =>
    js.foldl (fun s j =>
      let s := (List.range 22).foldl (fun s i => spend 1 (capAdd j i (if captureOpen m i then
        Config.freeNat (drawNo s) % 2 ^ 32 else 0) s)) s
      match m.amax with
      | some e => capMax j 16 (e + 1024).toNat s
      | none => s) (startCapture r s)

end Sys2Proof.Machine
end

