-- ==== Sys2Proof/Machine/StagesAttend.lean ====
section
/-! DEFINITION. The attention stages: ATTEND (R277 to R292), ATTEND_BWD (R297 to R299) and SCATTER_KV (R293 to R296). -/

namespace Sys2Proof.Machine

/-! ### Output parts -/

/-- An output part: the bytes of its elements and of their scales, CONV_SAT and NAN_SEEN. -/
structure OutPart where
  elems : List Byte := []
  scales : List Byte := []
  convSat : Bool := false
  nan : Bool := false
  deriving DecidableEq, Repr

/-- The values of a part converted. -/
def outPart (f : Fmt) (nc : NumCtl) (ord : Nat) (idx : Nat → Nat) (l : List Val) : OutPart :=
  if f.isMx then
    let bs := (cut32 l).mapIdx (fun b x => convertBlock f nc.rmode nc ord (fun i => idx (32 * b + i)) x)
    { elems := bs.flatMap (fun b => leBytes (4 * f.bits) (packCodes f.bits (b.2.1.map Conv.code)))
      scales := bs.flatMap (fun b => leBytes 1 b.1)
      convSat := bs.any (fun b => b.2.1.any Conv.sat), nan := bs.any (fun b => b.2.2) }
  else
    let cs := l.mapIdx (fun i v => convertScalar f nc.rmode nc (stochasticR nc.seed ord (idx i)) v)
    { elems := cs.flatMap (fun c => leBytes (f.bits / 8) c.1.code), convSat := cs.any (fun c => c.1.sat), nan := cs.any (fun c => c.2) }

/-- What a flagged row and head writes (R75). -/
def flaggedPart (f : Fmt) (n : Nat) : OutPart :=
  if f.isMx then { elems := List.replicate (fmtBytes f n) 0, scales := List.replicate (n / 32) 255 }
  else { elems := (List.replicate n ()).flatMap (fun _ => leBytes (f.bits / 8) (nanMarker f)) }

/-- The writes of part n of a bench region. -/
def partWrites (t : Stage) (d : AttDesc) (region base n : Nat) (o : OutPart) : List (Nat × List Byte) :=
  let p := d.planes t.map region
  [(base + p.elem.1 + n * p.elem.2, o.elems), (base + p.scale.1 + n * p.scale.2, o.scales)]
def storeParts (j : Nat) (l : List (Nat × List Byte)) (s : State) : State := l.foldl (fun s w => storeBench j w.1 w.2 false s) s

/-- The exact values of FP32 words. -/
def wordVals (l : List Word) : List Val := l.map f32Val

/-! ### ATTEND -/

/-- Entry of the base KEXP_DATUM raised by a replay (R290). -/
def kexpDatum (d : AttDesc) (raise : Int) : Int := d.kexpDatum + raise
def attMayRaise (r : Run) (d : AttDesc) (raise : Int) : Bool := mayRaise r.g raise && decide (d.kexpDatum + raise + 16 ≤ 511)

/-- The expanded keys of one latent, group by group, with the groups they opened (R282). -/
def expandKey (m : Mem) (r : Run) (d : AttDesc) (raise : Int) (j g : Nat) (k : KeyRec) : List Val × List Group × Bool :=
  let gs := project (kexpDatum d raise) (asOps k.bad k.lat) (upBad m r.g d j 8 g) (upColumns m r.g d j 8 g)
  let b := blockVals .e4m3 r.g.num (groupVals gs)
  (b.1, gs.map (Group.clipped b.2), gs.any (fun x => x.poison))

/-- The key part that a head's content score is taken with. -/
def headGroup (d : AttDesc) (h : Nat) : Nat := h * d.kGroups / d.heads
def keysFor (m : Mem) (r : Run) (d : AttDesc) (raise : Int) (j : Nat) (k : KeyRec) : List (List Val × List Group × Bool) :=
  if d.expand then (List.range d.kGroups).map (fun g => expandKey m r d raise j g k) else [(k.lat, [], false)]

/-- A key of one joist with its expansions. -/
structure FullKey where
  k : KeyRec
  parts : List (List Val × List Group × Bool)
  deriving DecidableEq, Repr

def FullKey.part (x : FullKey) (d : AttDesc) (h : Nat) : List Val × List Group × Bool :=
  x.parts.getD (if d.expand then headGroup d h else 0) ([], [], false)

/-- The score of a query head at a key: the group it closed, with a NaN of its bias, and the word that enters the softmax. Where the layout
map carries a datum table R52 opens group g at entry g and R283 every score group at DATUM: the model follows R283 (DESIGN CHOICE,
log entry 90). -/
def scoreOf (m : Mem) (r : Run) (d : AttDesc) (raise : Int) (j h : Nat) (q : AttRow) (qh : QHead) (x : FullKey) : Group × Word :=
  let p := x.part d h
  let g := scoreGroup (r.g.num.datum + raise) qh p.1 (rotated m d j h x.k.t x.k.rope) (x.k.bad || p.2.2 || positionBad m d j h q x.k.t)
  let biasNan := d.vision && f32IsNan (biasOf m d j h q.pos x.k.t) && !badMem m false j (biasAt d h q.pos x.k.t) 2
  ({ closedWord g with nan := g.nan || biasNan }, scoreWord m d j h q x.k.t (closeWord g))

/-- The state of one row and head on a stripe joist. -/
def joistSoft (m : Mem) (r : Run) (d : AttDesc) (raise : Int) (j h : Nat) (q : AttRow) (keys : List FullKey) : Soft :=
  let qh := readQuery m r.g d j q h
  (keys.filter (fun x => isVisible m d j q x.k)).foldl (fun a x =>
    let s := scoreOf m r d raise j h q qh x
    softStep a s.2 s.1 x.k.bad x.k.lat) { o := List.replicate d.latent 0 }

/-- What stripe joist 0 writes for one row and head. -/
structure HeadOut where
  out : OutPart
  stats : List Byte
  nan : Bool := false
  poison : Bool := false
  groups : List Group := []
  deriving DecidableEq, Repr

/-- R289 and the special cases of R291. -/
def finishHead (m : Mem) (r : Run) (d : AttDesc) (raise : Int) (j h n : Nat) (a : Soft) : HeadOut :=
  let words (x y : Word) : List Byte := leBytes 4 x.toNat ++ leBytes 4 y.toNat
  let idx (i : Nat) : Nat := n * d.content + i
  if a.flagged then
    { out := flaggedPart d.outFmt d.content, stats := words qnan qnan, nan := a.nan, poison := a.poison, groups := a.groups }
  else if a.groups.isEmpty then
    { out := outPart d.outFmt r.g.num 0 idx (List.replicate d.content (.num ⟨0, 0⟩)),
      stats := words (f32Inf true) (f32Inf true) }
  else
    let k := frecip a.l
    let z := a.o.map (fun x => fmul x k)
    let stats := words a.m (fadd a.m (flog2 a.l))
    if d.expand then
      let g := headGroup d h
      let zs := blockVals .e4m3 r.g.num (wordVals z)
      let gs := project (kexpDatum d raise) (asOps false zs.1) (upBad m r.g d j 12 g) (upColumns m r.g d j 12 g)
      let fl := gs.any Group.flagged
      let p := if fl then flaggedPart d.outFmt d.content else outPart d.outFmt r.g.num 0 idx ((groupVals gs).take d.content)
      { out := { p with convSat := p.convSat || zs.2 }
        stats := if fl then words qnan qnan else stats, nan := gs.any (fun g => g.nan), poison := gs.any (fun g => g.poison), groups := a.groups ++ gs }
    else
      let p := outPart d.outFmt r.g.num 0 idx (wordVals z)
      { out := p, stats := stats, nan := p.nan, groups := a.groups }

/-- The keys of a stripe joist; those that some row sees come with their expansions (R274, R282). -/
def fullKeys (m : Mem) (r : Run) (d : AttDesc) (raise : Int) (l : List AttEnt) (j k : Nat) : List FullKey :=
  let rows := attRows l
  (joistKeys m r.y d l j k).map (fun x => ⟨x, if rows.any (fun q => isVisible m d j q x) then keysFor m r d raise j x else []⟩)

/-- Every row and head in order: row ordinal × HEADS + head. -/
def rowHeads (d : AttDesc) (rows : List AttRow) : List (AttRow × Nat) := rows.flatMap (fun q => (List.range d.heads).map (fun h => (q, h)))

/-- One run of ATTEND: what stripe joist 0 writes, and the groups that the expansions opened. -/
def attendOuts (m : Mem) (r : Run) (d : AttDesc) (raise : Int) (l : List AttEnt) : List HeadOut × List Group :=
  let js := r.js.mapIdx (fun k j => (k, j))
  let keys := js.map (fun e => (e.2, fullKeys m r d raise l e.2 e.1))
  let root := (r.js.head?).getD 0
  ((rowHeads d (attRows l)).map (fun qh =>
      let softs := keys.map (fun e => joistSoft m r d raise e.1 qh.2 qh.1 e.2)
      let a := (treeLevels softMerge (Nat.log2 d.stripe.s) softs).headD { o := [] }
      finishHead m r d raise root qh.2 (qh.1.ord * d.heads + qh.2) a),
    keys.flatMap (fun e => e.2.flatMap (fun x => x.parts.flatMap (fun p => p.2.1))))

/-- The summary over all groups an attention stage opened. -/
def attSummary (r : Run) (raise : Int) (gs : List Group) : Summary := summaryOf (r.g.num.datum + raise) (raise / 16).toNat gs

/-- The working state of a stripe joist: its layout is the microcode's, so its bytes are free values. -/
def scrambleState (js : List Nat) (d : AttDesc) (s : State) : State :=
  let n := d.maxRows * d.heads * (4 * d.latent + 8)
  js.foldl (fun s j =>
    let k := drawNo s
    spend n (storeBench j d.stateOff ((List.range n).map (fun i => (Config.freeWord (k + i)).truncate 8)) false s)) s

/-- One run of ATTEND over the stripe. -/
def attendRun (r : Run) (d : AttDesc) (l : List AttEnt) (raise : Int) (s : State) : State × Summary :=
  let o := attendOuts s.mem r d raise l
  let root := (r.js.head?).getD 0
  let m := (attSummary r raise (o.1.flatMap (fun x => x.groups) ++ o.2)).withConv (o.1.any (fun x => x.out.convSat))
    (o.1.any (fun x => x.nan)) |>.withPoison (o.1.any (fun x => x.poison))
  let s := (o.1.mapIdx (fun n x => (n, x))).foldl (fun s e =>
    let s := storeParts root (partWrites r.g d 4 d.outDst e.1 e.2.out) s
    if d.saveStats then storeBench root (d.statsOff + 8 * e.1) e.2.stats false s else s) s
  (s, m)

/-- An attention stage up to its runs: control data and data are read, pages pinned; an uncorrectable control word fails
the stage with nothing written (R277, R291). -/
def attStage (r : Run) (d : AttDesc) (bwd : Bool) (go : List AttEnt → Int → State → State × Summary) (s : State) :
    State × Active :=
  let js := r.js
  let l := attEnts s r d
  let s := pinStage r (readPages s r d) s
  let ctl := js.flatMap (fun j => controlReads r l j)
  let bad := ctl.filter (fun e => badMem s.mem e.2.inSlice e.1 e.2.base e.2.len)
  let narrow := poisonOf r s (fun b => if b then 1 else 6)
  if bad ≠ [] then (meetStage r.x.id (narrow (fetched bad)) s, r.failed .uncorrectable)
  else
    let reads := (js.mapIdx (fun k j => dataReads s.mem r d bwd l j k)).flatMap id
    let met := ((narrow (fetched ctl) ++ poisonOf r s stageSrc reads).eraseDups)
    let s := throughLines .normal false reads (throughLines .narrow false ctl (meetStage r.x.id met s))
    let t := replayed r (attMayRaise r d) (fun raise s => go l raise s) s
    let m := t.2.summary
    let kexp := if d.expand || bwd then [d.kexpDatum + (m.datumFinal - r.g.num.datum)] else []
    let u := captureFree r js m (holdTrusses js (useVectors js
      (freeGroups (microShape d l) (m.datumFinal :: kexp) m js (scrambleState js d t.1))))
    (spend 1 u, { t.2 with summary := freeOvf (drawNo u) t.2.summary })

def execAttend (r : StageRef) (s : State) : Host.Outcome State Fault Refusal :=
  stageEvent r (fun r => match r.g.work with
    | .attend d => some (attStage r d false (fun l raise s => attendRun r d l raise s))
    | _ => none) s

/-! ### ATTEND_BWD -/

/-- What a stripe joist holds for one row and head: query, LSE, output gradient, Δ and dz (R298). -/
structure BwdRow where
  q : AttRow
  h : Nat
  qh : QHead
  lse : Word
  delta : Word
  /-- dz as decoded, or as its FP32 close gives it -/
  dz : List Val
  bad : Bool
  groups : List Group
  deriving DecidableEq, Repr

/-- The FP32 closes of a list of groups, as words. -/
def closedWords (l : List Group) (n : Nat) : List Word :=
  (l.flatMap (fun g => (g.closeScalar .fp32 {} 0 (fun i => i)).1.map (BitVec.ofNat 32))).take n
/-- The same as values. -/
def closedVals (l : List Group) (n : Nat) : List Val :=
  (l.flatMap (fun g => if g.flagged then List.replicate 16 (flaggedVal g) else wordVals (closedWords [g] 16))).take n

def bwdRow (m : Mem) (r : Run) (d : AttDesc) (raise : Int) (j : Nat) (qh : AttRow × Nat) : BwdRow :=
  let n := qh.1.ord * d.heads + qh.2
  let dO := regionVals m r.g d 32 d.outFmt j d.doSrc d.content n
  let o := regionVals m r.g d 36 d.outFmt j d.oSrc d.content n
  let cols := upColumns m r.g d j 12 (headGroup d qh.2)
  let gs := if d.expand then
      project (kexpDatum d raise) (asOps dO.2 dO.1) (upBad m r.g d j 12 (headGroup d qh.2))
        ((List.range d.latent).map (fun l => cols.map (fun c => c.getD l .nan)))
    else []
  { q := qh.1, h := qh.2, qh := readQuery m r.g d j qh.1 qh.2,
    lse := benchWord m j (d.statsOff + 8 * n + 4),
    delta := (dO.1.zip o.1).foldl (fun x e => ffma (toF32 e.1) (toF32 e.2) x) 0,
    dz := if d.expand then closedVals gs d.latent else dO.1.take d.latent,
    bad := dO.2 || o.2 || badMem m false j (d.statsOff + 8 * n) 8 || gs.any (fun g => g.poison),
    groups := gs.map closedWord }

/-- What one visible position gives for one row and head: g and P with their poison, and the groups of its score and dP. -/
structure BwdCell where
  g : Operand
  p : Operand
  groups : List Group
  deriving DecidableEq, Repr

def bwdCell (m : Mem) (r : Run) (d : AttDesc) (raise : Int) (j : Nat) (b : BwdRow) (x : FullKey) : BwdCell :=
  let s := scoreOf m r d raise j b.h b.q b.qh x
  let p := fexp2 (fsub s.2 b.lse)
  let dp := (dotSteps true (cut32 (asOps b.bad b.dz)) (cut32 (asOps x.k.bad x.k.lat))).foldl
    (fun g l => contributeSum g 0 l) (openGroup (kexpDatum d raise))
  let g := fmul (fmul p (fsub (closeWord dp) b.delta)) d.scale
  let bad := s.1.poison || dp.poison || b.bad || x.k.bad
  let word (nan : Bool) (w : Word) : Operand := ⟨if nan then .nan else if bad then .num ⟨0, 0⟩ else f32Val w, bad⟩
  { g := word (s.1.nan || dp.nan) g, p := word s.1.nan p, groups := [s.1, closedWord dp] }

/-- Operands in GRAD_FMT blocks with round-to-nearest-even and the stage's SCALE_CEIL (R298); poison reaches the block that it shares a
scale with, as a NaN would (R74, R299). -/
def gradOps (r : Run) (d : AttDesc) (l : List Operand) : List Operand :=
  (cut32 l).flatMap (fun b => asOps (b.any Operand.bad) (blockVals d.gradFmt r.g.num (b.map Operand.val)).1)
/-- CONV_SAT of that conversion. -/
def gradSat (r : Run) (d : AttDesc) (l : List Operand) : Bool := (blockVals d.gradFmt r.g.num (l.map Operand.val)).2
def column (l : List (List Val)) (i : Nat) : List Val := l.map (fun v => v.getD i .nan)

/-- The rows of a joist, its keys, and the cells where a row sees a key. -/
structure BwdJoist where
  j : Nat
  rows : List BwdRow
  keys : List FullKey
  cells : List (List (Option BwdCell))
  deriving DecidableEq, Repr

def bwdJoist (m : Mem) (r : Run) (d : AttDesc) (raise : Int) (l : List AttEnt) (k j : Nat) : BwdJoist :=
  let rows := (rowHeads d (attRows l)).map (bwdRow m r d raise j)
  let keys := fullKeys m r d raise l j k
  { j := j, rows := rows, keys := keys,
    cells := rows.map (fun b => keys.map (fun x =>
      if isVisible m d j b.q x.k then some (bwdCell m r d raise j b x) else none)) }

/-- dq of one row and head on one joist: content groups, then positional groups. -/
def dqGroups (m : Mem) (r : Run) (d : AttDesc) (raise : Int) (x : BwdJoist) (n : Nat) (b : BwdRow) : List Group × List Group :=
  let seen := ((x.cells.getD n []).zip x.keys).filterMap (fun e => e.1.map (fun c => (c, e.2)))
  let gs := seen.map (fun e => e.1.g)
  let vec := gradOps r d gs
  let parts := seen.map (fun e => (e.2.part d b.h).1)
  let ropes := seen.map (fun e => rotated m d x.j b.h e.2.k.t e.2.k.rope)
  let ropeBad := baseBad m d x.j b.h
  ((project (kexpDatum d raise) vec false ((List.range d.content).map (column parts))).map (Group.clipped (gradSat r d gs)),
    projectAll (kexpDatum d raise) d.ropeDim [⟨false, vec, (List.range d.ropeDim).map (fun i => asOps ropeBad (column ropes i))⟩])

/-- dc_t of one key: over rows and heads of g times the query, and of P times dz (R298). -/
def dcGroups (m : Mem) (r : Run) (d : AttDesc) (raise : Int) (x : BwdJoist) (kix : Nat) : List Group × List Group × List Group :=
  let zero : Operand := ⟨.num ⟨0, 0⟩, false⟩
  let cells := x.cells.map (fun row => row.getD kix none)
  let gs := cells.map (fun c => (c.map (fun c => c.g)).getD zero)
  let ps := cells.map (fun c => (c.map (fun c => c.p)).getD zero)
  let gVec := gradOps r d gs
  let datum := kexpDatum d raise
  let dz (i : Nat) : List Operand := x.rows.map (fun b => ⟨b.dz.getD i .nan, b.bad⟩)
  let dzs := (List.range d.latent).map dz
  let dzPart : Proj := ⟨true, gradOps r d ps, dzs.map (gradOps r d)⟩
  let sat := gradSat r d gs || gradSat r d ps || dzs.any (gradSat r d)
  let content (i : Nat) : List Operand := x.rows.map (fun b => ⟨b.qh.content.getD i .nan, b.qh.bad⟩)
  let turned (i : Nat) : List Operand := x.rows.map (fun b => ⟨b.qh.rope.getD i .nan, b.qh.bad⟩)
  let rope := projectAll datum d.ropeDim [⟨false, gVec, (List.range d.ropeDim).map turned⟩]
  if d.expand then
    let us := (List.range d.kGroups).map (fun g =>
      let mask := (x.rows.zip gVec).map (fun e => if headGroup d e.1.h = g then e.2 else zero)
      projectAll datum d.headDim [⟨true, mask, (List.range d.headDim).map content⟩])
    let left (u : List Group) : List Operand := asOps (u.any (fun g => g.poison)) (closedVals u d.headDim)
    let sat := sat || us.any (fun u => gradSat r d (left u))
    let parts : List Proj := (us.mapIdx (fun g u => (g, u))).map (fun e =>
      let cols := upColumns m r.g d x.j 8 e.1
      ⟨true, gradOps r d (left e.2),
        (List.range d.latent).map (fun l => asOps (upBad m r.g d x.j 8 e.1) (cols.map (fun c => c.getD l .nan)))⟩)
    ((projectAll datum d.latent (parts ++ [dzPart])).map (Group.clipped sat), rope, us.flatMap (fun u => u.map closedWord))
  else
    ((projectAll datum d.latent
      [⟨true, gVec, (List.range d.latent).map content⟩, dzPart]).map (Group.clipped sat), rope, [])

/-- Every head has the same rotary base; where they differ the spec names no angle for a sum over heads. -/
def oneBase (m : Mem) (d : AttDesc) (j : Nat) : Bool :=
  (List.range d.heads).all (fun h => benchWord m j (d.posTab + 4 * h) = benchWord m j d.posTab)

/-- A part of a gradient: the marker where a group is flagged, else its values in a format. -/
def gradPart (f : Fmt) (nc : NumCtl) (ord : Nat) (idx : Nat → Nat) (flag : Bool) (l : List Val) : OutPart :=
  if flag then flaggedPart f l.length else outPart f nc ord idx l

/-- One joist's writes of a stage: bench addresses with bytes, CONV_SAT and NAN_SEEN. -/
structure BenchWrite where
  j : Nat
  parts : List (Nat × List Byte)
  convSat : Bool
  nan : Bool
  deriving DecidableEq, Repr

/-- The query gradients, closed at every stripe joist. -/
def dqWrites (m : Mem) (r : Run) (d : AttDesc) (raise : Int) (xs : List BwdJoist) : List BenchWrite × List Group :=
  let rows := ((xs.head?).map (fun x => x.rows)).getD []
  let done := (rows.mapIdx (fun n b => (n, b))).map (fun e =>
    let per := xs.map (fun x => dqGroups m r d raise x e.1 e.2)
    let merge (a b : List Group × List Group) : List Group × List Group :=
      ((a.1.zip b.1).map (fun p => p.1.merge p.2), (a.2.zip b.2).map (fun p => p.1.merge p.2))
    let t := (treeLevels merge (Nat.log2 d.stripe.s) per).headD ([], [])
    let width := d.content + d.ropeDim
    let c := gradPart d.outFmt r.g.num 0 (fun i => e.1 * width + i) (t.1.any Group.flagged) ((groupVals t.1).take d.content)
    let back := rotateWords m d (((xs.head?).map (fun x => x.j)).getD 0) e.2.h e.2.q.pos true (closedWords t.2 d.ropeDim)
    let p := gradPart .bf16 r.g.num 0 (fun i => e.1 * width + d.content + i) (t.2.any Group.flagged) (wordVals back)
    let rope := (d.planes r.g.map 40).rope
    (xs.map (fun x => (⟨x.j, partWrites r.g d 40 d.dqDst e.1 c ++ [(d.dqDst + rope.1 + e.1 * rope.2, p.elems)],
        c.convSat || p.convSat, c.nan || p.nan⟩ : BenchWrite)), t.1 ++ t.2.map closedWord))
  (done.flatMap (fun x => x.1), done.flatMap (fun x => x.2))

/-- The positional gradient of a key rotated back. Where the heads' bases differ R298 names no angle for their sum: a free function of the
sum, the position and the bases, so that it repeats (R299; DESIGN CHOICE, log entry 47). -/
def keyBack (m : Mem) (d : AttDesc) (j t : Nat) (l : List Word) : List Word :=
  if oneBase m d j then rotateWords m d j 0 t true l
  else (List.range d.ropeDim).map (fun i =>
    Config.mixedTurn (l ++ (List.range d.heads).map (fun h => benchWord m j (d.posTab + 4 * h))) t i)

/-- The gradient records of a joist, in the order of its keys (R297); key n of the joist is its record n. -/
def dcWrites (m : Mem) (r : Run) (d : AttDesc) (raise : Int) (x : BwdJoist) : List BenchWrite × List Group :=
  let done := (x.keys.mapIdx (fun n k => (n, k))).map (fun e =>
    let g := dcGroups m r d raise x e.1
    let at_ := e.2.k.ix * (d.latent + d.ropeDim)
    let c := gradPart d.outFmt r.g.num 1 (fun i => at_ + i) (g.1.any Group.flagged) ((groupVals g.1).take d.latent)
    let p := gradPart d.outFmt r.g.num 1 (fun i => at_ + d.latent + i) (g.2.1.any Group.flagged)
      (wordVals (keyBack m d x.j e.2.k.t (closedWords g.2.1 d.ropeDim)))
    ((⟨x.j, [(d.dcDst + e.1 * d.dcBytes, c.elems ++ c.scales ++ p.elems ++ p.scales)], c.convSat || p.convSat, c.nan || p.nan⟩
      : BenchWrite), g.1 ++ g.2.1.map closedWord ++ g.2.2))
  (done.map (fun x => x.1), done.flatMap (fun x => x.2))

/-- One run of ATTEND_BWD over the stripe. -/
def bwdRun (r : Run) (d : AttDesc) (l : List AttEnt) (raise : Int) (s : State) : State × Summary :=
  let m := s.mem
  let xs := (r.js.mapIdx (fun k j => (k, j))).map (fun e => bwdJoist m r d raise l e.1 e.2)
  let dq := dqWrites m r d raise xs
  let dc := xs.map (dcWrites m r d raise)
  let ws := dq.1 ++ dc.flatMap (fun x => x.1)
  let gs := dq.2 ++ dc.flatMap (fun x => x.2)
    ++ xs.flatMap (fun x => x.rows.flatMap (fun b => b.groups)
      ++ x.cells.flatMap (fun row => row.flatMap (fun c => (c.map (fun c => c.groups)).getD []))
      ++ x.keys.flatMap (fun k => k.parts.flatMap (fun p => p.2.1)))
  let sum := (attSummary r raise gs).withConv (ws.any (fun w => w.convSat)) (ws.any (fun w => w.nan))
  (ws.foldl (fun s w => storeParts w.j w.parts s) s, sum)

def execAttendBwd (r : StageRef) (s : State) : Host.Outcome State Fault Refusal :=
  stageEvent r (fun r => match r.g.work with
    | .attendBwd d => some (attStage r d true (fun l raise s => bwdRun r d l raise s))
    | _ => none) s

/-! ### SCATTER_KV -/

/-- The pages that appends write: of every entry whose sequence is open, those of its new positions, then the staging page
sets. -/
def scatterPages (s : State) (r : Run) : List (Nat × Nat) :=
  r.x.table.flatMap (fun e =>
    match s.seqRec e.seqId with
    | some q =>
      if q.isOpen ∧ 0 < e.append then
        let lo := q.length / r.y.pageTokens
        ((q.entries.take (pagesFor r.y (q.length + e.append))).drop lo).map (fun p => (e.seqId, p))
      else []
    | none => []) ++ r.x.grant.staging.map (fun p => (0xFFFF, p))

/-- The new records that stripe joist k holds at SRC, in order: entry, position, and whether its sequence is open. -/
def newRecords (s : State) (r : Run) (p : Stripe) (k : Nat) : List (LtEntry × Nat × Option SeqRec) :=
  r.x.table.flatMap (fun e =>
    match s.seqRec e.seqId with
    | some q => ((List.range e.append).map (fun i => q.length + i)).filterMap (fun t =>
        if t % p.s = k then some (e, t, if q.isOpen then some q else none) else none)
    | none => [])

/-- Bytes of n from an address cut into the pieces that lie in one row. -/
def rowPieces : Nat → Nat → Nat → List (Nat × Nat)
  | 0, _, _ => []
  | f + 1, a, n =>
    if n = 0 then []
    else
      let k := min n (512 - a % 512)
      (a, k) :: rowPieces f (a + k) (n - k)

/-- The address of the same codewords of a staging page: the first of its eight rows in the piece's bank. -/
def stagingAddr (staging : List Nat) (a row : Nat) : Option Nat :=
  let c := decodeSA a
  (staging.find? (fun p => p / 64 = c.lam)).map (fun p => rowAddr c.bankIx (8 * (p % 64) + row) c.cw + c.byte)

/-- Codewords copied one by one from one place of a joist to another: a bad one is written as poison (R206). -/
def copyWords (j : Nat) (fromSlice : Bool) (src a n : Nat) (s : State) : State :=
  (List.range ((n + 7) / 8)).foldl (fun s i =>
    let k := min 8 (n - 8 * i)
    s.onMem (fun m => writeMem true j (a + 8 * i) (readMem m fromSlice j (src + 8 * i) k) (badMem m fromSlice j (src + 8 * i) k) m)) s

/-- Uncorrectable codewords that the COPY has met in the staging row. -/
def stagingFound (found : List Finding) (j b n : Nat) (s : State) : State :=
  (found.filter (fun f => f.kind == .ue && decide (f.src = 3 ∧ f.joist = j ∧ f.unit < 24
      ∧ memKey true j b ≤ 8 * markKey f ∧ 8 * markKey f < memKey true j b + n))).foldl (fun s f => markUnit f 1 s) s

def dropRow (j a : Nat) (s : State) : State :=
  s.onJoi (fun x => { x with cache := cacheDropRow j (decodeSA a).bankIx (decodeSA a).row x.cache })

/-- One piece: the port writes it with the stream hint to the staging row, and the peg copies it to its target row, each codeword as it
reads (R162, R206, R295, R296); whether one was bad. -/
def scatterPiece (r : Run) (j row src a n : Nat) (s : State) : State × Bool :=
  let s := match stagingAddr r.x.grant.staging a row with
    | some b =>
      let s := copyWords j false src b n (throughLines .stream true [(j, ⟨true, b, n⟩)] s)
      let s := meetStage r.x.id ((poisonReads s true j b n 3).filter (fun f => !justFound r.found f)) (stagingFound r.found j b n s)
      copyWords j true b a n (dropRow j a (dropRow j b s))
    | none => copyWords j false src a n (dropRow j a s)
  (stampJoist r.y.tenancy true j s, badMem s.mem true j a n)

/-- The row of the staging page that the next piece of a bank takes: the lowest whose codewords are still free, and a new
round where there is none. -/
def nextRow (used : List (Nat × Nat × Nat × Nat)) (a n : Nat) : Option Nat :=
  let c := decodeSA a
  (List.range 8).find? (fun row => used.all (fun u =>
    !(decide (u.1 = c.bankIx ∧ u.2.1 = row ∧ u.2.2.1 < a % 512 + n ∧ a % 512 < u.2.2.1 + u.2.2.2))))

/-- What a joist has placed in the current round, and the outcome so far. -/
structure ScatAcc where
  s : State
  used : List (Nat × Nat × Nat × Nat) := []
  bad : Bool := false
  deriving DecidableEq, Repr

/-- Every record of one stripe joist. -/
def scatterJoist (r : Run) (d : ScatDesc) (k j : Nat) (s : State) : State × Bool :=
  let a := ((newRecords s r d.stripe k).mapIdx (fun n e => (n, e))).foldl (fun (a : ScatAcc) e =>
    match e.2.2.2 with
    | none => a
    | some q =>
      let page := q.entries.getD (e.2.2.1 / r.y.pageTokens) 0
      let base := page * 16384 + d.stripe.regionOff + e.2.2.1 % r.y.pageTokens / d.stripe.s * d.stripe.recBytes
      (rowPieces 64 base d.stripe.recBytes).foldl (fun (a : ScatAcc) p =>
        let row := nextRow a.used p.1 p.2
        let used := if row.isNone then [] else a.used
        let t := scatterPiece r j (row.getD 0) (d.src + e.1 * d.stripe.recBytes + (p.1 - base)) p.1 p.2 a.s
        { s := t.1, used := used ++ [((decodeSA p.1).bankIx, row.getD 0, p.1 % 512, p.2)], bad := a.bad || t.2 }) a)
    { s := s : ScatAcc }
  (a.s, a.bad)

/-- The control data that SCATTER_KV reads on a stripe joist: its length-table entries, and the page-table entries of the positions that it
writes (R219). -/
def scatterControl (s : State) (r : Run) (j : Nat) : List ShareRead :=
  (j, ⟨false, r.img.ltOff, 8 * r.x.table.length⟩) :: r.x.table.filterMap (fun e =>
    match s.seqRec e.seqId with
    | some q =>
      if q.isOpen ∧ 0 < e.append then
        let lo := q.length / r.y.pageTokens
        some (j, ⟨true, recordAddr r.y q.slot + 16 + 2 * lo, 2 * (pagesFor r.y (q.length + e.append) - lo)⟩)
      else none
    | none => none)

def scatterStage (r : Run) (d : ScatDesc) (s : State) : State × Active :=
  let js := r.js.mapIdx (fun k j => (k, j))
  let s := pinStage r (scatterPages s r) s
  let ctl := r.js.flatMap (scatterControl s r)
  let bad := ctl.filter (fun e => badMem s.mem e.2.inSlice e.1 e.2.base e.2.len)
  let narrow := poisonOf r s (fun b => if b then 1 else 6)
  if bad ≠ [] then (meetStage r.x.id (narrow (fetched bad)) s, r.failed .uncorrectable)
  else
    let reads := js.flatMap (fun e => [(e.2, (⟨false, d.src, (newRecords s r d.stripe e.1).length * d.stripe.recBytes⟩ : Region))])
    let s := throughLines .narrow false ctl (meetStage r.x.id ((narrow (fetched ctl) ++ poisonOf r s stageSrc reads).eraseDups) s)
    let t := js.foldl (fun (a : State × Bool) e => let u := scatterJoist r d e.1 e.2 a.1; (u.1, a.2 || u.2)) (s, false)
    let m := ({ datumFinal := r.g.num.datum } : Summary).withPoison t.2
    (t.1, { ix := r.ix, status := m.status, summary := m })

/-- The banks that the appends of a stage use: those of its staging pages and of their targets (R209, R295). -/
def scatterBanks (s : State) (r : Run) : List (Nat × Nat) := pageBanks r.js ((scatterPages s r).map (fun e => e.2))

/-- The appends rank with peg segments: the stage's event waits while one of their banks runs a segment, or the active limit
has no room (R156, R201, R209). -/
def execScatterKv (ref : StageRef) (s : State) : Host.Outcome State Fault Refusal :=
  match runOf s ref with
  | none => .next s
  | some r => match r.g.work with
    | .scatterKv d =>
      .next (ownSequence (scatterBanks s r) (fun s => runStage r (scatterStage r d) s) s)
    | _ => .next s

end Sys2Proof.Machine
end

