-- ==== Sys2Proof/Machine/StepEnd.lean ====
section
/-! DEFINITION. The ends of stages and steps (R246, R260, R368, R463, R464, R575), the expiry of a DEADLINE (R372, R461, R466,
R488) and the gating of a bay's joists (R535). -/

namespace Sys2Proof.Machine

/-! ### The end of a step -/

/-- A status after which the step goes on (R575). -/
def goesOn (st : Status) : Bool := st == .ok || st == .poison || st == .datumOvf || st == .nanSeen

/-- The appends of a step count as completed (R260, R296). -/
def appendsDone (y : Bay) (x : Step) : Bool :=
  ((bayStages y).mapIdx (fun k g => (k, g))).all (fun e =>
    !isScatter e.2 || x.ended.any (fun d => decide (d.1 = e.1) && d.2.1 == .ok))

/-- LENGTH + a_s is committed for every sequence that is still open. -/
def commitLengths (y : Bay) (x : Step) (s : State) : State :=
  x.table.foldl (fun s e =>
    match s.seqRec e.seqId with
    | none => s
    | some r =>
      if r.isOpen && decide (0 < e.append) then
        putRecord e.seqId { r with length := r.length + e.append, pages := max r.pages (pagesFor y (r.length + e.append)) } s
      else s) s

/-- What admission took goes back, but for the page sets that now hold committed positions (R260). -/
def settleGrant (y : Bay) (x : Step) (s : State) : State :=
  if appendsDone y x then releasePages x.bay x.grant.staging (commitLengths y x s) else dropGrant x s

/-- The stage that STATUS and SUMMARY describe: the first that did not end OK, else the last one (R368). -/
def judged (x : Step) : Nat × Status × Summary :=
  let bad := x.ended.filter (fun e => e.2.1 != .ok)
  match sortNat (bad.map (fun e => e.1)) with
  | i :: _ => (bad.find? (fun e => e.1 = i)).getD (i, .ok, {})
  | [] =>
    let last := (x.ended.map (fun e => e.1)).foldl max 0
    (x.ended.find? (fun e => e.1 = last)).getD (last, .ok, {})

/-- A step completes (R260, R368). -/
def completeStep (y : Bay) (x : Step) (s : State) : State :=
  let e := judged x
  let cycles := aclkNow s ((bayBents y).headD 0) - x.startedAt
  let s := freeClosed x (dropStep x.id (dropPins x (settleGrant y x s)))
  let s := s.setBay x.bay (fun y => { y with stage := 0xFFFF })
  finish x.cx 0x0040 { status := e.2.1, result := [x.jigSeq, e.1, x.ended.length, cycles], summary := some e.2.2,
                       bound := some (boundOf x), epoch := some x.epoch } s

/-! ### The end of a stage -/

/-- The page sets of one stage are unpinned (R246). -/
def unpinStage (ix : Nat) (x : Step) (s : State) : State :=
  let mine := x.pins.filter (fun e => e.1 = ix)
  setStep x.id (fun z => { z with pins := z.pins.filter (fun e => e.1 ≠ ix) })
    (unpinPages x.bay (mine.map (fun e => e.2.2)) s)

/-- A stage has ended: it counts, and a status other than the four of R575 ends the step. -/
def endStage (a : Active) (x : Step) (s : State) : State :=
  let s := unpinStage a.ix x s
  let s := setStep x.id (fun z => { z with
    active := z.active.filter (fun e => e.ix ≠ a.ix)
    ended := z.ended ++ [(a.ix, a.status, a.summary)]
    stopping := z.stopping || !goesOn a.status }) s
  let s := s.onQci (fun q => { q with jigBeat := (q.jigBeat + 1) % 256 })
  showStage x.id x.bay (s.setBay x.bay (fun y => { y with ends := (y.ends + 1) % 2 ^ 16 }))

/-- The step has nothing left to run. -/
def stepOver (y : Bay) (x : Step) : Bool :=
  x.active.isEmpty && (x.stopping || decide ((bayStages y).length ≤ x.nextIx))

def execStageEnd (bay ix : Nat) (s : State) : Host.Outcome State Fault Refusal :=
  match s.bayOf bay, runningStep s bay with
  | some y, some x =>
    match x.active.find? (fun a => a.ix = ix) with
    | none => .next s
    | some a =>
      if !a.finished then .next s
      else
        let s := endStage a x s
        match stepOf s x.id with
        | none => .next s
        | some z => .next (if stepOver y z then completeStep y z s else s)
  | _, _ => .next s

/-! ### Deadlines -/

/-- The reset that covers a bent of a bay. -/
def coveringReset (y : Bay) (s : State) : Option PReset :=
  s.pwr.resets.find? (fun r => r.bents.any (fun b => (bayBents y).contains b))

/-- A running step's deadline passes: it stops, and its bay's bents are reset unless a reset of the bay already runs; its
completion waits for DONE. -/
def stepDeadline (x : Step) (s : State) : State :=
  match s.bayOf x.bay with
  | none => s
  | some y =>
    let s := if (coveringReset y s).isSome then s else requestReset (bayBents y) 1 none s
    match coveringReset y s with
    | some r => shelveStep r.id .timeout x (tearStep x s)
    | none => s

/-- A step that a reset has stopped already reports E_TIMEOUT when its deadline passes before DONE (R488). -/
def lateDeadline (session seq : Nat) (s : State) : State :=
  s.onPwr (fun p => { p with resets := p.resets.map (fun r => { r with late := r.late.map (fun e =>
    if e.1.session = session ∧ e.1.seq = seq ∧ e.2.1 = 0x0040 then (e.1, e.2.1, { e.2.2 with status := .timeout }) else e) }) })

/-- Commands whose DEADLINE is ignored (R461). -/
def ignoresDeadline (op : Nat) : Bool := decide (op = 0x0080 ∨ op = 0x0081 ∨ op = 0x0082 ∨ op = 0x0011)

/-- The tenancy of a session runs under per-command timeouts (R460). -/
def timesOut (s : State) (session : Nat) : Bool :=
  match callerOf s session with
  | some (.tenant t) => ((s.tenancy t).map (fun x => x.hangMode == 1)).getD false
  | _ => false

/-- A margin run that takes too long: E_TIMEOUT and a partition reset of its bent. -/
def marginDeadline (cx : Cmd) (s : State) : State :=
  let bents := (List.range 4).filter (fun b => (s.bent b).margining == some cx)
  let s := bents.foldl (fun s b => s.setBent b (fun x => { x with margining := none })) s
  finish cx 0x00B4 { status := .timeout } (if bents = [] then s else requestReset bents 1 none s)

/-- What the expiry of a taken command's DEADLINE does. -/
def expire (t : Taken) (s : State) : State :=
  let cx : Cmd := { session := t.session, seq := t.seq, tag := t.tag, port := t.port, deadline := t.deadline }
  if t.opcode = 0x0040 then
    if !timesOut s t.session then s
    else
      match s.jig.steps.find? (fun x => x.cx.session = t.session ∧ x.cx.seq = t.seq) with
      | some x => if x.phase = .running then stepDeadline x s else s
      | none => lateDeadline t.session t.seq s
  else if t.opcode = 0x00B4 then
    match (List.range 4).findSome? (fun b => (s.bent b).margining.filter (fun c =>
        c.session = t.session && c.seq == t.seq)) with
    | some c => marginDeadline c s
    | none => s
  else if ignoresDeadline t.opcode || !timesOut s t.session then s
  else finish cx t.opcode { status := .timeout } (abandon t.session t.seq s)

def execDeadlineExpiry (session seq : Nat) (s : State) : Host.Outcome State Fault Refusal :=
  match s.qci.taken.find? (fun t => t.session = session ∧ t.seq = seq) with
  | none => .next s
  | some t => .next (if t.deadline = 0 ∨ s.qci.framerHalted then s else expire t s)

/-! ### Gating -/

def execBayGate (bay : Nat) (s : State) : Host.Outcome State Fault Refusal :=
  .next (if (stepsOf s bay).all (fun x => x.isQueued) then s.setBay bay (fun y => { y with gated := true, ungating := false })
    else s)

def execBayUngated (bay : Nat) (s : State) : Host.Outcome State Fault Refusal :=
  .next (s.setBay bay (fun y => { y with ungating := false }))

end Sys2Proof.Machine
end

