-- ==== Sys2Proof/Machine/Dispatch.lean ====
section
/-! DEFINITION. The meaning of every command and event. -/

namespace Sys2Proof.Machine

def exec (i : Instr) (s : State) : Host.Outcome State Fault Refusal :=
  match i with
  | .hello cx ringVa ringKey ringEntries => Sys2Proof.Machine.execHello cx ringVa ringKey ringEntries s
  | .attest cx nonce chain reply => Sys2Proof.Machine.execAttest cx nonce chain reply s
  | .sessionOpen cx body sig => Sys2Proof.Machine.execSessionOpen cx body sig s
  | .sessionOpenEnroll cx body key sig => Sys2Proof.Machine.execSessionOpenEnroll cx body key sig s
  | .sessionOpenUnenroll cx body sig => Sys2Proof.Machine.execSessionOpenUnenroll cx body sig s
  | .sessionClose cx session => Sys2Proof.Machine.execSessionClose cx session s
  | .tenancyCreate cx tenancy hangMode bentMask maxBays keyForm key => Sys2Proof.Machine.execTenancyCreate cx tenancy hangMode bentMask maxBays keyForm key s
  | .tenancyDestroy cx tenancy => Sys2Proof.Machine.execTenancyDestroy cx tenancy s
  | .tenancyZeroise tenancy => Sys2Proof.Machine.execTenancyZeroise tenancy s
  | .bayDefine cx body => Sys2Proof.Machine.execBayDefine cx body s
  | .bayRelease cx bay => Sys2Proof.Machine.execBayRelease cx bay s
  | .bayArm cx bay on window => Sys2Proof.Machine.execBayArm cx bay on window s
  | .programLoad cx bay window offset read digest named reply => Sys2Proof.Machine.execProgramLoad cx bay window offset read digest named reply s
  | .programUnload cx bay => Sys2Proof.Machine.execProgramUnload cx bay s
  | .weightsBind cx window bay access addr extent => Sys2Proof.Machine.execWeightsBind cx window bay access addr extent s
  | .stepRun cx bay prio arm armTag admitTimeout table => Sys2Proof.Machine.execStepRun cx bay prio arm armTag admitTimeout table s
  | .seqOpen cx bay => Sys2Proof.Machine.execSeqOpen cx bay s
  | .seqFork cx parent position => Sys2Proof.Machine.execSeqFork cx parent position s
  | .seqClose cx seqId => Sys2Proof.Machine.execSeqClose cx seqId s
  | .seqReserve cx seqId pages => Sys2Proof.Machine.execSeqReserve cx seqId pages s
  | .jobBind cx fenceMode window offset jobSize read => Sys2Proof.Machine.execJobBind cx fenceMode window offset jobSize read s
  | .jobBindLldpTimeout tenancy => Sys2Proof.Machine.execJobBindLldpTimeout tenancy s
  | .ph1Rx tenancy peer serial grant epoch eph nonce => Sys2Proof.Machine.execPh1Rx tenancy peer serial grant epoch eph nonce s
  | .ph2Rx tenancy peer msg => Sys2Proof.Machine.execPh2Rx tenancy peer msg s
  | .ph2Timeout tenancy => Sys2Proof.Machine.execPh2Timeout tenancy s
  | .configStage cx clear entries => Sys2Proof.Machine.execConfigStage cx clear entries s
  | .configApply cx baseEpoch timeout => Sys2Proof.Machine.execConfigApply cx baseEpoch timeout s
  | .configApplyDrained => Sys2Proof.Machine.execConfigApplyDrained s
  | .configApplyTimeout => Sys2Proof.Machine.execConfigApplyTimeout s
  | .configCommit cx => Sys2Proof.Machine.execConfigCommit cx s
  | .configRead cx which reply => Sys2Proof.Machine.execConfigRead cx which reply s
  | .powerRetain cx timeout => Sys2Proof.Machine.execPowerRetain cx timeout s
  | .retainDrainDone => Sys2Proof.Machine.execRetainDrainDone s
  | .retainDrainTimeout => Sys2Proof.Machine.execRetainDrainTimeout s
  | .retainClose => Sys2Proof.Machine.execRetainClose s
  | .retainStop => Sys2Proof.Machine.execRetainStop s
  | .retainSelfRefresh => Sys2Proof.Machine.execRetainSelfRefresh s
  | .retainRetention => Sys2Proof.Machine.execRetainRetention s
  | .lightWake port => Sys2Proof.Machine.execLightWake port s
  | .frameWake port => Sys2Proof.Machine.execFrameWake port s
  | .wakeFrameRx f => Sys2Proof.Machine.execWakeFrameRx f s
  | .retainExitHub => Sys2Proof.Machine.execRetainExitHub s
  | .retainExitBent bent => Sys2Proof.Machine.execRetainExitBent bent s
  | .resetPartition cx mask => Sys2Proof.Machine.execResetPartition cx mask s
  | .resetDevice cx fullTests => Sys2Proof.Machine.execResetDevice cx fullTests s
  | .fwBegin cx length version digest => Sys2Proof.Machine.execFwBegin cx length version digest s
  | .fwChunk cx offset data => Sys2Proof.Machine.execFwChunk cx offset data s
  | .fwFinish cx v => Sys2Proof.Machine.execFwFinish cx v s
  | .thermalHint cx inlet flow lifetime => Sys2Proof.Machine.execThermalHint cx inlet flow lifetime s
  | .hintExpiry => Sys2Proof.Machine.execHintExpiry s
  | .coolingBaseline cx mode value => Sys2Proof.Machine.execCoolingBaseline cx mode value s
  | .statusRead cx reply => Sys2Proof.Machine.execStatusRead cx reply s
  | .logRead cx log first count reply => Sys2Proof.Machine.execLogRead cx log first count reply s
  | .regRead cx addrs => Sys2Proof.Machine.execRegRead cx addrs s
  | .regWrite cx addr value mask => Sys2Proof.Machine.execRegWrite cx addr value mask s
  | .forceHotWrite cx bent on => Sys2Proof.Machine.execForceHotWrite cx bent on s
  | .peakClr cx bent => Sys2Proof.Machine.execPeakClr cx bent s
  | .scrubRateWrite cx bent rate => Sys2Proof.Machine.execScrubRateWrite cx bent rate s
  | .pegMaxWrite cx bent pegMax => Sys2Proof.Machine.execPegMaxWrite cx bent pegMax s
  | .bayTrigClr cx bay => Sys2Proof.Machine.execBayTrigClr cx bay s
  | .laserFaultClear cx port => Sys2Proof.Machine.execLaserFaultClear cx port s
  | .linkDegradedClear cx port => Sys2Proof.Machine.execLinkDegradedClear cx port s
  | .neighMismatchClear cx port => Sys2Proof.Machine.execNeighMismatchClear cx port s
  | .sensorDisagreeClear cx => Sys2Proof.Machine.execSensorDisagreeClear cx s
  | .inletDisagreeClear cx => Sys2Proof.Machine.execInletDisagreeClear cx s
  | .pllLossClear cx => Sys2Proof.Machine.execPllLossClear cx s
  | .marginRun cx bent => Sys2Proof.Machine.execMarginRun cx bent s
  | .marginRunDone bent sweep => Sys2Proof.Machine.execMarginRunDone bent sweep s
  | .slotCommitWrite w => Sys2Proof.Machine.execSlotCommitWrite w s
  | .statusWindowRead port mailbox session va len => Sys2Proof.Machine.execStatusWindowRead port mailbox session va len s
  | .statusWindowSnapshot => Sys2Proof.Machine.execStatusWindowSnapshot s
  | .stepAdmit bay => Sys2Proof.Machine.execStepAdmit bay s
  | .cowCopyDone bay target => Sys2Proof.Machine.execCowCopyDone bay target s
  | .admissionTimeout step => Sys2Proof.Machine.execAdmissionTimeout step s
  | .stepBoundary bay => Sys2Proof.Machine.execStepBoundary bay s
  | .armedTrigger bay window imm => Sys2Proof.Machine.execArmedTrigger bay window imm s
  | .gemm r => Sys2Proof.Machine.execGemm r s
  | .gemvStream r => Sys2Proof.Machine.execGemvStream r s
  | .conv r => Sys2Proof.Machine.execConv r s
  | .attend r => Sys2Proof.Machine.execAttend r s
  | .attendBwd r => Sys2Proof.Machine.execAttendBwd r s
  | .scatterKv r => Sys2Proof.Machine.execScatterKv r s
  | .norm r => Sys2Proof.Machine.execNorm r s
  | .eltwise r => Sys2Proof.Machine.execEltwise r s
  | .convert r => Sys2Proof.Machine.execConvert r s
  | .pegSeq r => Sys2Proof.Machine.execPegSeq r s
  | .pegSegmentEnd joist bank found => Sys2Proof.Machine.execPegSegmentEnd joist bank found s
  | .reduce r => Sys2Proof.Machine.execReduce r s
  | .braceImageArrival bay a => Sys2Proof.Machine.execBraceImageArrival bay a s
  | .cull r => Sys2Proof.Machine.execCull r s
  | .stats r => Sys2Proof.Machine.execStats r s
  | .exchange r => Sys2Proof.Machine.execExchange r s
  | .await r => Sys2Proof.Machine.execAwait r s
  | .awaitTimeout bay ix => Sys2Proof.Machine.execAwaitTimeout bay ix s
  | .deviceLevelTimeout bay ix => Sys2Proof.Machine.execDeviceLevelTimeout bay ix s
  | .stageEnd bay ix => Sys2Proof.Machine.execStageEnd bay ix s
  | .deadlineExpiry session seq => Sys2Proof.Machine.execDeadlineExpiry session seq s
  | .bayGate bay => Sys2Proof.Machine.execBayGate bay s
  | .bayUngated bay => Sys2Proof.Machine.execBayUngated bay s
  | .partitionFence r => Sys2Proof.Machine.execPartitionFence r s
  | .partitionDrain r => Sys2Proof.Machine.execPartitionDrain r s
  | .partitionStop r => Sys2Proof.Machine.execPartitionStop r s
  | .partitionQuiesce r => Sys2Proof.Machine.execPartitionQuiesce r s
  | .partitionClear r => Sys2Proof.Machine.execPartitionClear r s
  | .partitionReclaim r => Sys2Proof.Machine.execPartitionReclaim r s
  | .partitionSlices r => Sys2Proof.Machine.execPartitionSlices r s
  | .partitionRaise r => Sys2Proof.Machine.execPartitionRaise r s
  | .partitionReload r missed => Sys2Proof.Machine.execPartitionReload r missed s
  | .partitionDone r => Sys2Proof.Machine.execPartitionDone r s
  | .partitionResetOvertime r => Sys2Proof.Machine.execPartitionResetOvertime r s
  | .mgmtFrameRx f => Sys2Proof.Machine.execMgmtFrameRx f s
  | .mgmtStatus => Sys2Proof.Machine.execMgmtStatus s
  | .mgmtResetPartition => Sys2Proof.Machine.execMgmtResetPartition s
  | .mgmtResetDevice => Sys2Proof.Machine.execMgmtResetDevice s
  | .bringupKeeper fw => Sys2Proof.Machine.execBringupKeeper fw s
  | .bringupHub linkOk framerOk selfTest => Sys2Proof.Machine.execBringupHub linkOk framerOk selfTest s
  | .hubStageRetry => Sys2Proof.Machine.execHubStageRetry s
  | .bringupLinks failed failedLanes => Sys2Proof.Machine.execBringupLinks failed failedLanes s
  | .bringupEngines calFailed openPorts noModule => Sys2Proof.Machine.execBringupEngines calFailed openPorts noModule s
  | .bringupTopology absent => Sys2Proof.Machine.execBringupTopology absent s
  | .bringupRaising => Sys2Proof.Machine.execBringupRaising s
  | .bringupSlices => Sys2Proof.Machine.execBringupSlices s
  | .bringupTests selfTestFailed sliceFailed absentLams margin => Sys2Proof.Machine.execBringupTests selfTestFailed sliceFailed absentLams margin s
  | .bringupZero => Sys2Proof.Machine.execBringupZero s
  | .bringupBroadcast missed => Sys2Proof.Machine.execBringupBroadcast missed s
  | .ucodePacketRx joist packet imageId crcOk => Sys2Proof.Machine.execUcodePacketRx joist packet imageId crcOk s
  | .repairRoundEnd missed => Sys2Proof.Machine.execRepairRoundEnd missed s
  | .bringupReady => Sys2Proof.Machine.execBringupReady s
  | .joistReload joist missing => Sys2Proof.Machine.execJoistReload joist missing s
  | .rHello port addr => Sys2Proof.Machine.execRHello port addr s
  | .rBegin port addr challenge length version digest sig => Sys2Proof.Machine.execRBegin port addr challenge length version digest sig s
  | .rData port addr offset data => Sys2Proof.Machine.execRData port addr offset data s
  | .rEnd port addr v => Sys2Proof.Machine.execREnd port addr v s
  | .recoverySilence => Sys2Proof.Machine.execRecoverySilence s
  | .recoveryDatagramRefused port addr => Sys2Proof.Machine.execRecoveryDatagramRefused port addr s
  | .rocePacketRx p => Sys2Proof.Machine.execRocePacketRx p s
  | .rdmaWriteRx id found => Sys2Proof.Machine.execRdmaWriteRx id found s
  | .rdmaReadRx id found => Sys2Proof.Machine.execRdmaReadRx id found s
  | .packetDelivered id => Sys2Proof.Machine.execPacketDelivered id s
  | .landingArrival id => Sys2Proof.Machine.execLandingArrival id s
  | .tallyReturnTimer tenancy peer => Sys2Proof.Machine.execTallyReturnTimer tenancy peer s
  | .tallyReturnRx id => Sys2Proof.Machine.execTallyReturnRx id s
  | .ackRx qpn psn => Sys2Proof.Machine.execAckRx qpn psn s
  | .nakRx qpn psn kind => Sys2Proof.Machine.execNakRx qpn psn kind s
  | .ackTimeout qpn => Sys2Proof.Machine.execAckTimeout qpn s
  | .ackCoalesceTimer qpn => Sys2Proof.Machine.execAckCoalesceTimer qpn s
  | .cnpRx qpn => Sys2Proof.Machine.execCnpRx qpn s
  | .cnpRateStep qpn => Sys2Proof.Machine.execCnpRateStep qpn s
  | .pfcXoffRx port priority quanta => Sys2Proof.Machine.execPfcXoffRx port priority quanta s
  | .pfcPauseExpiry port priority => Sys2Proof.Machine.execPfcPauseExpiry port priority s
  | .arpRequestRx port ip mac srcIp => Sys2Proof.Machine.execArpRequestRx port ip mac srcIp s
  | .arpReplyRx port ip mac => Sys2Proof.Machine.execArpReplyRx port ip mac s
  | .icmpEchoRx port ip srcIp id => Sys2Proof.Machine.execIcmpEchoRx port ip srcIp id s
  | .frameDiscard port bytes body fcsOk => Sys2Proof.Machine.execFrameDiscard port bytes body fcsOk s
  | .lldpSend => Sys2Proof.Machine.execLldpSend s
  | .lldpRx port f => Sys2Proof.Machine.execLldpRx port f s
  | .portLinkUp port => Sys2Proof.Machine.execPortLinkUp port s
  | .portLinkDown port laneSignal => Sys2Proof.Machine.execPortLinkDown port laneSignal s
  | .portTrainRetry port laneSignal => Sys2Proof.Machine.execPortTrainRetry port laneSignal s
  | .fecRateCheck port corrected uncorrected => Sys2Proof.Machine.execFecRateCheck port corrected uncorrected s
  | .laserPoll modules faults => Sys2Proof.Machine.execLaserPoll modules faults s
  | .laserModuleFault engine cause => Sys2Proof.Machine.execLaserModuleFault engine cause s
  | .laserRetry engine works => Sys2Proof.Machine.execLaserRetry engine works s
  | .reflectionOpen port => Sys2Proof.Machine.execReflectionOpen port s
  | .reflectionProbe port mated => Sys2Proof.Machine.execReflectionProbe port mated s
  | .linkFlitRx link rx => Sys2Proof.Machine.execLinkFlitRx link rx s
  | .keeperLinkMessage authOk => Sys2Proof.Machine.execKeeperLinkMessage authOk s
  | .refreshDue joist bank => Sys2Proof.Machine.execRefreshDue joist bank s
  | .refreshIssue joist bank => Sys2Proof.Machine.execRefreshIssue joist bank s
  | .scrubVisit joist bank found => Sys2Proof.Machine.execScrubVisit joist bank found s
  | .sramCe1Writeback joist unit word => Sys2Proof.Machine.execSramCe1Writeback joist unit word s
  | .ce2CandidateExpiry bent => Sys2Proof.Machine.execCe2CandidateExpiry bent s
  | .remapMramRetry => Sys2Proof.Machine.execRemapMramRetry s
  | .remapCopy joist bank read => Sys2Proof.Machine.execRemapCopy joist bank read s
  | .sensorSample readings => Sys2Proof.Machine.execSensorSample readings s
  | .bentTripClear bent => Sys2Proof.Machine.execBentTripClear bent s
  | .hubTripClear => Sys2Proof.Machine.execHubTripClear s
  | .engineTripClear engine calOk => Sys2Proof.Machine.execEngineTripClear engine calOk s
  | .capSample bent readings => Sys2Proof.Machine.execCapSample bent readings s
  | .powerMeasure watts avg10ms => Sys2Proof.Machine.execPowerMeasure watts avg10ms s
  | .lcapLower avg10ms => Sys2Proof.Machine.execLcapLower avg10ms s
  | .rthUpdate avg10ms thermistor => Sys2Proof.Machine.execRthUpdate avg10ms thermistor s
  | .pcapUpdate => Sys2Proof.Machine.execPcapUpdate s
  | .heartbeatTick => Sys2Proof.Machine.execHeartbeatTick s
  | .framerStall => Sys2Proof.Machine.execFramerStall s
  | .randomHealthFail => Sys2Proof.Machine.execRandomHealthFail s
  | .mramQueueFlush => Sys2Proof.Machine.execMramQueueFlush s
  | .refclkLoss hubPll => Sys2Proof.Machine.execRefclkLoss hubPll s
  | .refclkValid => Sys2Proof.Machine.execRefclkValid s
  | .sillPllLoss bent => Sys2Proof.Machine.execSillPllLoss bent s
  | .sillPllRelock bent failures => Sys2Proof.Machine.execSillPllRelock bent failures s
  | .enginePllLoss engine => Sys2Proof.Machine.execEnginePllLoss engine s
  | .pwrokRise => Sys2Proof.Machine.execPwrokRise s
  | .pwrokFall => Sys2Proof.Machine.execPwrokFall s
  | .rstNAssert => Sys2Proof.Machine.execRstNAssert s
  | .vddKeepRemoved => Sys2Proof.Machine.execVddKeepRemoved s
  | .enginePllRelock engine calOk => Sys2Proof.Machine.execEnginePllRelock engine calOk s
  | .randomHealthRecovered => Sys2Proof.Machine.execRandomHealthRecovered s
  | .portLightLoss port => Sys2Proof.Machine.execPortLightLoss port s

end Sys2Proof.Machine
end

