-- ==== Sys2Proof/Machine/Tick.lean ====
section
/-! DEFINITION. What the clocks do when no command waits (DESIGN CHOICE, log entry 10). -/

namespace Sys2Proof.Machine

/-- One keeper cycle passes: time advances, and the joist clock of every bent that is not stopped counts at its level. -/
def tick (s : State) : State :=
  (List.range 4).foldl (fun s b =>
    if (s.bent b).stopped then s else s.setBent b (fun x => { x with aclk := x.aclk + aclkStep (levelOf s b) }))
    (s.onClk (fun c => { c with t := c.t + 136 }))

end Sys2Proof.Machine
end

