-- ==== Sys2Proof/Safety.lean ====
section
/-! DEFINITION. The words that statements are made of: which parts of a state a command changes, when a command of the
catalogue runs, what a well-kept state is, and sums formed in different orders. -/

namespace Sys2Proof.Machine

/-! ### Parts -/

/-- The parts of a state. -/
inductive Part where
  | clk | kp | cfg | qci | ten | bay | rack | jig | joi | mem | rfr | ecc | bnt | lnk | net | thm | pwr | out | pending
  deriving DecidableEq, Repr

/-- Two states agree in a part. -/
def same (s t : State) : Part → Prop
  | .clk => t.clk = s.clk
  | .kp => t.kp = s.kp
  | .cfg => t.cfg = s.cfg
  | .qci => t.qci = s.qci
  | .ten => t.ten = s.ten
  | .bay => t.bay = s.bay
  | .rack => t.rack = s.rack
  | .jig => t.jig = s.jig
  | .joi => t.joi = s.joi
  | .mem => t.mem = s.mem
  | .rfr => t.rfr = s.rfr
  | .ecc => t.ecc = s.ecc
  | .bnt => t.bnt = s.bnt
  | .lnk => t.lnk = s.lnk
  | .net => t.net = s.net
  | .thm => t.thm = s.thm
  | .pwr => t.pwr = s.pwr
  | .out => t.out = s.out
  | .pending => t.pending = s.pending

/-- Every part outside a list is as before: the frame of a command. -/
def OnlyChanges (ps : List Part) (s t : State) : Prop := ∀ p : Part, p ∉ ps → same s t p

/-! ### What a command does -/

/-- The session, SEQ, tag and port of a command of the catalogue; events have none. -/
def commandOf : Instr → Option Cmd
  | .hello cx .. | .attest cx .. | .sessionOpen cx .. | .sessionOpenEnroll cx .. | .sessionOpenUnenroll cx ..
  | .sessionClose cx .. | .tenancyCreate cx .. | .tenancyDestroy cx .. | .bayDefine cx .. | .bayRelease cx ..
  | .bayArm cx .. | .programLoad cx .. | .programUnload cx .. | .weightsBind cx .. | .stepRun cx .. | .seqOpen cx ..
  | .seqFork cx .. | .seqClose cx .. | .seqReserve cx .. | .jobBind cx .. | .configStage cx .. | .configApply cx ..
  | .configCommit cx .. | .configRead cx .. | .powerRetain cx .. | .resetPartition cx .. | .resetDevice cx ..
  | .fwBegin cx .. | .fwChunk cx .. | .fwFinish cx .. | .thermalHint cx .. | .coolingBaseline cx ..
  | .statusRead cx .. | .logRead cx .. | .regRead cx .. | .regWrite cx .. | .forceHotWrite cx .. | .peakClr cx ..
  | .scrubRateWrite cx .. | .pegMaxWrite cx .. | .bayTrigClr cx .. | .laserFaultClear cx ..
  | .linkDegradedClear cx .. | .neighMismatchClear cx .. | .sensorDisagreeClear cx .. | .inletDisagreeClear cx ..
  | .pllLossClear cx .. | .marginRun cx .. => some cx
  | _ => none

/-- A command or event answers a next state, of which P holds. -/
def Runs (c : Instr) (s : State) (P : State → Prop) : Prop := ∃ t, exec c s = .next t ∧ P t

/-- The framer takes a command of the catalogue: the device listens, and the caller may send it (R361, R363, R371). -/
def Accepts (cx : Cmd) (op : Nat) (s : State) : Prop := listening s = true ∧ gate s cx op = none

/-- A command answers a next state in which it completes with OK and a result, out of a state of which P holds: that state is
the next one but for the completion record. -/
def Completes (c : Instr) (cx : Cmd) (op : Nat) (result : List Nat) (s : State) (P : State → Prop) : Prop :=
  ∃ u, exec c s = .next (finish cx op { status := .ok, result := result } u) ∧ P u

/-- A command completes with a status and has no effect beyond being taken. -/
def TurnedAway (c : Instr) (cx : Cmd) (op : Nat) (st : Status) (s : State) : Prop :=
  ∃ result, exec c s = .next (finish cx op { status := st, result := result } (noteTaken cx op s))

/-- An event answers a next state in which a command that stood waiting completes with a status: that state is one of which P
holds, but for the completion record. -/
def EndsWith (c : Instr) (cx : Cmd) (op : Nat) (st : Status) (s : State) (P : State → Prop) : Prop :=
  ∃ v u, v.status = st ∧ exec c s = .next (finish cx op v u) ∧ P u

/-- The parts that completing a command may change when its session ends with it (R405); any other command's completion changes
only its session, its queue pair and the outputs. -/
def sessionParts : List Part := [.kp, .cfg, .qci, .bay, .rack, .jig, .joi, .mem, .net, .out]

/-- A tenancy's command names a bay that is its own and that nothing keeps from it. -/
def Owns (cx : Cmd) (bay t : Nat) (y : Bay) (s : State) : Prop :=
  tenantOf s cx = some t ∧ (∃ x, s.tenancy t = some x ∧ x.destroying = none) ∧ s.bayOf bay = some y ∧ y.tenancy = t
    ∧ bayFenced s bay = false ∧ (bayBents y).any (bentFenced s) = false

/-! ### Slots -/

/-- The framer looks at the slot of an open session whose COMMIT a write completes; c is its copy (R361). -/
def Looks (w : SlotWrite) (i : Nat) (x : Session) (c : SlotCopy) (s : State) : Prop :=
  ∃ port, committed (slotLanded w s) w.mailbox w.slot = some port ∧ listening (slotLanded w s) = true
    ∧ c = slotCopy w port (slotLanded w s) ∧ slotOwner s w.mailbox w.slot = some i ∧ sessionRec s i = some x

/-- A slot is the next of its session, in the slot that its SEQ selects. -/
def InTurn (x : Session) (c : SlotCopy) : Prop :=
  commitGood c = true ∧ c.seq = x.expect ∧ c.slot = x.slotFirst + c.seq % x.slotCount

/-! ### Well-kept states -/

/-- The memories, the rows behind remaps among them, list each byte once, in rising order, and no byte that reads as an unlisted one does. -/
def Memory.wf (m : Mem) : Bool := mwf 0 m.bench && mwf 0 m.slice && mwf 0 m.hidden

/-- The memories of a state keep their canonical form. -/
def MemoryKept (s : State) : Prop := Memory.wf s.mem = true

/-- No bank's postponed count exceeds 4 (R166). -/
def PostponedLow (s : State) : Prop := ∀ e, e ∈ s.rfr → e.2.postponed ≤ 4

/-! ### Stages -/

/-- A stage command names the next stage of its bay's running step, and no joist, instruction fetch or word of framer SRAM keeps it
from its work. -/
def StageReady (ref : StageRef) (r : Run) (s : State) : Prop :=
  runOf s ref = some r ∧ stepOf s r.x.id = some r.x ∧ fetchFault r (mine r r.found) = false ∧ hubUe (mine r r.found) 0x32 = false

/-- The step's record shows the stage with what it reports, and the next stage in turn. -/
def Entered (r : Run) (a : Active) (t : State) : Prop :=
  ∃ x, stepOf t r.x.id = some x ∧ x.nextIx = r.ix + 1 ∧ x.active = r.x.active ++ [a]

/-- Every byte of benches and slices outside some regions of some joists reads as before. -/
def KeepsOutside (js : List Nat) (l : List Region) (s t : State) : Prop :=
  ∀ inSlice k, (∀ j g, j ∈ js → g ∈ l → g.inSlice = inSlice → k < memKey inSlice j g.base ∨ memKey inSlice j g.base + g.len ≤ k) →
    mget 0 (t.mem.cells inSlice) k = mget 0 (s.mem.cells inSlice) k

/-- One group filled run by run of the reduction, sixteen columns at a time, without tiles, passes or half-block buffers. -/
def fillGroup (datum : Int) (mx : Bool) (acts : List (List Operand)) (cols : List (List (List Operand))) : Group :=
  (acts.mapIdx (fun k a => (k, a))).foldl (fun g e => addColumns (cols.map (fun c => runSteps mx e.2 (c.getD e.1 []))) g)
    (openGroup datum)

/-- Groups that a matrix stage with LEAVE_OPEN leaves: each holds the contributions of its sixteen columns, in order, at the
stage's datum. -/
def LeavesSums (r : Run) (d : MatDesc) (s t : State) : Prop :=
  ∀ jx j v c, r.js[jx]? = some j → v < d.vectors → c < d.chunks →
    t.group j (d.group + v * d.chunks + c) =
      fillGroup (stageDatum r.g 0 (d.group + v * d.chunks + c)) (d.isMx r.img)
        ((runsOf (d.isMx r.img) d.red).map (actRun s.mem r d jx v))
        ((d.columns c).map (fun n => (runsOf (d.isMx r.img) d.red).map (wgtRun s.mem r d j n)))

/-- A GEMM or CONV whose weights lie in the bench, or are staged from a slice in the units of R97: BF16 words, or whole MX blocks with
their scales. -/
def StagesPlainly (r : Run) (d : MatDesc) : Prop :=
  (tensorAt r.img d.wgt).inSlice = false ∨
    (0 < d.stageSlots ∧ trussPair (tensorAt r.img d.act).fmt (tensorAt r.img d.wgt).fmt = true ∧
      ((tensorAt r.img d.wgt).fmt.isMx = true → d.red % 32 = 0 ∧ (tensorAt r.img d.wgt).scales ≠ none))

/-- A tensor of FP32 words that lies in one piece in the bench. -/
def PlainBench (img : Image) (ti base len : Nat) : Prop :=
  (tensorAt img ti).fmt = .fp32 ∧ (tensorAt img ti).inSlice = false ∧ (tensorAt img ti).extents = [(base, len)]
    ∧ (tensorAt img ti).scales = none

/-! ### Packets -/

/-- A port is up, and no pause holds its frames back. -/
def Sends (s : State) (port : Nat) : Prop := portUp s port = true ∧ (s.port port).paused = []

/-- A packet with n bytes of data leaves a port at once: no packet waits, and the store has room for it (R340). -/
def SendsPacket (s : State) (port n : Nat) : Prop :=
  Sends s port ∧ s.net.waiting = [] ∧ storeFits s port (n + 24) = true

/-- A READ response of one packet has left (R329). -/
def Answered (key psn va : Nat) (data : List Byte) (t : State) : Prop :=
  ∃ p, Out.packet p ∈ t.out ∧ p.qpn = key ∧ p.response = true ∧ p.psn = psn ∧ p.va = va ∧ p.data = data

/-- A packet passes the first two checks of R329; a bootstrap queue pair's comes from its partner (R357). -/
def Arrived (p : Pkt) (q : Qp) (s : State) : Prop :=
  portPresent s p.port = true ∧ hubAwake s = true ∧ p.headersOk = true
    ∧ (p.qpn = 0x10 → bootAddress s p.port = some p.srcIp) ∧ s.qp (pktKey p) = some q ∧ q.err = .none

/-- Nothing keeps a packet from the window g that it names: no fence, the bounds and access, the seal, the scribe epochs, the
window's channel (R329, R478, R479). -/
def WindowTakes (q : Qp) (p : Pkt) (g : Target) (s : State) : Prop :=
  fencedPeer s q p.rkey = false ∧ fencedHost s q p.rkey = false ∧ resolve s q p.rkey = some g ∧ accessOk s g p = true
    ∧ sealPasses q p = true ∧ staleBents s q p (targetBents s g) = [] ∧ targetHalted s g = false
    ∧ ¬(s.pwr.retain = 8 ∧ (targetBents s g).any s.pwr.exitOrder.contains = true)

/-! ### Sums formed in different orders (R61) -/

/-- A sum as it is formed: contributions that one group takes one after another, or the merge of two partial sums. A
contribution names its accumulator, whether its operands are poisoned, and its exact value. -/
inductive SumTree where
  | leaf (contributions : List (Nat × Bool × Val))
  | merge (a b : SumTree)
  deriving DecidableEq, Repr

/-- The contributions of a sum. -/
def SumTree.contributions : SumTree → List (Nat × Bool × Val)
  | .leaf l => l
  | .merge a b => a.contributions ++ b.contributions

/-- The group that a sum ends in, every group of it opened at one datum. -/
def SumTree.total (datum : Int) : SumTree → Group
  | .leaf l => l.foldl (fun g c => g.contribute c.1 c.2.1 c.2.2) (openGroup datum)
  | .merge a b => (a.total datum).merge (b.total datum)

/-- The rounded value of a contribution in units of a datum; what is no number adds nothing. -/
def roundedUnits (datum : Int) : Val → Int
  | .num d => if d.m = 0 then 0 else roundTo .rne 0 d datum
  | _ => 0

/-- The integer nearest an exact value in units of 2^u, ties to even (R47, R70). -/
def Nearest (d : Dy) (u n : Int) : Prop :=
  if u ≤ d.e then n = d.m * 2 ^ (d.e - u).toNat
  else (2 * (n * 2 ^ (u - d.e).toNat - d.m)).natAbs ≤ 2 ^ (u - d.e).toNat
    ∧ ((2 * (n * 2 ^ (u - d.e).toNat - d.m)).natAbs = 2 ^ (u - d.e).toNat → n % 2 = 0)

/-- A value held within the bounds of an accumulator (R41). -/
def held (x : Int) : Int := max (-(2 ^ 95 - 1)) (min (2 ^ 95 - 1) x)

end Sys2Proof.Machine
end

