-- ==== Sys2Proof/Certificates/Slice0/Obligations.lean ====
section
/-! DEFINITION. The statements about the block, for the provers: what each command of the catalogue and each event does where it
has its effect, what it leaves alone, and what every step keeps. -/

open Sys2Proof Sys2Proof.Machine

/-- HELLO in the pre-session slot with a ring size that is a power of two from 64 to 4,096 registers the ring and completes with
DEV_ID, the firmware version, the flags and the port; in a session it completes with the same result and leaves every ring as it
was. ATTEST whose reply fits its buffer sends the report of R416 for the caller's tenancy and session with the nonce given, with
the certificate chain where asked, and completes with OK. HELLO changes nothing outside the command interface, ATTEST nothing
but the command interface, queue pairs and ports, and the outputs. -/
def Obligations.SessionCommandsComplete : Prop :=
  (∀ cx va key n s, Accepts cx 0x0001 s → cx.session = preSession → ringOk n = true →
    Completes (.hello cx va key n) cx 0x0001 [devId s, s.kp.running.version, helloFlags s, cx.port] s (fun u =>
      (u.session preSession).map (fun x => x.ring) = some { va := va, key := key, entries := n } ∧ OnlyChanges [.qci] s u)) ∧
  (∀ cx va key n s, Accepts cx 0x0001 s → cx.session ≠ preSession →
    Completes (.hello cx va key n) cx 0x0001 [devId s, s.kp.running.version, helloFlags s, cx.port] s (fun u =>
      (∀ i, (u.session i).map (fun x => x.ring) = (s.session i).map (fun x => x.ring)) ∧ OnlyChanges [.qci] s u)) ∧
  (∀ cx nonce chain reply s s1 x p, s1 = noteTaken cx 0x0002 s → Accepts cx 0x0002 s → sessionRec s1 cx.session = some x →
    recordPort s1 cx.session x cx.port = some p → 388 + 4096 + 24 ≤ reply.len →
    Completes (.attest cx nonce chain reply) cx 0x0002 [] s (fun u =>
      Out.reply cx.session reply (.report (reportFor s1 ((tenantOf s1 cx).getD 0xFF) cx.session nonce)
        (if chain then chainBytes s1 else [])) false ∈ u.out ∧
      OnlyChanges [.qci, .net, .out] s u))

/-- In open mode an accepted SESSION_OPEN for the device mailbox, with a free run of slots, a free id and free queue pairs, opens an
unsealed session with the body's slots, ring and ports. Outside open mode one for the device mailbox or for a tenancy that is
not being destroyed, whose HOST_SIG verifies under the operator key or the tenancy's owner key over what R401 names, with random
numbers at hand and room for the reply, opens a sealed session with the body's slots, ring and ports. ENROLL in the pre-session
slot of open mode, with a HOST_SIG that verifies under the key to enrol and the test port fused off, makes the key the operator
key, closes the unsealed sessions and, where slots, an id and queue pairs are then free, opens a sealed operator session; it
completes with OK. The DEV_PSN of each result is a free value (log entry 2). Besides the command interface only the draws, the
queue pairs, ports and outputs change, with a sealed session the count of keeper-link messages, and with ENROLL what the end of
the unsealed sessions changes. The id, the slots and DEV_QPN handed out are the model's choice (log entry 16). -/
def Obligations.SessionsOpen : Prop :=
  (∀ cx body sig s first i, Accepts cx 0x0003 s → openBodyOk s body = true → openMode s = true → body.mailbox = 0xFF →
    qpsFree s (bitsOf 12 body.portMask.toNat).length = true →
    freeSlots (noteTaken cx 0x0003 s) 0xFF body.slotCount = some first → freeSessionId (noteTaken cx 0x0003 s) = some i →
    ∃ psn, Completes (.sessionOpen cx body sig) cx 0x0003 [i, first, s.net.nextQpn, psn, 0x30000000] s (fun u =>
      (∃ x, u.session i = some x ∧ x.mailbox = 0xFF ∧ x.slotFirst = first ∧ x.slotCount = body.slotCount ∧ x.isSealed = false
        ∧ x.ring = { va := body.ringVa, key := body.ringKey, entries := body.ringEntries } ∧ x.ports = body.portMask
        ∧ x.expect = 1) ∧
      OnlyChanges [.clk, .qci, .net, .out] s u)) ∧
  (∀ cx body sig key s first i wk, Accepts cx 0x0003 s → openBodyOk s body = true → openMode s = false → 192 ≤ body.reply.len →
    openKey s body.mailbox = some key → signedBy key (openDigest s body 0 none) sig = true → s.kp.randomOk = true →
    qpsFree s (bitsOf 12 body.portMask.toNat).length = true →
    ((body.mailbox = 0xFF ∧ wk = 0x30000000) ∨
      (body.mailbox ≠ 0xFF ∧ ∃ t, s.tenancy body.mailbox = some t ∧ t.destroying = none ∧ t.windowKey = wk)) →
    freeSlots (noteTaken cx 0x0003 s) body.mailbox body.slotCount = some first → freeSessionId (noteTaken cx 0x0003 s) = some i →
    ∃ psn, Completes (.sessionOpen cx body sig) cx 0x0003 [i, first, s.net.nextQpn, psn, wk] s (fun u =>
      (∃ x, u.session i = some x ∧ x.mailbox = body.mailbox ∧ x.slotFirst = first ∧ x.slotCount = body.slotCount
        ∧ x.isSealed = true ∧ x.ring = { va := body.ringVa, key := body.ringKey, entries := body.ringEntries }
        ∧ x.ports = body.portMask ∧ x.expect = 1) ∧
      u.kp = { s.kp with linkCount := s.kp.linkCount + 1 } ∧ OnlyChanges [.clk, .kp, .qci, .net, .out] s u)) ∧
  (∀ cx body key sig s s1 s2 first i, Accepts cx 0x0003 s → cx.session = preSession → openBodyOk s body = true →
    192 ≤ body.reply.len → body.keyForm = 4 → openMode s = true → s.kp.fuses.testPortOff = true → body.mailbox = 0xFF →
    signedBy key (openDigest s body 1 (some key)) sig = true → mramOpen s = true →
    s.kp.randomOk = true → s1 = (noteTaken cx 0x0003 s).onKp (fun k => { k with operatorKey := some key }) →
    s2 = (sessionsWhere s1 (fun x => !x.isSealed)).foldl (fun s i => endSession i 0 s) s1 →
    freeSlots s2 0xFF body.slotCount = some first → freeSessionId s2 = some i →
    qpsFree s2 (bitsOf 12 body.portMask.toNat).length = true →
    ∃ psn, Completes (.sessionOpenEnroll cx body key sig) cx 0x0003 [i, first, s2.net.nextQpn, psn, 0x30000000] s (fun u =>
      u.kp.operatorKey = some key ∧ u.kp.fuses = s.kp.fuses ∧
      (∃ x, u.session i = some x ∧ x.mailbox = 0xFF ∧ x.isSealed = true ∧ x.slotFirst = first ∧ x.slotCount = body.slotCount
        ∧ x.ports = body.portMask) ∧
      OnlyChanges [.clk, .kp, .cfg, .qci, .bay, .rack, .jig, .joi, .mem, .net, .out] s u))

/-- SESSION_CLOSE of the sender's own session, which defined no reserved bay, ends it; the operator's close of another such session
ends that one and completes with OK. SESSION_OPEN with UNENROLL for the device mailbox on a sealed operator session, with no
tenancy and a HOST_SIG that verifies under the operator key, while MRAM may be written, erases the operator key, and the
sender's session is gone. Besides the command interface only what the end of a session may change is other than before; the
fuses and, but for UNENROLL, the operator key stay. Corners that the rules leave open follow the model's choice (log entry 68). -/
def Obligations.SessionsEnd : Prop :=
  (∀ cx x s, Accepts cx 0x0004 s → cx.session ≠ preSession → s.session cx.session = some x →
    holdsReserved s cx.session = false →
    Runs (.sessionClose cx cx.session) s (fun t => t.session cx.session = none ∧ t.kp.operatorKey = s.kp.operatorKey ∧
      t.kp.fuses = s.kp.fuses ∧ OnlyChanges sessionParts s t)) ∧
  (∀ cx i x s, Accepts cx 0x0004 s → isOperator s cx = true → i ≠ preSession → i ≠ cx.session → s.session i = some x →
    holdsReserved s i = false →
    Completes (.sessionClose cx i) cx 0x0004 [] s (fun u => u.session i = none ∧ u.kp.operatorKey = s.kp.operatorKey ∧
      u.kp.fuses = s.kp.fuses ∧ OnlyChanges sessionParts s u)) ∧
  (∀ cx body sig key x s, Accepts cx 0x0003 s → s.session cx.session = some x → x.isSealed = true → x.mailbox = 0xFF →
    body.mailbox = 0xFF → s.kp.operatorKey = some key → signedBy key (openDigest s body 2 none) sig = true → present s.ten = [] → mramOpen s = true →
    Runs (.sessionOpenUnenroll cx body sig) s (fun t => t.kp.operatorKey = none ∧ t.session cx.session = none
      ∧ t.kp.fuses = s.kp.fuses ∧ OnlyChanges sessionParts s t))

/-- With an operator key enrolled, fields in range, the number free or, for 0xFF, the lowest free one, random numbers at hand and a
nonce that no retired key holds, TENANCY_CREATE makes the tenancy with its owner key and answers its number and the key of its
mailbox window. TENANCY_DESTROY of a tenancy marks it as being destroyed and completes later. Zeroisation of a tenancy whose
steps have ended and whose bents are not under reset removes the tenancy and its job binding and completes the TENANCY_DESTROY
with OK; the fuses stay. Corners that the rules leave open follow the model's choice (log entry 68). -/
def Obligations.TenanciesComeAndGo : Prop :=
  (∀ cx n t hang mask bays key k s, Accepts cx 0x0010 s → openMode s = false →
    ((n = t ∧ t ≤ 15) ∨ (n = 0xFF ∧ lowestFree (fun t => (s.tenancy t).isNone) 0 16 = some t)) → hang ≤ 1 → 1 ≤ mask →
    mask ≤ 15 → 1 ≤ bays → bays ≤ 64 → s.tenancy t = none → s.kp.randomOk = true →
    freshNonce (controlNonce (Config.random (drawNo s)) - 1) 0xFFFF s.bay.deadKeys (fun n => rkey 3 t 0 (n + 1)) = some k →
    Completes (.tenancyCreate cx n hang mask bays 0x04 key) cx 0x0010 [t, rkey 3 t 0 (k + 1)] s (fun u =>
      (∃ x, u.tenancy t = some x ∧ x.hangMode = hang ∧ x.bentMask = mask ∧ x.maxBays = bays ∧ x.ownerKey = key
        ∧ x.windowKey = rkey 3 t 0 (k + 1) ∧ x.destroying = none) ∧
      (∀ o, o ≠ t → u.tenancy o = s.tenancy o) ∧ OnlyChanges [.clk, .qci, .ten] s u)) ∧
  (∀ cx t x s, Accepts cx 0x0011 s → s.tenancy t = some x → x.destroying = none →
    Runs (.tenancyDestroy cx t) s (fun u => u.tenancy t = some { x with destroying := some cx } ∧
      (∀ o, o ≠ t → u.tenancy o = s.tenancy o) ∧ OnlyChanges [.qci, .ten] s u)) ∧
  (∀ t x cx s, s.tenancy t = some x → x.destroying = some cx → zeroiseReady s t x = true →
    Completes (.tenancyZeroise t) cx 0x0011 [] s (fun u => u.tenancy t = none ∧ u.job t = none ∧ u.kp.fuses = s.kp.fuses ∧
      OnlyChanges (.clk :: .ecc :: .ten :: sessionParts) s u))

/-- A BAY_DEFINE that every check of R237, R238, R417 and the tenancy's limits admits defines the bay, gated and holding no program,
on the routes and peg limits in force, and writes TENANT_DATA for its bents. BAY_RELEASE of a bay that runs no step frees the
bay number. BAY_ARM with 1 and a defined landing window turns triggering on with that window; with 0 it turns triggering off,
and no armed step of the bay is left waiting. After a BAY_DEFINE, a BAY_ARM with 1, and one with 0 that finds no armed step the
other bays stay as they were. Corners that the rules leave open follow the model's choice (log entry 23). -/
def Obligations.BayCommandsComplete : Prop :=
  (∀ cx b t x y s s1, s1 = noteTaken cx 0x0020 s → Accepts cx 0x0020 s → tenantOf s1 cx = some t → s1.tenancy t = some x →
    x.destroying = none → y = bayOfBody b t cx.session s1.cfg.epoch → bayRangesOk b = true → bayPlaceOk s1 y = true →
    b.bentMask &&& x.bentMask = b.bentMask → (bitsOf 4 b.bentMask).any (fun k => (s1.bent k).tripped) = false →
    bayFenced s1 b.bay = false → (bitsOf 4 b.bentMask).any (bentFenced s1) = false → s1.bayOf b.bay = none →
    (bayJoists s1 y).any (usedJoists s1).contains = false → touchedByOther s1 t (bayJoists s1 y) = false →
    (bitsOf 4 b.bentMask).any (fun k => (s1.bent k).margining.isSome) = false →
    (present s1.bay.bays).foldl (fun n e => n + e.2.seqSlots) b.seqSlots ≤ 4096 →
    (baysOfTenancy s1 t).length < x.maxBays → mramOpen s1 = true →
    Completes (.bayDefine cx b) cx 0x0020 [] s (fun u =>
      u.bayOf b.bay = some { y with routes := routesNow s1, pegMax := (bitsOf 4 b.bentMask).map (fun k => (k, (s1.bent k).pegMax)) } ∧
      (∀ o, o ≠ b.bay → u.bayOf o = s1.bayOf o) ∧
      (∀ k, k ∈ bitsOf 4 b.bentMask → mget false u.kp.tenantData k = true) ∧ OnlyChanges [.kp, .qci, .bay, .joi] s u)) ∧
  (∀ cx bay t y s, Accepts cx 0x0021 s → Owns cx bay t y (noteTaken cx 0x0021 s) →
    runningStep (noteTaken cx 0x0021 s) bay = none →
    Completes (.bayRelease cx bay) cx 0x0021 [] s (fun u => u.bayOf bay = none ∧
      OnlyChanges [.clk, .kp, .cfg, .qci, .bay, .rack, .jig, .joi, .mem, .ecc, .net, .out] s u)) ∧
  (∀ cx bay w t y l s, Accepts cx 0x0022 s → Owns cx bay t y (noteTaken cx 0x0022 s) → w ≤ 15 → mget none y.landing w = some l →
    Completes (.bayArm cx bay 1 w) cx 0x0022 [] s (fun u =>
      u.bayOf bay = some { y with trigOn := true, trigWindow := w } ∧ (∀ o, o ≠ bay → u.bayOf o = s.bayOf o) ∧
      OnlyChanges [.qci, .bay] s u)) ∧
  (∀ cx bay w t y s, Accepts cx 0x0022 s → Owns cx bay t y (noteTaken cx 0x0022 s) → w ≤ 15 →
    Completes (.bayArm cx bay 0 w) cx 0x0022 [] s (fun u =>
      (u.bayOf bay).map (fun z => z.trigOn) = some false ∧ armedSteps u bay = [] ∧
      OnlyChanges sessionParts s u)) ∧
  (∀ cx bay w t y s, Accepts cx 0x0022 s → Owns cx bay t y (noteTaken cx 0x0022 s) → w ≤ 15 →
    armedSteps (noteTaken cx 0x0022 s) bay = [] →
    Completes (.bayArm cx bay 0 w) cx 0x0022 [] s (fun u =>
      u.bayOf bay = some { y with trigOn := false } ∧ (∀ o, o ≠ bay → u.bayOf o = s.bayOf o) ∧ OnlyChanges [.qci, .bay] s u))

/-- PROGRAM_LOAD reads the image from the slice window that it names. An uncorrectable unit in it halts the window's channel and
fails the command with E_DMA_UE. With a digest that agrees, room for it and no fault found, in a bay without a program, it
places the decoded image with its unbounded stages and landing windows and completes with their numbers; a fault found is
answered with E_BAD_DESC and its place, and nothing is loaded; the errors that the read meets are counted and logged before all
this. PROGRAM_UNLOAD with no step of the bay waiting or running removes the program and its landing windows. WEIGHTS_BIND with
every field in range and a nonce that no retired key holds binds the window with the bay, the access bits, the address and the
extent, its channel not halted, and answers its key. Corners that the rules leave open follow the model's choice (log entry 39). -/
def Obligations.ProgramCommandsComplete : Prop :=
  (∀ cx bay w off rd dg named reply t y win m b img s s1 s2, s1 = noteTaken cx 0x0030 s → Accepts cx 0x0030 s → Owns cx bay t y s1 →
    s1.sliceWin t w = some win → w ≤ 63 → off % 64 = 0 → 64 ≤ rd.count → rd.count ≤ 1048576 →
    off + rd.count ≤ ((s1.bayOf win.bay).map (fun z => (bayJoists s1 z).length)).getD 0 * win.extent →
    bayFenced s1 win.bay = false → y.program = none → win.halted = false →
    m = windowMeets s1 win off rd.count rd.found → m.any (fun f => f.kind == .ue) = false → s2 = meetShared m s1 →
    imageBad s2 win off rd.count = false → b = windowBytes s2 win off rd.count → img = decodeImage b named dg → bytesDigest b = dg →
    loadedBytes s2 + rd.count ≤ 2097152 →
    imageFault s2 b named img y = none → (img.landing ≠ [] → s.kp.randomOk = true) →
    img.landing.any (fun l => (landingNonce s2 0 t bay l.window).isNone) = false → 88 ≤ reply.len →
    Completes (.programLoad cx bay w off rd dg named reply) cx 0x0030
      [img.stages.length, (unboundedStages img y).length, (unboundedStages img y).headD 0xFFFF, 0, 0, 0] s (fun u =>
      u.bayOf bay = some { y with program := some img, unbounded := unboundedStages img y,
                                  landing := landingWindows s2 cx.session bay t img } ∧
      (∀ o, o ≠ bay → u.bayOf o = s.bayOf o) ∧ OnlyChanges [.clk, .qci, .bay, .net, .out] s2 u)) ∧
  (∀ cx bay w off rd dg named reply t y win m b img f s s1 s2, s1 = noteTaken cx 0x0030 s → Accepts cx 0x0030 s → Owns cx bay t y s1 →
    s1.sliceWin t w = some win → w ≤ 63 → off % 64 = 0 → 64 ≤ rd.count → rd.count ≤ 1048576 →
    off + rd.count ≤ ((s1.bayOf win.bay).map (fun z => (bayJoists s1 z).length)).getD 0 * win.extent →
    bayFenced s1 win.bay = false → y.program = none → win.halted = false →
    m = windowMeets s1 win off rd.count rd.found → m.any (fun f => f.kind == .ue) = false → s2 = meetShared m s1 →
    imageBad s2 win off rd.count = false → b = windowBytes s2 win off rd.count → img = decodeImage b named dg → bytesDigest b = dg →
    loadedBytes s2 + rd.count ≤ 2097152 →
    imageFault s2 b named img y = some f →
    exec (.programLoad cx bay w off rd dg named reply) s =
      .next (finish cx 0x0030 { status := .badDesc, result := [0, 0, 0xFFFF, f.1, f.2.1, f.2.2] } s2)) ∧
  (∀ cx bay w off rd dg named reply t y win m s s1 s2, s1 = noteTaken cx 0x0030 s → Accepts cx 0x0030 s → Owns cx bay t y s1 →
    s1.sliceWin t w = some win → w ≤ 63 → off % 64 = 0 → 64 ≤ rd.count → rd.count ≤ 1048576 →
    off + rd.count ≤ ((s1.bayOf win.bay).map (fun z => (bayJoists s1 z).length)).getD 0 * win.extent →
    bayFenced s1 win.bay = false → y.program = none → win.halted = false →
    m = windowMeets s1 win off rd.count rd.found → s2 = meetShared m s1 →
    (imageBad s2 win off rd.count = true ∨ m.any (fun f => f.kind == .ue) = true) →
    exec (.programLoad cx bay w off rd dg named reply) s =
      .next (finish cx 0x0030 { status := .dmaUe } (s2.putSlice t w (some { win with halted := true })))) ∧
  (∀ cx bay t y s, Accepts cx 0x0031 s → Owns cx bay t y (noteTaken cx 0x0031 s) → stepsOf (noteTaken cx 0x0031 s) bay = [] →
    Completes (.programUnload cx bay) cx 0x0031 [] s (fun u =>
      u.bayOf bay = some { y with program := none, unbounded := [], landing := [] } ∧ OnlyChanges [.qci, .bay] s u)) ∧
  (∀ cx w bay acc addr ext t y nonce s, Accepts cx 0x0032 s → Owns cx bay t y (noteTaken cx 0x0032 s) → w ≤ 63 → acc ≤ 3 →
    addr % 64 = 0 → ext % 64 = 0 → 64 ≤ ext → ext ≤ 6291456 → addr + ext ≤ sliceBytes s → s.kp.randomOk = true →
    freshNonce (Config.random (drawNo s)).toNat (2 ^ 16) s.bay.deadKeys (rkey 2 t w) = some nonce →
    Completes (.weightsBind cx w bay acc addr ext) cx 0x0032 [rkey 2 t w nonce] s (fun u =>
      u.sliceWin t w = some { bay := bay, canWrite := acc.testBit 0, canRead := acc.testBit 1, addr := addr, extent := ext,
                              nonce := nonce, session := cx.session, halted := false } ∧
      (∀ b, u.bayOf b = s.bayOf b) ∧ OnlyChanges [.clk, .qci, .bay] s u))

/-- A STEP_RUN with its fields in range, by the session that may submit to the bay, for a bay that holds a program, with a length
table in which every sequence is open and of the bay, joins the bay's queue with the next jig sequence count; the count
advances, and the step's completion comes later. An unarmed step has tag 0; an armed one needs triggering on, a tag that no
armed step of the bay holds, and a free armed slot. Other steps stay as they were. Corners that the rules leave open follow the
model's choice (log entry 21). -/
def Obligations.StepSubmission : Prop :=
  ∀ cx bay prio arm tag timeout table t y img s s1, s1 = noteTaken cx 0x0040 s → Accepts cx 0x0040 s → Owns cx bay t y s1 →
    prio ≤ 7 → tag ≤ 65535 → timeout ≤ 10000000 → (y.reserved = true → y.session = cx.session) → y.program = some img →
    tableFault s1 bay table = false → rowsFault y table = false → (arm = false → tag = 0) →
    (arm = true → y.trigOn = true ∧ tagArmed s1 bay tag = false ∧ slotsFull s1 bay = false) → s1.jig.steps.length < 1024 →
    Runs (.stepRun cx bay prio arm tag timeout table) s (fun u =>
      (∃ x, u.jig.steps = s.jig.steps ++ [x] ∧ x.bay = bay ∧ x.cx = cx ∧ x.prio = prio ∧ x.arm = (if arm then some tag else none) ∧
        x.table = table ∧ x.jigSeq = y.jigNext ∧ x.isQueued = true) ∧
      u.bayOf bay = some { y with jigNext := (y.jigNext + 1) % 2 ^ 32 } ∧ OnlyChanges [.qci, .bay, .jig] s u)

/-- SEQ_OPEN with a cache group, a free id and a free record slot opens an empty sequence. SEQ_FORK at a position within the
parent's length opens a child of that length with the parent's first entries. SEQ_CLOSE of a sequence that no step names removes
it; one that only running steps name is closed and keeps its id. SEQ_RESERVE above 64 fails with E_BAD_DESC; at the size already
held it changes nothing but the command interface; below it the reserve keeps its first page sets in rising order; above it,
with enough free page sets, it holds the number asked for. Which id and record slot are taken is the model's choice (log entry
16). -/
def Obligations.SequenceCommandsComplete : Prop :=
  (∀ cx bay t y q slot s s1, s1 = noteTaken cx 0x0050 s → Accepts cx 0x0050 s → Owns cx bay t y s1 → hasCache y = true →
    freeSeqId s1 = some q → freeSlot s1 bay y = some slot →
    Completes (.seqOpen cx bay) cx 0x0050 [q, slot] s (fun u =>
      (∃ r, u.seqRec q = some r ∧ r.bay = bay ∧ r.slot = slot ∧ r.length = 0 ∧ r.entries = [] ∧ r.reserve = [] ∧ r.isOpen = true) ∧
      (∀ o, o ≠ q → u.seqRec o = s.seqRec o) ∧ OnlyChanges [.qci, .bay, .rack, .mem, .joi] s u)) ∧
  (∀ cx parent position t r y q slot s s1, s1 = noteTaken cx 0x0051 s → Accepts cx 0x0051 s → s1.seqRec parent = some r →
    r.isOpen = true → Owns cx r.bay t y s1 → position ≤ r.length → freeSeqId s1 = some q → freeSlot s1 r.bay y = some slot →
    Completes (.seqFork cx parent position) cx 0x0051 [q, slot] s (fun u =>
      (∃ c, u.seqRec q = some c ∧ c.bay = r.bay ∧ c.length = position ∧ c.entries = r.entries.take (pagesFor y position)
        ∧ c.reserve = [] ∧ c.isOpen = true) ∧ (∀ o, o ≠ q → u.seqRec o = s.seqRec o) ∧
      OnlyChanges [.qci, .bay, .rack, .mem, .joi] s u)) ∧
  (∀ cx q t r y s s1, s1 = noteTaken cx 0x0052 s → Accepts cx 0x0052 s → s1.seqRec q = some r → r.isOpen = true →
    Owns cx r.bay t y s1 → namedPending s1 q = false → namedRunning s1 q = false →
    Completes (.seqClose cx q) cx 0x0052 [] s (fun u => u.seqRec q = none ∧ OnlyChanges [.qci, .bay, .rack, .mem, .joi] s u)) ∧
  (∀ cx q t r y s s1, s1 = noteTaken cx 0x0052 s → Accepts cx 0x0052 s → s1.seqRec q = some r → r.isOpen = true →
    Owns cx r.bay t y s1 → namedPending s1 q = false → namedRunning s1 q = true →
    Completes (.seqClose cx q) cx 0x0052 [] s (fun u =>
      (∃ c, u.seqRec q = some c ∧ c.isOpen = false ∧ c.entries = [] ∧ c.reserve = [] ∧ c.slot = r.slot) ∧
      OnlyChanges [.qci, .bay, .rack, .mem, .joi] s u)) ∧
  (∀ cx q n t r y s s1, s1 = noteTaken cx 0x0053 s → Accepts cx 0x0053 s → s1.seqRec q = some r → r.isOpen = true →
    Owns cx r.bay t y s1 → 64 < n → TurnedAway (.seqReserve cx q n) cx 0x0053 .badDesc s) ∧
  (∀ cx q t r y s s1, s1 = noteTaken cx 0x0053 s → Accepts cx 0x0053 s → s1.seqRec q = some r → r.isOpen = true →
    Owns cx r.bay t y s1 → r.reserve.length ≤ 64 →
    Completes (.seqReserve cx q r.reserve.length) cx 0x0053 [] s (fun u => OnlyChanges [.qci] s u)) ∧
  (∀ cx q n t r y s s1, s1 = noteTaken cx 0x0053 s → Accepts cx 0x0053 s → s1.seqRec q = some r → r.isOpen = true →
    Owns cx r.bay t y s1 → n ≤ 64 → n < r.reserve.length →
    Completes (.seqReserve cx q n) cx 0x0053 [] s (fun u =>
      (∃ c, u.seqRec q = some c ∧ c.reserve = (sortNat r.reserve).take n ∧ c.entries = r.entries ∧ c.length = r.length) ∧
      OnlyChanges [.qci, .bay, .rack, .mem, .joi] s u)) ∧
  (∀ cx q n ps t r y s s1, s1 = noteTaken cx 0x0053 s → Accepts cx 0x0053 s → s1.seqRec q = some r → r.isOpen = true →
    Owns cx r.bay t y s1 → n ≤ 64 → r.reserve.length < n →
    pickPages (fun _ => true) (n - r.reserve.length) (freePages s1 r.bay y) = some ps →
    Completes (.seqReserve cx q n) cx 0x0053 [] s (fun u =>
      (∃ c, u.seqRec q = some c ∧ c.reserve = sortNat r.reserve ++ ps ∧ c.entries = r.entries ∧ c.length = r.length) ∧
      OnlyChanges [.qci, .bay, .rack, .mem, .joi] s u))

/-- JOB_BIND reads its peer table from the slice window. Admitted by every check, it waits while some listed port has heard no
neighbour; where all have, a mismatch completes it with E_TOPOLOGY, and a match everywhere, with random numbers at hand, begins
the handshake under a new JOB_EPOCH. When the wait ends the same judgement follows, an unheard port counting as a mismatch. In
the handshake PH1 with the right serial is noted and answered with PH2, which leaves at once where the port is up and unpaused
and the retransmission store empty; the last PH2 that passes its checks puts the binding into force and completes JOB_BIND with
its epoch and first instance, an earlier one is noted. A PH1 with another serial, a PH2 that fails a check and the end of the
wait for PH2 complete it with E_TOPOLOGY, and the binding is gone. Corners that the rules leave open follow the model's choice
(log entry 53). -/
def Obligations.JobBindingRuns : Prop :=
  (∀ cx fm w off size rd t x win m l base s s1 s2, s1 = noteTaken cx 0x0060 s → Accepts cx 0x0060 s → tenantOf s1 cx = some t →
    s1.tenancy t = some x → x.destroying = none → s1.sliceWin t w = some win → fm ≤ 1 → off % 64 = 0 → 1 ≤ rd.count →
    rd.count ≤ 1024 → 2 ≤ size → size ≤ 65535 → (fm = 1 → 16 < size) → (fm = 0 → size ≤ 16) →
    off + 64 * rd.count ≤ ((s1.bayOf win.bay).map (fun z => (bayJoists s1 z).length)).getD 0 * win.extent →
    bayFenced s1 win.bay = false → win.halted = false →
    m = windowMeets s1 win off (64 * rd.count) rd.found → m.any (fun f => f.kind == .ue) = false → s2 = meetShared m s1 →
    imageBad s2 win off (64 * rd.count) = false → l = (peerTable s2 win off rd.count).map (fun e => e.1) →
    (peerTable s2 win off rd.count).all (fun e => e.2 && peerOk s2 e.1) = true → expectAgree l = true →
    mget none s.net.binding t = none → (baysOfTenancy s2 t).any (fun k => (runningStep s2 k).isSome) = false →
    grantsHeld s2 t + grantSum l ≤ tallyPool s2 → qpsFree s2 rd.count = true → creditRun s2 t rd.count = some base →
    l.any (fun e => decide (neighResult s2 e ≠ 1 ∧ neighResult s2 e ≠ 2)) = true →
    Runs (.jobBind cx fm w off size rd) s (fun u =>
      mget none u.net.binding t = some (newJob cx fm size base l) ∧ OnlyChanges [.net, .out] s2 u)) ∧
  (∀ cx fm w off size rd t x win m l base s s1 s2, s1 = noteTaken cx 0x0060 s → Accepts cx 0x0060 s → tenantOf s1 cx = some t →
    s1.tenancy t = some x → x.destroying = none → s1.sliceWin t w = some win → fm ≤ 1 → off % 64 = 0 → 1 ≤ rd.count →
    rd.count ≤ 1024 → 2 ≤ size → size ≤ 65535 → (fm = 1 → 16 < size) → (fm = 0 → size ≤ 16) →
    off + 64 * rd.count ≤ ((s1.bayOf win.bay).map (fun z => (bayJoists s1 z).length)).getD 0 * win.extent →
    bayFenced s1 win.bay = false → win.halted = false →
    m = windowMeets s1 win off (64 * rd.count) rd.found → m.any (fun f => f.kind == .ue) = false → s2 = meetShared m s1 →
    imageBad s2 win off (64 * rd.count) = false → l = (peerTable s2 win off rd.count).map (fun e => e.1) →
    (peerTable s2 win off rd.count).all (fun e => e.2 && peerOk s2 e.1) = true → expectAgree l = true →
    mget none s.net.binding t = none → (baysOfTenancy s2 t).any (fun k => (runningStep s2 k).isSome) = false →
    grantsHeld s2 t + grantSum l ≤ tallyPool s2 → qpsFree s2 rd.count = true → creditRun s2 t rd.count = some base →
    l.all (fun e => decide (neighResult s2 e = 1)) = true → s.kp.randomOk = true →
    Runs (.jobBind cx fm w off size rd) s (fun u =>
      (∃ j, mget none u.net.binding t = some j ∧ j.phase = 2 ∧ j.epoch = (s.net.jobEpoch + 1) % 2 ^ 32 ∧ j.creditBase = base ∧
        j.peers.map (fun p => p.entry) = l) ∧
      u.net.jobEpoch = (s.net.jobEpoch + 1) % 2 ^ 32 ∧ OnlyChanges [.clk, .net, .out] s2 u)) ∧
  (∀ cx fm w off size rd t x win m l base s s1 s2, s1 = noteTaken cx 0x0060 s → Accepts cx 0x0060 s → tenantOf s1 cx = some t →
    s1.tenancy t = some x → x.destroying = none → s1.sliceWin t w = some win → fm ≤ 1 → off % 64 = 0 → 1 ≤ rd.count →
    rd.count ≤ 1024 → 2 ≤ size → size ≤ 65535 → (fm = 1 → 16 < size) → (fm = 0 → size ≤ 16) →
    off + 64 * rd.count ≤ ((s1.bayOf win.bay).map (fun z => (bayJoists s1 z).length)).getD 0 * win.extent →
    bayFenced s1 win.bay = false → win.halted = false →
    m = windowMeets s1 win off (64 * rd.count) rd.found → m.any (fun f => f.kind == .ue) = false → s2 = meetShared m s1 →
    imageBad s2 win off (64 * rd.count) = false → l = (peerTable s2 win off rd.count).map (fun e => e.1) →
    (peerTable s2 win off rd.count).all (fun e => e.2 && peerOk s2 e.1) = true → expectAgree l = true →
    mget none s.net.binding t = none → (baysOfTenancy s2 t).any (fun k => (runningStep s2 k).isSome) = false →
    grantsHeld s2 t + grantSum l ≤ tallyPool s2 → qpsFree s2 rd.count = true → creditRun s2 t rd.count = some base →
    l.all (fun e => decide (neighResult s2 e = 1 ∨ neighResult s2 e = 2)) = true →
    l.any (fun e => decide (neighResult s2 e = 2)) = true →
    EndsWith (.jobBind cx fm w off size rd) cx 0x0060 .topology s (fun u =>
      mget none u.net.binding t = none ∧ OnlyChanges [.net, .out] s2 u)) ∧
  (∀ t j s, mget none s.net.binding t = some j → j.phase = 1 →
    j.peers.all (fun p => decide (neighResult s p.entry = 1)) = true → s.kp.randomOk = true →
    Runs (.jobBindLldpTimeout t) s (fun u =>
      (∃ b, mget none u.net.binding t = some b ∧ b.phase = 2 ∧ b.epoch = (s.net.jobEpoch + 1) % 2 ^ 32 ∧
        b.peers.map (fun p => p.entry) = j.peers.map (fun p => p.entry)) ∧ OnlyChanges [.clk, .net, .out] s u)) ∧
  (∀ t j s, mget none s.net.binding t = some j → j.phase = 1 →
    j.peers.any (fun p => decide (neighResult s p.entry ≠ 1)) = true →
    EndsWith (.jobBindLldpTimeout t) j.cx 0x0060 .topology s (fun u =>
      mget none u.net.binding t = none ∧ OnlyChanges [.net] s u)) ∧
  (∀ t k serial grant epoch eph nonce j p q s, mget none s.net.binding t = some j → j.peers[k]? = some p → j.phase = 2 →
    p.gotPh1 = false → serial = p.entry.serial → s.qp p.qpn = some q →
    Runs (.ph1Rx t k serial grant epoch eph nonce) s (fun u =>
      (portUp s p.entry.port = true → (s.port p.entry.port).paused = [] → s.net.store = [] → s.net.waiting = [] →
        ∃ x, Out.packet x ∈ u.out ∧ x.qpn = p.qpn ∧ x.imm = some 2) ∧
      (∃ b c, mget none u.net.binding t = some b ∧ b.peers[k]? = some c ∧ c.gotPh1 = true ∧ c.peerGrant = grant
        ∧ c.peerEpoch = epoch) ∧ OnlyChanges [.net, .out] s u)) ∧
  (∀ t k serial grant epoch eph nonce j p s, mget none s.net.binding t = some j → j.peers[k]? = some p → j.phase = 2 →
    p.gotPh1 = false → serial ≠ p.entry.serial →
    EndsWith (.ph1Rx t k serial grant epoch eph nonce) j.cx 0x0060 .topology s (fun u =>
      mget none u.net.binding t = none ∧ OnlyChanges [.kp, .net] s u)) ∧
  (∀ t k m j p s, mget none s.net.binding t = some j → j.peers[k]? = some p → j.phase = 2 → p.gotPh1 = true →
    p.gotPh2 = false → ph2Check s t j p m = none → (j.peers.set k { p with gotPh2 := true }).all (fun p => p.gotPh2) = true →
    Completes (.ph2Rx t k m) j.cx 0x0060 [j.epoch, j.creditBase] s (fun u =>
      u.job t = some { j with phase := 0, peers := j.peers.set k { p with gotPh2 := true } } ∧
      mget none u.net.binding t = none ∧ OnlyChanges [.kp, .bay, .net, .out] s u)) ∧
  (∀ t k m j p s, mget none s.net.binding t = some j → j.peers[k]? = some p → j.phase = 2 → p.gotPh1 = true →
    p.gotPh2 = false → ph2Check s t j p m = none → (j.peers.set k { p with gotPh2 := true }).all (fun p => p.gotPh2) = false →
    Runs (.ph2Rx t k m) s (fun u =>
      mget none u.net.binding t = some { j with peers := j.peers.set k { p with gotPh2 := true } } ∧ OnlyChanges [.net] s u)) ∧
  (∀ t k m c j p s, mget none s.net.binding t = some j → j.peers[k]? = some p → j.phase = 2 → p.gotPh1 = true →
    p.gotPh2 = false → ph2Check s t j p m = some c →
    EndsWith (.ph2Rx t k m) j.cx 0x0060 .topology s (fun u =>
      mget none u.net.binding t = none ∧ OnlyChanges [.kp, .net] s u)) ∧
  (∀ t j s, mget none s.net.binding t = some j → j.phase = 2 →
    EndsWith (.ph2Timeout t) j.cx 0x0060 .topology s (fun u =>
      mget none u.net.binding t = none ∧ OnlyChanges [.kp, .net] s u))

/-- CONFIG_STAGE of at most 444 bytes into a set of at most 4,096 bytes stages the entries and touches no setting in force; while an
APPLY drains it fails with E_BUSY. CONFIG_APPLY of a set without a fault, with the right base epoch and every bay that a Quiesce
setting affects drained or released by a partition reset, puts each setting in force and raises CFG_EPOCH by one; with bays
still running it waits. Once they have drained the waiting APPLY completes and raises CFG_EPOCH the same way; at its timeout it
completes with E_BUSY and no setting changes. CONFIG_COMMIT, with no APPLY draining and while MRAM may be written, writes the
settings in force as a record with the next sequence number at location sequence mod 4 and leaves the other locations alone.
CONFIG_READ returns the settings that its body names. Corners that the rules leave open follow the model's choice (log entries
20 and 69). -/
def Obligations.ConfigCommandsComplete : Prop :=
  (∀ cx clear entries s, Accepts cx 0x0070 s → s.cfg.applying = none → tlvBytes entries ≤ 444 →
    tlvBytes (entries.foldl stageEntry (if clear then [] else s.cfg.staged)) ≤ 4096 →
    Completes (.configStage cx clear entries) cx 0x0070 [] s (fun u =>
      u.cfg = { s.cfg with staged := entries.foldl stageEntry (if clear then [] else s.cfg.staged) } ∧
      OnlyChanges [.cfg, .qci] s u)) ∧
  (∀ cx clear entries a s, Accepts cx 0x0070 s → s.cfg.applying = some a → tlvBytes entries ≤ 444 →
    TurnedAway (.configStage cx clear entries) cx 0x0070 .busy s) ∧
  (∀ cx timeout s s1, s1 = noteTaken cx 0x0071 s → Accepts cx 0x0071 s → 1 ≤ timeout → timeout ≤ 10000 →
    s.cfg.applying = none → firstBad s1 s.cfg.staged = none → shrinksFrame s1 s.cfg.staged = false →
    (drainedBays s1 s.cfg.staged).all (bayDrained s1) = true →
    ∃ n, Completes (.configApply cx s.cfg.epoch timeout) cx 0x0071 [(s.cfg.epoch + 1) % 2 ^ 32, n] s (fun u =>
      n = toAdopt u ∧ u.cfg.epoch = (s.cfg.epoch + 1) % 2 ^ 32 ∧ u.cfg.staged = [] ∧
      (∀ x, x ∈ s.cfg.staged → (∀ y, y ∈ s.cfg.staged → idOf y = idOf x → y = x) →
        settingOf u x.block x.inst x.num = x.value) ∧
      OnlyChanges [.clk, .cfg, .qci, .bay, .jig, .joi, .rfr, .bnt, .net] s u)) ∧
  (∀ cx timeout s s1, s1 = noteTaken cx 0x0071 s → Accepts cx 0x0071 s → 1 ≤ timeout → timeout ≤ 10000 →
    s.cfg.applying = none → firstBad s1 s.cfg.staged = none → shrinksFrame s1 s.cfg.staged = false →
    (drainedBays s1 s.cfg.staged).all (bayDrained s1) = false →
    Runs (.configApply cx s.cfg.epoch timeout) s (fun t =>
      t.cfg = { s.cfg with applying := some { cx := cx, timeout := timeout, settings := s.cfg.staged } } ∧
      OnlyChanges [.cfg, .qci] s t)) ∧
  (∀ a s, s.cfg.applying = some a → (drainedBays s a.settings).all (bayDrained s) = true →
    shrinksFrame s a.settings = false →
    ∃ n, Completes .configApplyDrained a.cx 0x0071 [(s.cfg.epoch + 1) % 2 ^ 32, n] s (fun u =>
      n = toAdopt u ∧ u.cfg.epoch = (s.cfg.epoch + 1) % 2 ^ 32 ∧ u.cfg.applying = none ∧ u.cfg.staged = [] ∧
      OnlyChanges [.clk, .cfg, .bay, .jig, .joi, .rfr, .bnt, .net] s u)) ∧
  (∀ a s, s.cfg.applying = some a →
    EndsWith .configApplyTimeout a.cx 0x0071 .busy s (fun u => u.cfg = { s.cfg with applying := none } ∧ OnlyChanges [.cfg] s u)) ∧
  (∀ cx q s s1, s1 = noteTaken cx 0x0072 s → Accepts cx 0x0072 s → s.cfg.applying = none → mramOpen s = true → q = topSequence s1 + 1 →
    Completes (.configCommit cx) cx 0x0072 [q, q % 4] s (fun u =>
      mget none u.kp.records (q % 4) = some (recordNow s1 q) ∧
      (∀ l, l ≠ q % 4 → mget none u.kp.records l = mget none s.kp.records l) ∧ u.kp.fuses = s.kp.fuses ∧
      u.cfg.location = q % 4 ∧ u.cfg.sequence = q ∧ u.cfg.inForce = s.cfg.inForce ∧ u.cfg.staged = s.cfg.staged ∧
      OnlyChanges [.kp, .cfg, .qci] s u)) ∧
  (∀ cx which reply x p s s1, s1 = noteTaken cx 0x0073 s → Accepts cx 0x0073 s → which ≤ 3 →
    sessionRec s1 cx.session = some x → recordPort s1 cx.session x cx.port = some p →
    tlvBytes (settingsBy s1 which) + 24 ≤ reply.len →
    Completes (.configRead cx which reply) cx 0x0073 [] s (fun u =>
      Out.reply cx.session reply (.settings (settingsBy s1 which)) false ∈ u.out ∧ OnlyChanges [.qci, .net, .out] s u))

/-- POWER_RETAIN with a timeout from 1 to 10,000 ms, nothing that bars the entry, no tripped bent and something that can wake the
device starts the drain. The end of the drain leads to CLOSE, its timeout completes the command with E_BUSY and ends the entry.
CLOSE completes the command with OK, takes every port but the sentry port dark and disables every laser but the sentry engine's.
STOP stops every bent's clocks, the transit domain's included, at 40 A/us, and the framer. SELF-REFRESH puts every bent's
laminations into self-refresh. RETENTION powers down the bents and the hub's PLL; a wake that came during entry then starts the
exit. Each phase changes its own parts alone. Corners that the rules leave open follow the model's choice (log entry 62). -/
def Obligations.RetainIsEntered : Prop :=
  (∀ cx timeout s s1, s1 = noteTaken cx 0x0080 s → Accepts cx 0x0080 s → 1 ≤ timeout → timeout ≤ 10000 → retainBusy s1 = false →
    (List.range 4).any (fun b => (s1.bent b).tripped) = false → canWake s1 = true →
    Runs (.powerRetain cx timeout) s (fun t => t.pwr.retain = 1 ∧ t.pwr.retainCx = some cx ∧ t.pwr.retainTimeout = timeout ∧
      OnlyChanges [.qci, .pwr] s t)) ∧
  (∀ cx s, s.pwr.retainCx = some cx → s.pwr.retain = 1 → retainDrained s cx = true →
    Runs .retainDrainDone s (fun t => t.pwr.retain = 2 ∧ t.pwr.retainCx = some cx ∧ OnlyChanges [.pwr] s t)) ∧
  (∀ cx s, s.pwr.retainCx = some cx → s.pwr.retain = 1 →
    EndsWith .retainDrainTimeout cx 0x0080 .busy s (fun u => u.pwr.retain = 0 ∧ u.pwr.retainCx = none ∧ OnlyChanges [.pwr] s u)) ∧
  (∀ cx s, s.pwr.retainCx = some cx → s.pwr.retain = 2 →
    Runs .retainClose s (fun t => t.pwr.retain = 3 ∧ t.pwr.retainCx = none ∧
      (∀ p, p < 12 → p ≠ sentryPort s → (t.port p).link = 0 ∨ (t.port p).link = 3) ∧
      (∀ e, e < 6 → isSentryEngine s e = false → (t.engine e).laserOn = false) ∧
      OnlyChanges (.pwr :: sessionParts) s t)) ∧
  (∀ s, s.pwr.retain = 3 →
    Runs .retainStop s (fun t => (∀ b, b < 4 → (t.bent b).stopped = true ∧ (t.bent b).ballast = 40 ∧ (t.bent b).transit = false) ∧ t.qci.framerHalted = true ∧
      t.pwr.retain = 4 ∧ OnlyChanges [.qci, .bnt, .pwr] s t)) ∧
  (∀ s, s.pwr.retain = 4 →
    Runs .retainSelfRefresh s (fun t => (∀ b, b < 4 → (t.bent b).inSelfRefresh = true ∧ (t.bent b).refreshOn = false) ∧
      t.pwr.retain = 5 ∧ OnlyChanges [.rfr, .bnt, .pwr] s t)) ∧
  (∀ s, s.pwr.retain = 5 → s.pwr.wakePending = false →
    Runs .retainRetention s (fun t => (∀ b, b < 4 → (t.bent b).up = false ∧ (t.bent b).sillLock = false) ∧ t.pwr.hubLock = false ∧
      t.pwr.retain = 6 ∧ t.pwr.exitOrder = (List.range 4).filter (fun b => (s.bent b).up) ∧
      OnlyChanges [.bnt, .net, .pwr] s t)) ∧
  (∀ s, s.pwr.retain = 5 → s.pwr.wakePending = true →
    Runs .retainRetention s (fun t => (∀ b, b < 4 → (t.bent b).up = false) ∧ t.pwr.hubLock = false ∧ t.pwr.retain = 7 ∧
      t.pwr.wakePending = false ∧ OnlyChanges [.bnt, .net, .pwr] s t))

/-- In RETAIN, new light on a port of WAKE_LIGHT, a frame on the sentry port or a wake frame starts the exit, and WAKE_STATUS names
its cause and port; a frame during entry is kept. Light on a port outside WAKE_LIGHT is only recorded. A wake frame that passes
its checks takes its COUNTER into its session and does not count in SPURIOUS; one that fails a check counts, and is logged while
MRAM may be written. The hub phase locks the PLL and lets the framer run. Each bent in turn is powered, clocked, transit domain
included, unless a drop holds every clock stopped, and refreshed again, and after the last RETAIN has ended; a tripped bent is
passed over. Corners that the rules leave open follow the model's choice (log entry 62). -/
def Obligations.WakesEndRetain : Prop :=
  (∀ port s, portPresent s port = true → (s.port port).lit = false → Nat.testBit (wakeLight s) port = true → s.pwr.retain = 6 →
    s.pwr.wakePending = false →
    Runs (.lightWake port) s (fun t => (t.port port).lit = true ∧ t.pwr.retain = 7 ∧ t.pwr.wakeCause = 4 ∧ t.pwr.wakePort = port ∧
      t.pwr.spurious = sat 0xFFFF (s.pwr.spurious + 1) ∧ OnlyChanges [.net, .pwr] s t)) ∧
  (∀ port s, portPresent s port = true → Nat.testBit (wakeLight s) port = false →
    Runs (.lightWake port) s (fun t => (t.port port).lit = true ∧ OnlyChanges [.net] s t)) ∧
  (∀ port s, portPresent s port = true → port = sentryPort s → s.pwr.retain = 6 → s.pwr.wakePending = false →
    Runs (.frameWake port) s (fun t => t.pwr.retain = 7 ∧ t.pwr.wakeCause = 2 ∧ t.pwr.wakePort = port ∧ OnlyChanges [.pwr] s t)) ∧
  (∀ port s, portPresent s port = true → port = sentryPort s → 2 ≤ s.pwr.retain → s.pwr.retain ≤ 5 → s.pwr.wakePending = false →
    Runs (.frameWake port) s (fun t => t.pwr.retain = s.pwr.retain ∧ t.pwr.wakePending = true ∧ t.pwr.wakeCause = 2 ∧
      OnlyChanges [.pwr] s t)) ∧
  (∀ f x s, portPresent s f.port = true → f.port = sentryPort s → s.pwr.retain = 6 → s.pwr.wakePending = false →
    s.session f.session = some x → wakeFault s f = none →
    Runs (.wakeFrameRx f) s (fun t => t.pwr.retain = 7 ∧ t.pwr.wakeCause = 1 ∧ t.pwr.wakePort = f.port ∧
      t.pwr.spurious = s.pwr.spurious ∧ t.pwr.wakeNamed = decide (f.tenancy ≠ 0xFF) ∧
      t.session f.session = some { x with mgmtCounter := f.counter } ∧ OnlyChanges [.qci, .pwr] s t)) ∧
  (∀ f c s, portPresent s f.port = true → f.port = sentryPort s → s.pwr.retain = 6 → s.pwr.wakePending = false →
    wakeFault s f = some c → mramOpen s = true →
    Runs (.wakeFrameRx f) s (fun t => t.pwr.retain = 7 ∧ t.pwr.wakeCause = 3 ∧ t.pwr.wakePort = f.port ∧
      t.pwr.spurious = sat 0xFFFF (s.pwr.spurious + 1) ∧
      (∃ e, e ∈ t.kp.log ∧ e.code = 0xC ∧ e.data = [(f.port : Int), f.session, c]) ∧ OnlyChanges [.kp, .pwr] s t)) ∧
  (∀ s, s.pwr.retain = 7 →
    Runs .retainExitHub s (fun t => t.pwr.hubLock = true ∧ t.qci.framerHalted = false ∧
      t.pwr.retain = (if s.pwr.exitOrder.isEmpty then 0 else 8) ∧ OnlyChanges [.qci, .net, .pwr] s t)) ∧
  (∀ bent rest s, bent < 4 → s.pwr.retain = 8 → s.pwr.exitOrder = bent :: rest → (s.bent bent).tripped = false →
    Runs (.retainExitBent bent) s (fun t => (t.bent bent).up = true ∧ (t.bent bent).sillLock = true ∧
      (t.bent bent).stopped = dropped s ∧ (t.bent bent).transit = !dropped s ∧ (t.bent bent).inSelfRefresh = false ∧ (t.bent bent).refreshOn = true ∧
      (∀ b, b ≠ bent → t.bent b = s.bent b) ∧ t.pwr.exitOrder = rest ∧
      t.pwr.retain = (if rest.isEmpty then 0 else 8) ∧ OnlyChanges [.bnt, .pwr] s t)) ∧
  (∀ bent rest s, bent < 4 → s.pwr.retain = 8 → s.pwr.exitOrder = bent :: rest → (s.bent bent).tripped = true →
    Runs (.retainExitBent bent) s (fun t => t.pwr.exitOrder = rest ∧ t.pwr.retain = (if rest.isEmpty then 0 else 8) ∧
      OnlyChanges [.pwr] s t))

/-- RESET_PARTITION of bents that the caller may reset, of which none outside a reset is tripped, begins one reset of exactly those
bents that are under none and has it complete the command; a reset that runs on some of them completes it too. With every bent
already under reset it begins none. RESET_DEVICE returns sessions, tenancies, bays, jobs, network and joists to their reset
state and starts bring-up without a cold start, while the fuses, the operator key, the event log, the settings records and the
slices' data stay. Corners that the rules leave open follow the model's choice (log entry 60). -/
def Obligations.ResetCommandsRun : Prop :=
  (∀ cx (mask : BitVec 4) s s1, s1 = noteTaken cx 0x0081 s → Accepts cx 0x0081 s → mask ≠ 0 →
    mayReset s1 (tenantOf s1 cx) (bitsOf 4 mask.toNat) = true → (bitsOf 4 mask.toNat).any (fun b => (s.bent b).tripped) = false →
    (bitsOf 4 mask.toNat).any (bentsInReset s).contains = false →
    Runs (.resetPartition cx mask) s (fun t =>
      (∃ r, t.pwr.resets = s.pwr.resets ++ [r] ∧ r.bents = bitsOf 4 mask.toNat ∧ r.cxs = [cx] ∧ r.phase = 0 ∧ r.cause = 0) ∧
      OnlyChanges [.qci, .pwr] s t)) ∧
  (∀ cx (mask : BitVec 4) s s1, s1 = noteTaken cx 0x0081 s → Accepts cx 0x0081 s → mask ≠ 0 →
    mayReset s1 (tenantOf s1 cx) (bitsOf 4 mask.toNat) = true → (bitsOf 4 mask.toNat).all (bentsInReset s).contains = true →
    Runs (.resetPartition cx mask) s (fun t =>
      t.pwr.resets.map (fun r => (r.id, r.bents, r.phase)) = s.pwr.resets.map (fun r => (r.id, r.bents, r.phase)) ∧
      (∃ r, r ∈ t.pwr.resets ∧ cx ∈ r.cxs) ∧ OnlyChanges [.qci, .pwr] s t)) ∧
  (∀ cx (mask : BitVec 4) l s s1, s1 = noteTaken cx 0x0081 s → Accepts cx 0x0081 s → mask ≠ 0 →
    mayReset s1 (tenantOf s1 cx) (bitsOf 4 mask.toNat) = true →
    (bitsOf 4 mask.toNat).any (fun b => (s.bent b).tripped && !(bentsInReset s).contains b) = false →
    l = (bitsOf 4 mask.toNat).filter (fun b => !(bentsInReset s).contains b) → l ≠ [] →
    Runs (.resetPartition cx mask) s (fun t =>
      (∃ (old : List PReset) (r : PReset), t.pwr.resets = old ++ [r] ∧ r.bents = l ∧ r.cxs = [cx] ∧ r.phase = 0 ∧ r.cause = 0 ∧
        old.map (fun r => (r.id, r.bents, r.phase)) = s.pwr.resets.map (fun r => (r.id, r.bents, r.phase)) ∧
        (∀ z, z ∈ old → z.bents.any (bitsOf 4 mask.toNat).contains = true → cx ∈ z.cxs)) ∧ OnlyChanges [.qci, .pwr] s t)) ∧
  (∀ cx full s, Accepts cx 0x0082 s → s.pwr.retainCx = none →
    Runs (.resetDevice cx full) s (fun t => t.kp.stage = 0 ∧ t.kp.raising = true ∧ t.kp.coldStart = false ∧ t.kp.hubHeld = true ∧
      (full = true → t.kp.fullTests = true) ∧ t.kp.fuses = s.kp.fuses ∧ t.kp.operatorKey = s.kp.operatorKey ∧
      t.kp.log = s.kp.log ∧ t.kp.records = s.kp.records ∧ t.mem.slice = s.mem.slice ∧ t.mem.bench = [] ∧ t.qci = {} ∧ t.ten = [] ∧
      t.bay = {} ∧ t.jig = {} ∧ t.joi = {} ∧ t.net = {} ∧ OnlyChanges (.ten :: .rfr :: .ecc :: .bnt :: .lnk :: .thm :: .pwr ::
        sessionParts) s t ∧ t.out = s.out))

/-- FW_BEGIN with a length from 224 bytes to 8 MiB, a version no older than the counter and no update of another session clears the
commit word and opens the update. FW_CHUNK of 1 to 888 bytes within the length stores exactly these bytes of the image.
FW_FINISH where SHA-256 of the stored bytes agrees with the digest and the image in them passes every check of R423 raises the
counter to at least the version in its header and writes a consistent commit word of that version, the stored bytes and the
running firmware unchanged; an image that fails a check is answered with E_AUTH and the commit word stays as FW_BEGIN left it.
Corners that the rules leave open follow the model's choice (log entry 59). -/
def Obligations.FirmwareIsUpdated : Prop :=
  (∀ cx length version digest s, Accepts cx 0x0090 s → 224 ≤ length → length ≤ 8388608 → s.kp.fwCounter ≤ version →
    updateElsewhere s cx = false → mramOpen s = true →
    Completes (.fwBegin cx length version digest) cx 0x0090 [] s (fun u =>
      u.kp = { s.kp with commitLo := 0, commitHi := 0,
                         update := some { session := cx.session, length := length, version := version, digest := digest } } ∧
      OnlyChanges [.kp, .qci] s u)) ∧
  (∀ cx offset data x s, Accepts cx 0x0091 s → s.kp.update = some x → x.session = cx.session → data ≠ [] → data.length ≤ 888 →
    offset + data.length ≤ x.length → mramOpen s = true →
    Completes (.fwChunk cx offset data) cx 0x0091 [] s (fun u =>
      (∀ k, k < data.length → mget 0 u.kp.imageBytes (offset + k) = data.getD k 0) ∧
      (∀ a, a < offset ∨ offset + data.length ≤ a → mget 0 u.kp.imageBytes a = mget 0 s.kp.imageBytes a) ∧
      u.kp = { s.kp with imageBytes := u.kp.imageBytes } ∧ OnlyChanges [.kp, .qci] s u)) ∧
  (∀ cx x s, Accepts cx 0x0092 s → s.kp.update = some x → x.session = cx.session → mramOpen s = true →
    imageDigestOk s x.length x.digest = true → imageAccepted s = true →
    Completes (.fwFinish cx ()) cx 0x0092 [imageVersion s] s (fun u =>
      u.kp.update = none ∧ u.kp.fwCounter = max s.kp.fwCounter (imageVersion s) ∧ imageNow u = imageNow s ∧
      u.kp.imageBytes = s.kp.imageBytes ∧ u.kp.commitLo = imageVersion s % 2 ^ 32 ∧ u.kp.commitLo + u.kp.commitHi = 0xFFFFFFFF ∧
      u.kp.running = s.kp.running ∧ u.kp.fuses = s.kp.fuses ∧ OnlyChanges [.kp, .qci] s u)) ∧
  (∀ cx x s, Accepts cx 0x0092 s → s.kp.update = some x → x.session = cx.session → mramOpen s = true →
    (imageDigestOk s x.length x.digest && imageAccepted s) = false →
    EndsWith (.fwFinish cx ()) cx 0x0092 .auth s (fun u => u.kp = { s.kp with update := none } ∧ OnlyChanges [.kp, .qci] s u))

/-- THERMAL_HINT with an inlet from 0 to 60 C, a flow in 16 bits and a lifetime from 100 to 60,000 ms puts the hint in force and
answers the inlet and the thermistor; at its expiry no hint is in force. COOLING_BASELINE mode 0 takes R as the baseline once R
has been updated for 5 s at 1,000 W or more, mode 1 takes a value from 655 to 6,554, and mode 2 clears it; each answers the
baseline. Corners that the rules leave open follow the model's choice (log entries 63 and 69). -/
def Obligations.ThermalCommandsComplete : Prop :=
  (∀ cx inlet flow life s, Accepts cx 0x00A0 s → 0 ≤ inlet → inlet ≤ 960 → flow ≤ 65535 → 100 ≤ life → life ≤ 60000 →
    Completes (.thermalHint cx inlet flow life) cx 0x00A0 [tempHalf inlet, tempHalf s.thm.thermistor] s (fun u =>
      u.thm.hint = some { inlet := inlet, flow := flow, until_ := usNow s + life * 1000 } ∧
      (hintApart inlet s.thm.thermistor = true → u.thm.inletDisagree = true) ∧
      u.thm.coolingDegraded = coolingFlag s.kp.baseline s.thm.rth u.thm.hint s.thm.coolingDegraded ∧
      OnlyChanges [.qci, .thm] s u)) ∧
  (∀ s, Runs .hintExpiry s (fun t => t.thm.hint = none ∧ t.thm.rth = s.thm.rth ∧ OnlyChanges [.thm] s t)) ∧
  (∀ cx value s, Accepts cx 0x00A1 s → baselineReady s = true → mramOpen s = true →
    Completes (.coolingBaseline cx 0 value) cx 0x00A1 [s.thm.rth] s (fun u =>
      u.kp.baseline = s.thm.rth ∧ u.kp.baseAt = keeperNow s ∧ u.kp.fuses = s.kp.fuses ∧ OnlyChanges [.kp, .qci, .thm] s u)) ∧
  (∀ cx value s, Accepts cx 0x00A1 s → 655 ≤ value → value ≤ 6554 → mramOpen s = true →
    Completes (.coolingBaseline cx 1 value) cx 0x00A1 [value] s (fun u =>
      u.kp.baseline = value ∧ u.kp.baseAt = keeperNow s ∧ u.kp.fuses = s.kp.fuses ∧ OnlyChanges [.kp, .qci, .thm] s u)) ∧
  (∀ cx value s, Accepts cx 0x00A1 s → mramOpen s = true →
    Completes (.coolingBaseline cx 2 value) cx 0x00A1 [0] s (fun u =>
      u.kp = { s.kp with baseline := 0 } ∧ OnlyChanges [.kp, .qci, .thm] s u))

/-- STATUS_READ returns the status window of the caller's mailbox, LOG_READ the entries of one of logs 0 to 11 from FIRST on, each
into a buffer that holds them. REG_READ of one to four registers that the caller may read answers one word for each, and what it
latches lies in the command interface. Nothing but the command interface changes, and with a reply ports, queue pairs and
outputs. Corners that the rules leave open follow the model's choice (log entry 66). -/
def Obligations.ReadCommandsComplete : Prop :=
  (∀ cx reply x p s s1, s1 = noteTaken cx 0x00B0 s → Accepts cx 0x00B0 s → sessionRec s1 cx.session = some x →
    recordPort s1 cx.session x cx.port = some p → 65536 + 24 ≤ reply.len →
    Completes (.statusRead cx reply) cx 0x00B0 [] s (fun u =>
      Out.reply cx.session reply (.words (windowWords s1 (mailboxOf s1 cx))) false ∈ u.out ∧ OnlyChanges [.qci, .net, .out] s u)) ∧
  (∀ cx log first count reply x p rows s s1, s1 = noteTaken cx 0x00B1 s → Accepts cx 0x00B1 s → log ≤ 11 →
    sessionRec s1 cx.session = some x → recordPort s1 cx.session x cx.port = some p →
    rows = logSlice first count (logView s1 log).rows → (logView s1 log).headSize + (logView s1 log).size * rows.length + 24 ≤ reply.len →
    Completes (.logRead cx log first count reply) cx 0x00B1 [] s (fun u =>
      Out.reply cx.session reply (.rows ((logView s1 log).head ++ rows)) false ∈ u.out ∧ OnlyChanges [.qci, .net, .out] s u)) ∧
  (∀ cx addrs s s1, s1 = noteTaken cx 0x00B2 s → Accepts cx 0x00B2 s → addrs ≠ [] → addrs.length ≤ 4 →
    (∀ a, a ∈ addrs → ∃ k off c, blockOf s1 a = some (k, off) ∧ callerOf s1 cx.session = some c ∧ mayRead s1 c k off = true) →
    ∃ l, Completes (.regRead cx addrs) cx 0x00B2 l s (fun u =>
      l = (readRegs s1 addrs).1 ∧ l.length = addrs.length ∧ OnlyChanges [.qci] s u))

/-- REG_WRITE of a permitted field that belongs to no setting answers the register after the write and CFG_EPOCH. FORCE_HOT,
SCRUB_RATE and PEG_MAX of a bent, with no APPLY draining, take the value and raise CFG_EPOCH by one. PEAK_CLR clears the bent's
peak and TRIG_CLR the trigger counts of a defined bay; the other bents and bays stay. LASER_FAULT, LINK_DEGRADED and
NEIGH_MISMATCH are cleared but for a cause that persists; SENSOR_DISAGREE, INLET_DISAGREE and PLL_LOSS are cleared. Corners that
the rules leave open follow the model's choice (log entry 66). -/
def Obligations.RegisterWritesComplete : Prop :=
  (∀ cx addr (value mask : Word) k off s s1, s1 = noteTaken cx 0x00B3 s → Accepts cx 0x00B3 s →
    blockOf s1 addr = some (k, off) → writable k off ≠ 0 → mask.toNat &&& writable k off = mask.toNat →
    settingWritten s1 k off value.toNat mask.toNat = none →
    ∃ l, Completes (.regWrite cx addr value mask) cx 0x00B3 l s (fun u =>
      l = [blockReg u k off % 2 ^ 32, s.cfg.epoch] ∧ OnlyChanges [.qci, .bay, .bnt, .net, .thm, .pwr] s u)) ∧
  (∀ cx bent on s, Accepts cx 0x00B3 s → bent < 4 → s.cfg.applying = none →
    ∃ l, Completes (.forceHotWrite cx bent on) cx 0x00B3 l s (fun u =>
      (u.bent bent).forceHot = on ∧ (on = true → (u.bent bent).hot = true) ∧ settingOf u 1 bent 1 = [bit 0 on] ∧
      u.cfg.epoch = (s.cfg.epoch + 1) % 2 ^ 32 ∧ OnlyChanges [.cfg, .qci, .bay, .jig, .joi, .rfr, .bnt] s u)) ∧
  (∀ cx bent s, Accepts cx 0x00B3 s → bent < 4 →
    ∃ l, Completes (.peakClr cx bent) cx 0x00B3 l s (fun u =>
      u.bent bent = { s.bent bent with postponePeak := 0 } ∧ (∀ b, b ≠ bent → u.bent b = s.bent b) ∧
      OnlyChanges [.qci, .bnt] s u)) ∧
  (∀ cx bent rate s, Accepts cx 0x00B3 s → bent < 4 → rate ≤ 4095 → s.cfg.applying = none →
    ∃ l, Completes (.scrubRateWrite cx bent rate) cx 0x00B3 l s (fun u =>
      (u.bent bent).rate = rate ∧ settingOf u 1 bent 2 = [rate] ∧ u.cfg.epoch = (s.cfg.epoch + 1) % 2 ^ 32 ∧
      OnlyChanges [.cfg, .qci, .bay, .jig, .joi, .rfr, .bnt] s u)) ∧
  (∀ cx bent n s, Accepts cx 0x00B3 s → bent < 4 → 1 ≤ n → n ≤ 8 → s.cfg.applying = none →
    ∃ l, Completes (.pegMaxWrite cx bent n) cx 0x00B3 l s (fun u =>
      (u.bent bent).pegMax = n ∧ settingOf u 1 bent 3 = [n] ∧ u.cfg.epoch = (s.cfg.epoch + 1) % 2 ^ 32 ∧
      OnlyChanges [.cfg, .qci, .bay, .jig, .joi, .rfr, .bnt] s u)) ∧
  (∀ cx bay y s, Accepts cx 0x00B3 s → bay < 64 → s.bayOf bay = some y →
    ∃ l, Completes (.bayTrigClr cx bay) cx 0x00B3 l s (fun u =>
      u.bayOf bay = some { y with matched := 0, unmatched := 0 } ∧ (∀ o, o ≠ bay → u.bayOf o = s.bayOf o) ∧
      OnlyChanges [.qci, .bay] s u)) ∧
  (∀ cx p s, Accepts cx 0x00B3 s → p < 12 → portPresent s p = true →
    ∃ l, Completes (.laserFaultClear cx p) cx 0x00B3 l s (fun u =>
      u.port p = { s.port p with laserFault := (s.engine (p / 2)).laserFault || (s.engine (p / 2)).removed } ∧ (∀ o, o ≠ p → u.port o = s.port o) ∧
      OnlyChanges [.qci, .net] s u)) ∧
  (∀ cx p s, Accepts cx 0x00B3 s → p < 12 → portPresent s p = true →
    ∃ l, Completes (.linkDegradedClear cx p) cx 0x00B3 l s (fun u =>
      u.port p = { s.port p with linkDegraded := false } ∧ (∀ o, o ≠ p → u.port o = s.port o) ∧ OnlyChanges [.qci, .net] s u)) ∧
  (∀ cx p s, Accepts cx 0x00B3 s → p < 12 → portPresent s p = true →
    ∃ l, Completes (.neighMismatchClear cx p) cx 0x00B3 l s (fun u =>
      u.port p = { s.port p with neighMismatch := neighPersists s p } ∧ (∀ o, o ≠ p → u.port o = s.port o) ∧
      OnlyChanges [.qci, .net] s u)) ∧
  (∀ cx s, Accepts cx 0x00B3 s →
    (∃ l, Completes (.sensorDisagreeClear cx) cx 0x00B3 l s (fun u =>
      u.thm = { s.thm with sensorDisagree := false } ∧ OnlyChanges [.qci, .thm] s u)) ∧
    (∃ l, Completes (.inletDisagreeClear cx) cx 0x00B3 l s (fun u =>
      u.thm = { s.thm with inletDisagree := false } ∧ OnlyChanges [.qci, .thm] s u)) ∧
    (∃ l, Completes (.pllLossClear cx) cx 0x00B3 l s (fun u =>
      u.pwr = { s.pwr with pllLoss := false } ∧ OnlyChanges [.qci, .pwr] s u)))

/-- MARGIN_RUN of a bent that holds no bay, is not under reset and runs no other margin run takes the bent and completes later. When
the run ends, the command completes with OK: the bent's margin record names the joists tested, the populated banks, the ceiling
of the sweep, and each outcome of a tested bank with its window held within the sweep, marginal where it is narrow, failed where
nominal settings lie outside it; the records of the other bents stay, and the bent is free for another run. Corners that the
rules leave open follow the model's choice (log entries 41 and 65). -/
def Obligations.MarginRunsComplete : Prop :=
  (∀ cx bent s s1, s1 = noteTaken cx 0x00B4 s → Accepts cx 0x00B4 s → bent < 4 → (bentsInReset s1).contains bent = false →
    baysOnBents s1 [bent] = [] → (s1.bent bent).margining = none →
    Runs (.marginRun cx bent) s (fun t => t.bent bent = { s.bent bent with margining := some cx } ∧
      (∀ b, b ≠ bent → t.bent b = s.bent b) ∧ OnlyChanges [.qci, .bnt] s t)) ∧
  (∀ bent outcomes vdd cx l s, bent < 4 → (s.bent bent).margining = some cx →
    l = sweepOutcomes bent (sweepCeiling vdd) outcomes s →
    EndsWith (.marginRunDone bent ⟨vdd, outcomes⟩) cx 0x00B4 .ok s (fun u =>
      (u.bent bent).margining = none ∧
      (∃ r : MarginRecord, mget {} u.ecc.margin bent = r ∧ r.tested = (testedJoists s bent).map keyIndex ∧ r.banks = bankCount s ∧
        r.vCeil = sweepCeiling vdd ∧
        r.entries.map (fun e => (e.pjoist, e.bank, e.marginal, e.tLow, e.tHigh, e.vLow, e.vHigh)) =
          l.map (fun o => (o.pjoist, o.bank, isMarginal o, o.tLow, o.tHigh, o.vLow, o.vHigh)) ∧
        (∀ (k : Nat) o (e : MarginRec), l[k]? = some o → r.entries[k]? = some e → failsNominal o = true → e.failed = true)) ∧
      (∀ b, b ≠ bent → mget {} u.ecc.margin b = mget {} s.ecc.margin b) ∧ u.kp.fuses = s.kp.fuses ∧
      OnlyChanges [.clk, .kp, .jig, .joi, .mem, .ecc, .bnt] s u))

/-- A write into a slot of an open mailbox stands there; where it completes no COMMIT, or the framer does not listen, nothing else
changes. A looked-at slot in sequence is taken: the session expects the next SEQ. The first of two slots waits for its second. A
slot, or a second slot after its first, that no check fails runs its opcode's command on the fields of its opened body, as
HELLO, SEQ_OPEN and STEP_RUN show, whose slots run as those rows do; one that a check fails completes with that status. A HELLO
with SEQ 1 restarts the pre-session slot. A SEQ already taken is ignored; one ahead counts in MBX_ORDER and is not taken. A READ
of a served status window inside its mailbox's range is answered by its session's queue pair, which counts the PSNs of the
answer; one that fits a packet leaves on a port that is up and takes frames, where nothing waits and the store holds it, with
the words of the last snapshot. While the device is READY or FAILED and hub state awake, a snapshot raises SNAP by one and shows
HCLK, and nothing else changes. Corners that the rules leave open follow the model's choice (log entries 19 and 67). -/
def Obligations.SlotsAndWindowsAreServed : Prop :=
  (∀ w s t, t = slotLanded w s → committed t w.mailbox w.slot = none ∨ listening t = false →
    Runs (.slotCommitWrite w) s (fun u => u = t ∧ OnlyChanges [.qci] s u ∧
      (mailboxOpen s w.mailbox = true → w.slot < 32 → ∀ i, w.offset + i < 512 → i < w.data.length →
        mget 0 u.qci.slots (16384 * w.mailbox + 512 * w.slot + w.offset + i) = w.data.getD i 0))) ∧
  (∀ w i x c s, Looks w i x c s → InTurn x c → restarts i c = false → c.twoSlot = true → mget none s.qci.half i = none →
    Runs (.slotCommitWrite w) s (fun t => (t.session i).map (fun z => (z.expect, z.taken)) = some (c.seq + 1, c.seq) ∧
      mget none t.qci.half i = some c ∧ (∀ o, o ≠ i → t.session o = s.session o) ∧ OnlyChanges [.qci] s t)) ∧
  (∀ w i x c v s, Looks w i x c s → InTurn x c → restarts i c = false → c.twoSlot = false → mget none s.qci.half i = none →
    v = markTaken i x c (lookAt w.mailbox w.slot (slotLanded w s)) → slotFault v i x c none = none →
    exec (.slotCommitWrite w) s = runBody c.opcode c.len (slotBody x c) (cmdOf c i) c.found c.named v ∧
    (v.session i).map (fun z => (z.expect, z.taken)) = some (c.seq + 1, c.seq) ∧ OnlyChanges [.qci] s v ∧
    (c.opcode = 0x0050 → exec (.slotCommitWrite w) s = exec (.seqOpen (cmdOf c i) (u (slotBody x c) 0 1)) v ∧
      ∃ t, exec (.slotCommitWrite w) s = .next t) ∧
    (c.opcode = 0x0040 → exec (.slotCommitWrite w) s = exec (.stepRun (cmdOf c i) (u (slotBody x c) 0 1) (u (slotBody x c) 1 1)
      ((u (slotBody x c) 2 1).testBit 0) (u (slotBody x c) 4 2) (u (slotBody x c) 8 4)
      ((List.range (u (slotBody x c) 3 1)).map (ltEntryAt (slotBody x c)))) v ∧ ∃ t, exec (.slotCommitWrite w) s = .next t)) ∧
  (∀ w i x c v st s, Looks w i x c s → InTurn x c → restarts i c = false → c.twoSlot = false → mget none s.qci.half i = none →
    v = markTaken i x c (lookAt w.mailbox w.slot (slotLanded w s)) → slotFault v i x c none = some st →
    Runs (.slotCommitWrite w) s (fun t => t = finish (cmdOf c i) c.opcode { status := st } (noteTaken (cmdOf c i) c.opcode v))) ∧
  (∀ w first i x c v s, Looks w i x c s → InTurn x c → restarts i c = false → mget none s.qci.half i = some first →
    v = markTaken i x c (lookAt w.mailbox w.slot (slotLanded w s)) → slotFault v i x first (some c) = none →
    exec (.slotCommitWrite w) s = runBody first.opcode first.len (slotBody x first ++ slotBody x c) (cmdOf first i)
      (first.found ++ c.found) (first.named ++ c.named) v ∧
    (v.session i).map (fun z => (z.expect, z.taken)) = some (c.seq + 1, c.seq) ∧ mget none v.qci.half i = none ∧
    OnlyChanges [.qci] s v) ∧
  (∀ w x c v s, Looks w preSession x c s → restarts preSession c = true → c.twoSlot = false →
    v = markTaken preSession x c (lookAt w.mailbox w.slot (slotLanded w s)) → slotFault v preSession x c none = none →
    exec (.slotCommitWrite w) s = exec (.hello (cmdOf c preSession) (u (slotBody x c) 0 8) (u (slotBody x c) 8 4)
      (u (slotBody x c) 12 2)) v ∧
    (v.session preSession).map (fun z => (z.expect, z.taken, z.done)) = some (2, 1, 0) ∧ OnlyChanges [.qci] s v ∧
    ∃ t, exec (.slotCommitWrite w) s = .next t) ∧
  (∀ w i x c s, Looks w i x c s → restarts i c = false → c.seq < x.expect →
    Runs (.slotCommitWrite w) s (fun t => t = lookAt w.mailbox w.slot (slotLanded w s) ∧ t.qci.sessions = s.qci.sessions ∧
      OnlyChanges [.qci] s t)) ∧
  (∀ w i x c s, Looks w i x c s → restarts i c = false → x.expect < c.seq →
    Runs (.slotCommitWrite w) s (fun t => t.session i = some { x with mbxOrder := sat 0xFFFF (x.mbxOrder + 1) } ∧
      (∀ o, o ≠ i → t.session o = s.session o) ∧ OnlyChanges [.qci] s t)) ∧
  (∀ port mailbox session va len x q s, portPresent s port = true → sessionRec s session = some x → windowServed s = true →
    x.mailbox = mailbox → 0x10000 ≤ va → va + len ≤ 0x20000 → s.qp (recordQp session x port) = some q →
    Runs (.statusWindowRead port mailbox session va len) s (fun t => OnlyChanges [.net, .out] s t ∧
      (t.qp (recordQp session x port)).map (fun z => z.rxPsn) = some ((q.rxPsn + readSpan q len) % 2 ^ 24) ∧
      (len ≤ dataRoom q → SendsPacket s (recordQp session x port / 2 ^ 24) len →
        Answered (recordQp session x port) q.rxPsn va (statusBytes s mailbox va len) t))) ∧
  (∀ s, (s.kp.stage = 0xA ∨ s.kp.stage = 0xC) → (s.pwr.retain < 3 ∨ s.pwr.retain = 8) →
    Runs .statusWindowSnapshot s (fun t => t.qci.snap = (s.qci.snap + 1) % 2 ^ 32 ∧ t.qci.snapStamp = hclkNow s ∧
      t.qci.winTaken = true ∧ t.qci.sessions = s.qci.sessions ∧ OnlyChanges [.qci] s t))

/-- Where the jig runs and the bay's one queued step can be admitted, it becomes admitted, or armed with a tag that is free while a
slot is, and the bay is ungated. One that R257 holds stays as it is; a faulty one ends with E_BAD_DESC; a first one that lacks
page sets is marked so and waits, or ends with E_PAGE_EXHAUSTED when its timeout is 0. Where the jig does not run, nothing is
queued, or the bay has its step admitted ahead, nothing changes. The end of a copy that is pending, at its turn on the pegs,
marks it done. A queued step whose admission times out while the framer runs leaves the jig. A step boundary of an idle bay that
may start starts the step that R261 chooses, and its length table stands in every joist's bench; where planned lengths no longer
hold it ends with E_RESET. A trigger, a placed packet with its immediate whose turn it is, that names an armed step of its bay
starts it on a bay that may start it, while no step triggered earlier could start; else it latches the step. It counts as
unmatched where it names none, and is no trigger outside the trigger window. Corners that the rules leave open follow the
model's choice (log entry 21). -/
def Obligations.StepsAreAdmittedAndStart : Prop :=
  (∀ bay x t s, jigRuns s bay = true → admitOrder s bay = [x] → stepOf s x.id = some x → x.arm = none →
    slotTaken s x = false →
    tryAdmit s x = .admitted t →
    Runs (.stepAdmit bay) s (fun u => u = ungate bay t ∧ (stepOf u x.id).map (fun z => z.phase) = some .admitted ∧
      (u.bayOf bay).map (fun y => y.gated) ≠ some true ∧ OnlyChanges [.bay, .rack, .jig, .joi, .mem] s u)) ∧
  (∀ bay x tag t s, jigRuns s bay = true → admitOrder s bay = [x] → stepOf s x.id = some x → x.arm = some tag →
    tryAdmit s x = .admitted t → tagArmed s bay tag = false → slotsFull s bay = false →
    Runs (.stepAdmit bay) s (fun u => u = forecast false (ungate bay t) ∧
      (stepOf u x.id).map (fun z => z.phase) = some .armed ∧ (u.bayOf bay).map (fun y => y.gated) ≠ some true ∧
      OnlyChanges [.clk, .bay, .rack, .jig, .joi, .mem, .rfr, .bnt, .thm] s u)) ∧
  (∀ bay s, jigRuns s bay = false ∨ admitOrder s bay = [] → Runs (.stepAdmit bay) s (fun u => u = s)) ∧
  (∀ bay x s, jigRuns s bay = true → admitOrder s bay = [x] → x.arm = none → slotTaken s x = true →
    Runs (.stepAdmit bay) s (fun u => u = s)) ∧
  (∀ bay x s, jigRuns s bay = true → admitOrder s bay = [x] → x.arm ≠ none ∨ slotTaken s x = false → tryAdmit s x = .held →
    Runs (.stepAdmit bay) s (fun u => u = s)) ∧
  (∀ bay x s, jigRuns s bay = true → admitOrder s bay = [x] → x.arm ≠ none ∨ slotTaken s x = false → tryAdmit s x = .bad →
    Runs (.stepAdmit bay) s (fun u => u = cancelStep .badDesc x s ∧ stepOf u x.id = none)) ∧
  (∀ bay x s, jigRuns s bay = true → admitOrder s bay = [x] → x.arm ≠ none ∨ slotTaken s x = false →
    tryAdmit s x = .lacking → x.admitTimeout = 0 →
    Runs (.stepAdmit bay) s (fun u => u = cancelStep .pageExhausted x (noteLack x s) ∧ stepOf u x.id = none)) ∧
  (∀ bay x l s, jigRuns s bay = true → admitOrder s bay = x :: l → stepOf s x.id = some x →
    x.arm ≠ none ∨ slotTaken s x = false → tryAdmit s x = .lacking → 0 < x.admitTimeout →
    Runs (.stepAdmit bay) s (fun u => (stepOf u x.id).map (fun z => (z.phase, z.lackedPages)) = some (.queued, true) ∧
      OnlyChanges [.bay, .jig] s u)) ∧
  (∀ bay target found y s, s.bayOf bay = some y →
    (∃ x c, x ∈ s.jig.steps ∧ x.bay = bay ∧ c ∈ x.grant.cows ∧ c.2.2.1 = target ∧ c.2.2.2 = false) →
    (∀ e, e ∈ pageBanks (bayJoists s y) [target] → pegTurn s e.1 e.2 = true) →
    Runs (.cowCopyDone bay ⟨target, found⟩) s (fun t =>
      (∀ x c, x ∈ s.jig.steps → x.bay = bay → c ∈ x.grant.cows → c.2.2.1 = target →
        ∃ z, z ∈ t.jig.steps ∧ z.id = x.id ∧ (c.1, c.2.1, c.2.2.1, true) ∈ z.grant.cows) ∧
      t.mem.bench = s.mem.bench ∧ OnlyChanges [.clk, .kp, .jig, .joi, .mem, .rfr, .ecc, .bnt] s t)) ∧
  (∀ x s, stepOf s x.id = some x → x.isQueued = true → s.qci.framerHalted = false →
    Runs (.admissionTimeout x.id) s (fun t =>
      t = cancelStep (if x.lackedPages then .pageExhausted else .timeout) x s ∧ stepOf t x.id = none)) ∧
  (∀ bay y x s s1, s1 = atBoundary bay s → s.bayOf bay = some y → runningStep s bay = none → mayStart s1 bay y = true →
    nextStep s1 bay = some x → planBroken s1 x = false →
    Runs (.stepBoundary bay) s (fun t => (runningStep t bay).map (fun z => (z.id, z.startKind)) =
        some (x.id, if x.phase = .latched then 2 else 0) ∧
      (t.bayOf bay).map (fun z => z.stage) = some 0 ∧ OnlyChanges [.clk, .cfg, .bay, .jig, .joi, .mem, .rfr, .bnt, .thm] s t)) ∧
  (∀ bay y x s s1, s1 = atBoundary bay s → s.bayOf bay = some y → runningStep s bay = none → mayStart s1 bay y = true →
    nextStep s1 bay = some x → planBroken s1 x = true →
    Runs (.stepBoundary bay) s (fun t => t = cancelStep .reset x s1 ∧ stepOf t x.id = none)) ∧
  (∀ bay y x s j lt k s1, s1 = atBoundary bay s → s.bayOf bay = some y → runningStep s bay = none → mayStart s1 bay y = true →
    nextStep s1 bay = some x → planBroken s1 x = false → lt = ((y.program.map (fun p => p.ltOff)).getD 0) →
    lt + (tableBytes x.table).length ≤ 262144 → j ∈ bayJoists s1 y → k < (tableBytes x.table).length →
    Runs (.stepBoundary bay) s (fun t =>
      mget 0 t.mem.bench (memKey false j (lt + k)) = (tableBytes x.table).getD k 0 ∧ t.mem.slice = s.mem.slice)) ∧
  (∀ bay window y x p (imm : BitVec 32) s, s.bayOf bay = some y → triggerPkt s bay window imm = some p → y.trigOn = true →
    y.trigWindow = window → imm.toNat < 2 ^ 22 → imm.toNat / 2 ^ 16 % 64 = bay →
    (stepsOf s bay).find? (fun x => x.phase == .armed && x.arm == some (imm.toNat % 2 ^ 16)) = some x →
    mayStart s bay y = true → stepFree s x = true → (triggered s bay).any (stepFree s) = false →
    planBroken (atBoundary bay s) x = false →
    Runs (.armedTrigger bay window imm) s (fun t =>
      (runningStep t bay).map (fun z => (z.id, z.startKind)) = some (x.id, 1) ∧
      (t.bayOf bay).map (fun z => z.matched) = some (sat 0x7FFF (y.matched + 1)))) ∧
  (∀ bay window y x p (imm : BitVec 32) s, s.bayOf bay = some y → triggerPkt s bay window imm = some p → y.trigOn = true →
    y.trigWindow = window → imm.toNat < 2 ^ 22 → imm.toNat / 2 ^ 16 % 64 = bay →
    (stepsOf s bay).find? (fun x => x.phase == .armed && x.arm == some (imm.toNat % 2 ^ 16)) = some x →
    (mayStart s bay y = false ∨ stepFree s x = false ∨ (triggered s bay).any (stepFree s) = true) →
    Runs (.armedTrigger bay window imm) s (fun t =>
      (stepOf t x.id).map (fun z => (z.phase, z.trigAt)) = some (.latched, s.jig.nextTrig) ∧ OnlyChanges [.jig, .net] s t)) ∧
  (∀ bay window y p (imm : BitVec 32) s, s.bayOf bay = some y → triggerPkt s bay window imm = some p → y.trigOn = true →
    y.trigWindow = window →
    (2 ^ 22 ≤ imm.toNat ∨ imm.toNat / 2 ^ 16 % 64 ≠ bay ∨
      (stepsOf s bay).find? (fun x => x.phase == .armed && x.arm == some (imm.toNat % 2 ^ 16)) = none) →
    Runs (.armedTrigger bay window imm) s (fun t => t.bayOf bay = some { y with unmatched := sat 0xFFFF (y.unmatched + 1) } ∧
      OnlyChanges [.bay, .net] s t)) ∧
  (∀ bay window (imm : BitVec 32) s, triggerPkt s bay window imm = none ∨
      (∀ y, s.bayOf bay = some y → y.trigOn = false ∨ y.trigWindow ≠ window) →
    Runs (.armedTrigger bay window imm) s (fun t => t = s))

/-- A GEMM, GEMV_STREAM or CONV that is the next stage of a running step runs and stands in the step's record, finished with the
status of its summary; every byte of benches and slices outside the output tensor (none with LEAVE_OPEN) and the slots in which
a GEMM or CONV stages weights of a slice (MX in whole blocks with a scale plane, or BF16) reads as before. With LEAVE_OPEN, no
replay, no marked unit and half-block buffers empty, each joist's groups hold, for every vector and chunk of sixteen columns,
the contributions of the operands in the order of the reduction at the stage's datum; a GEMM or GEMV_STREAM has no taps, and a
GEMV_STREAM takes MX operands. Corners that the rules leave open follow the model's choice (log entries 27, 28 and 29). -/
def Obligations.MatrixStagesRun : Prop :=
  (∀ ref r d s, StageReady ref r s → r.g.work = .gemm d →
    Runs (.gemm ref) s (fun t => (∃ a, a.ix = r.ix ∧ a.finished = true ∧ a.status = a.summary.status ∧ a.summary.replays ≤ 2 ∧
        Entered r a t) ∧
      (StagesPlainly r d →
        KeepsOutside r.js ((if d.leaveOpen then [] else tensorRegions r.img d.out) ++ [⟨false, d.stageAt, 64 * d.stageSlots⟩]) s t) ∧
      OnlyChanges [.clk, .kp, .bay, .jig, .joi, .mem, .ecc, .bnt] s t)) ∧
  (∀ ref r d s, StageReady ref r s → ref.found = [] → r.g.work = .gemm d → d.leaveOpen = true → r.g.num.replay = false →
    d.group + d.vectors * d.chunks ≤ 8 → r.js.Nodup → s.mem.benchMark = [] → s.mem.sliceMark = [] → StagesPlainly r d →
    (∀ j, j ∈ r.js → (s.joist j).trusses.length = 4 ∧ ∀ x, x ∈ (s.joist j).trusses → ∀ l, l ∈ x.half → l = []) →
    Runs (.gemm ref) s (fun t => LeavesSums r { d with taps := [] } s t)) ∧
  (∀ ref r d s, StageReady ref r s → r.g.work = .gemvStream d →
    Runs (.gemvStream ref) s (fun t => (∃ a, a.ix = r.ix ∧ a.finished = true ∧ a.status = a.summary.status ∧ a.summary.replays ≤ 2 ∧
        Entered r a t) ∧
      KeepsOutside r.js (if d.leaveOpen then [] else tensorRegions r.img d.out) s t ∧
      OnlyChanges [.clk, .kp, .bay, .jig, .joi, .mem, .ecc, .bnt] s t)) ∧
  (∀ ref r d s, StageReady ref r s → ref.found = [] → r.g.work = .gemvStream d → d.leaveOpen = true → r.g.num.replay = false →
    d.group + d.vectors * d.chunks ≤ 8 → r.js.Nodup → s.mem.benchMark = [] → s.mem.sliceMark = [] → d.isMx r.img = true →
    (∀ j, j ∈ r.js → (s.joist j).trusses.length = 4 ∧ ∀ x, x ∈ (s.joist j).trusses → ∀ l, l ∈ x.half → l = []) →
    Runs (.gemvStream ref) s (fun t => LeavesSums r { d with taps := [] } s t)) ∧
  (∀ ref r d s, StageReady ref r s → r.g.work = .conv d →
    Runs (.conv ref) s (fun t => (∃ a, a.ix = r.ix ∧ a.finished = true ∧ a.status = a.summary.status ∧ a.summary.replays ≤ 2 ∧
        Entered r a t) ∧
      (StagesPlainly r d →
        KeepsOutside r.js ((if d.leaveOpen then [] else tensorRegions r.img d.out) ++ [⟨false, d.stageAt, 64 * d.stageSlots⟩]) s t) ∧
      OnlyChanges [.clk, .kp, .bay, .jig, .joi, .mem, .ecc, .bnt] s t)) ∧
  (∀ ref r d s, StageReady ref r s → ref.found = [] → r.g.work = .conv d → d.leaveOpen = true → r.g.num.replay = false →
    d.group + d.vectors * d.chunks ≤ 8 → r.js.Nodup → s.mem.benchMark = [] → s.mem.sliceMark = [] → StagesPlainly r d →
    (∀ j, j ∈ r.js → (s.joist j).trusses.length = 4 ∧ ∀ x, x ∈ (s.joist j).trusses → ∀ l, l ∈ x.half → l = []) →
    Runs (.conv ref) s (fun t => LeavesSums r d s t))

/-- A NORM, ELTWISE or CONVERT that is the next stage of a running step runs and stands in the step's record, finished with the
status of its summary; every byte outside the output tensor reads as before. With no marked unit and an FP32 output tensor in
one piece of the bench, each element of each joist reads afterwards as the stage's result for it, from memory as the stage found
it, converted to FP32, or as the NaN marker where the result is poisoned. The elements of NORM are free values of their operands
(log entry 6). Corners that the rules leave open follow the model's choice (log entries 28 and 29). -/
def Obligations.ElementWiseStagesRun : Prop :=
  (∀ ref r d s, StageReady ref r s → r.g.work = .norm d →
    Runs (.norm ref) s (fun t => (∃ a, a.ix = r.ix ∧ a.finished = true ∧ a.status = a.summary.status ∧ Entered r a t) ∧
      KeepsOutside r.js (tensorRegions r.img d.out) s t ∧ OnlyChanges [.clk, .kp, .bay, .jig, .joi, .mem, .ecc, .bnt] s t)) ∧
  (∀ ref r d base len jx j i s, StageReady ref r s → ref.found = [] → r.g.work = .norm d → PlainBench r.img d.out base len →
    4 * d.count ≤ len → base + len ≤ 262144 → r.js.Nodup → s.mem.benchMark = [] → s.mem.sliceMark = [] →
    r.js[jx]? = some j → i < d.count →
    Runs (.norm ref) s (fun t => readMem t.mem false j (base + 4 * i) 4 =
      leBytes 4 (if (normElem r.img d s.mem j i).2 then nanMarker .fp32 else
        (convertScalar .fp32 .rne r.g.num (stochasticR r.g.num.seed 0 (logicalIx r.g jx d.count i))
          (normElem r.img d s.mem j i).1).1.code))) ∧
  (∀ ref r d s, StageReady ref r s → r.g.work = .eltwise d →
    Runs (.eltwise ref) s (fun t => (∃ a, a.ix = r.ix ∧ a.finished = true ∧ a.status = a.summary.status ∧ Entered r a t) ∧
      KeepsOutside r.js (tensorRegions r.img d.out) s t ∧ OnlyChanges [.clk, .kp, .bay, .jig, .joi, .mem, .ecc, .bnt] s t)) ∧
  (∀ ref r d base len jx j i s, StageReady ref r s → ref.found = [] → r.g.work = .eltwise d → PlainBench r.img d.out base len →
    4 * d.count ≤ len → base + len ≤ 262144 → r.js.Nodup → s.mem.benchMark = [] → s.mem.sliceMark = [] →
    r.js[jx]? = some j → i < d.count →
    Runs (.eltwise ref) s (fun t => readMem t.mem false j (base + 4 * i) 4 =
      leBytes 4 (if (eltElem r.img d s.mem j i).2 then nanMarker .fp32 else
        (convertScalar .fp32 .rne r.g.num (stochasticR r.g.num.seed 0 (logicalIx r.g jx d.count i))
          (eltElem r.img d s.mem j i).1).1.code))) ∧
  (∀ ref r d s, StageReady ref r s → r.g.work = .convert d →
    Runs (.convert ref) s (fun t => (∃ a, a.ix = r.ix ∧ a.finished = true ∧ a.status = a.summary.status ∧ Entered r a t) ∧
      KeepsOutside r.js (tensorRegions r.img d.out) s t ∧ OnlyChanges [.clk, .kp, .bay, .jig, .joi, .mem, .ecc, .bnt] s t)) ∧
  (∀ ref r d base len jx j i s, StageReady ref r s → ref.found = [] → r.g.work = .convert d → PlainBench r.img d.out base len →
    4 * d.count ≤ len → base + len ≤ 262144 → r.js.Nodup → s.mem.benchMark = [] → s.mem.sliceMark = [] →
    r.js[jx]? = some j → i < d.count →
    Runs (.convert ref) s (fun t => readMem t.mem false j (base + 4 * i) 4 =
      leBytes 4 (if (cvtElem r.img d s.mem j i).2 then nanMarker .fp32 else
        (convertScalar .fp32 (cvtMode r d) r.g.num (stochasticR r.g.num.seed 0 (logicalIx r.g jx d.count i))
          (cvtElem r.img d s.mem j i).1).1.code)))

/-- An ATTEND, ATTEND_BWD or SCATTER_KV that is the next stage of a running step runs and stands in the step's record, finished.
ATTEND and ATTEND_BWD pin the page sets they read and change no byte of any slice; with no marked unit and no replay they change
no byte of a bench outside the outputs, statistics and gradients that they store and their working state. A single output of an
ATTEND whose parts nothing overlaps reads afterwards as the stage's result. SCATTER_KV runs at its turn on the pegs of its banks
and changes no bench; a single new record of an unstriped stage reads in its page as it stood at SRC. Corners that the rules
leave open follow the model's choice (log entries 28, 37 and 38). -/
def Obligations.AttentionStagesRun : Prop :=
  (∀ ref r d s, StageReady ref r s → r.g.work = .attend d →
    Runs (.attend ref) s (fun t => (∃ a x, a.ix = r.ix ∧ a.finished = true ∧ stepOf t r.x.id = some x ∧ x.nextIx = r.ix + 1 ∧
        x.active = r.x.active ++ [a] ∧
        (∀ e, e ∈ readPages (meetStage r.x.id (mine r r.found) (startCapture r s)) r d → (r.ix, e.1, e.2) ∈ x.pins)) ∧
      t.mem.slice = s.mem.slice ∧ OnlyChanges [.clk, .kp, .bay, .rack, .jig, .joi, .mem, .ecc, .bnt] s t)) ∧
  (∀ ref r d l root k s, StageReady ref r s → ref.found = [] → r.g.work = .attend d → r.g.num.replay = false →
    s.mem.benchMark = [] → s.mem.sliceMark = [] → l = attEnts s r d → root = (r.js.head?).getD 0 →
    (∀ n x, (attendOuts s.mem r d 0 l).1[n]? = some x →
      (∀ w, w ∈ partWrites r.g d 4 d.outDst n x.out → k < memKey false root w.1 ∨ memKey false root w.1 + w.2.length ≤ k) ∧
      (d.saveStats = true → k < memKey false root (d.statsOff + 8 * n) ∨
        memKey false root (d.statsOff + 8 * n) + x.stats.length ≤ k)) →
    (∀ j, j ∈ r.js → k < memKey false j d.stateOff ∨
      memKey false j d.stateOff + d.maxRows * d.heads * (4 * d.latent + 8) ≤ k) →
    Runs (.attend ref) s (fun t => mget 0 t.mem.bench k = mget 0 s.mem.bench k)) ∧
  (∀ ref r d l root x ws s, StageReady ref r s → ref.found = [] → r.g.work = .attend d → r.g.num.replay = false →
    s.mem.benchMark = [] → s.mem.sliceMark = [] → l = attEnts s r d → root = (r.js.head?).getD 0 →
    (attendOuts s.mem r d 0 l).1 = [x] → d.saveStats = false → ws = partWrites r.g d 4 d.outDst 0 x.out →
    ws.Pairwise (fun a b => a.1 + a.2.length ≤ b.1 ∨ b.1 + b.2.length ≤ a.1) → (∀ w, w ∈ ws → w.1 + w.2.length ≤ d.stateOff) →
    d.stateOff + d.maxRows * d.heads * (4 * d.latent + 8) ≤ 262144 →
    Runs (.attend ref) s (fun t => ∀ w, w ∈ ws → readMem t.mem false root w.1 w.2.length = w.2)) ∧
  (∀ ref r d s, StageReady ref r s → r.g.work = .attendBwd d →
    Runs (.attendBwd ref) s (fun t => (∃ a x, a.ix = r.ix ∧ a.finished = true ∧ stepOf t r.x.id = some x ∧ x.nextIx = r.ix + 1 ∧
        x.active = r.x.active ++ [a] ∧
        (∀ e, e ∈ readPages (meetStage r.x.id (mine r r.found) (startCapture r s)) r d → (r.ix, e.1, e.2) ∈ x.pins)) ∧
      t.mem.slice = s.mem.slice ∧ OnlyChanges [.clk, .kp, .bay, .rack, .jig, .joi, .mem, .ecc, .bnt] s t)) ∧
  (∀ ref r d xs k s, StageReady ref r s → ref.found = [] → r.g.work = .attendBwd d → r.g.num.replay = false →
    s.mem.benchMark = [] → s.mem.sliceMark = [] →
    xs = (r.js.mapIdx (fun n j => (n, j))).map (fun e => bwdJoist s.mem r d 0 (attEnts s r d) e.1 e.2) →
    (∀ w p, w ∈ (dqWrites s.mem r d 0 xs).1 ++ xs.flatMap (fun x => (dcWrites s.mem r d 0 x).1) → p ∈ w.parts →
      k < memKey false w.j p.1 ∨ memKey false w.j p.1 + p.2.length ≤ k) →
    (∀ j, j ∈ r.js → k < memKey false j d.stateOff ∨
      memKey false j d.stateOff + d.maxRows * d.heads * (4 * d.latent + 8) ≤ k) →
    Runs (.attendBwd ref) s (fun t => mget 0 t.mem.bench k = mget 0 s.mem.bench k)) ∧
  (∀ ref r d s, StageReady ref r s → r.g.work = .scatterKv d →
    (∀ e, e ∈ scatterBanks s r → pegTurn s e.1 e.2 = true) →
    Runs (.scatterKv ref) s (fun t => (∃ a, a.ix = r.ix ∧ a.finished = true ∧ (a.status = a.summary.status ∨ a = r.failed .uncorrectable) ∧ ∃ x, stepOf t r.x.id = some x ∧ x.nextIx = r.ix + 1 ∧ x.active = r.x.active ++ [a]) ∧
      t.mem.bench = s.mem.bench ∧ OnlyChanges [.clk, .kp, .bay, .rack, .jig, .joi, .mem, .rfr, .ecc, .bnt] s t)) ∧
  (∀ ref r d j e q page base s, StageReady ref r s → ref.found = [] → r.g.work = .scatterKv d → d.stripe.s = 1 →
    r.js = [j] → r.x.table = [e] → e.append = 1 → s.seqRec e.seqId = some q → q.isOpen = true →
    (∀ e, e ∈ scatterBanks s r → pegTurn s e.1 e.2 = true) → r.x.grant.staging = [] → s.mem.benchMark = [] → s.mem.sliceMark = [] → d.stripe.recBytes ≤ 16384 →
    page = q.entries.getD (q.length / r.y.pageTokens) 0 →
    base = page * 16384 + d.stripe.regionOff + q.length % r.y.pageTokens * d.stripe.recBytes →
    Runs (.scatterKv ref) s (fun t => readMem t.mem true j base d.stripe.recBytes = readMem s.mem false j d.src d.stripe.recBytes))

/-- A PEG_SEQ that is the next stage of a running step waits for one in progress, and fails with E_UNCORRECTABLE where its list or
another control word cannot be corrected. Otherwise it runs: the step's record shows it unfinished, every joist of the bay holds
the list, every peg of a masked bank is set up from its start, and no byte of memory changes. The end of a segment of a peg that
is neither halted nor at the end of its list advances it by the instructions of the segment. At the end of its list the peg is
no longer busy, and when no other peg of a bay of one joist is busy and no replay is asked for the stage is finished. The errors
that a segment's reads meet are met with it. Corners that the rules leave open follow the model's choice (log entry 32). -/
def Obligations.PegSequencesRun : Prop :=
  (∀ ref r d s, StageReady ref r s → r.g.work = .pegSeq d → pegsBusy r = true → Runs (.pegSeq ref) s (fun t => t = s)) ∧
  (∀ ref r d s, StageReady ref r s → r.g.work = .pegSeq d → pegsBusy r = false → controlLost r.found = true →
    Runs (.pegSeq ref) s (fun t => Entered r (r.failed .uncorrectable) t ∧ t.mem.slice = s.mem.slice ∧ t.mem.bench = s.mem.bench ∧
      OnlyChanges [.clk, .kp, .bay, .jig, .joi, .mem, .ecc, .bnt] s t)) ∧
  (∀ ref r d s, StageReady ref r s → r.g.work = .pegSeq d → pegsBusy r = false → controlLost r.found = false →
    Runs (.pegSeq ref) s (fun t => Entered r { ix := r.ix, finished := false } t ∧
      (∀ j, j ∈ r.js → (t.joist j).pegList = d.list ∧ (t.joist j).pegBay = r.bay ∧ (t.joist j).pegStage = r.ix) ∧
      (∀ j b, j ∈ r.js → b ∈ d.banks → b < 32 → (t.peg j b).busy = true ∧ (t.peg j b).ip = 0 ∧
        (t.peg j b).bregs = (d.bcast ++ List.replicate 8 0).take 8) ∧
      t.mem.slice = s.mem.slice ∧ t.mem.bench = s.mem.bench ∧
      OnlyChanges [.clk, .kp, .bay, .jig, .joi, .mem, .rfr, .ecc, .bnt] s t)) ∧
  (∀ joist bank found m r d a u l s, m = (found.filter (fun f => f.joist = joist ∧ f.unit = bank)).map
      (fun f => { classed s f with src := 3 }) → (s.peg joist bank).inSegment = true → pegRunOf s joist = some (r, d, a) → bank < 24 →
    runSegment r joist bank m s = u → l = (s.joist joist).pegList → u.2.1.halted = false → u.2.2 < l.length → joist ∈ r.js →
    (s.peg joist bank).busy = true →
    Runs (.pegSegmentEnd joist bank found) s (fun t =>
      (t.peg joist bank).busy = true ∧ (t.peg joist bank).ip = (s.peg joist bank).ip +
        (takeOps 48 (l.drop (s.peg joist bank).ip)).length ∧
      (t.peg joist bank).bregs = u.2.1.bregs ∧ t.mem.bench = s.mem.bench ∧
      OnlyChanges [.clk, .kp, .jig, .joi, .mem, .rfr, .ecc, .bnt] s t)) ∧
  (∀ joist bank found m r d a u s, m = (found.filter (fun f => f.joist = joist ∧ f.unit = bank)).map
      (fun f => { classed s f with src := 3 }) → (s.peg joist bank).inSegment = true → pegRunOf s joist = some (r, d, a) → bank < 24 →
    runSegment r joist bank m s = u → u.2.1.halted = false → (s.joist joist).pegList.length ≤ u.2.2 → joist ∈ r.js →
    r.g.num.replay = false → stepOf s r.x.id = some r.x → r.js = [joist] → (∀ b, b < 24 → b ≠ bank → (s.peg joist b).busy = false) →
    Runs (.pegSegmentEnd joist bank found) s (fun t => (t.peg joist bank).busy = false ∧
      (∃ z x, stepOf t r.x.id = some x ∧ z ∈ x.active ∧ z.ix = r.ix ∧ z.finished = true) ∧
      OnlyChanges [.clk, .kp, .jig, .joi, .mem, .rfr, .ecc, .bnt] s t))

/-- A REDUCE or CULL without an exchange list whose control and DMA words read runs and finishes. With nothing found and no marked
unit a REDUCE of FP32 vectors stores at DST of the bay's first joist, or of every joist with TO_ALL, the vector that the merges
of the brace tree give, and a CULL without sampling a record for each row of the merged lists. A REDUCE of sums finishes with
the status of its summary; a group that is not open fails it with E_BAD_DESC. With an exchange list, nothing found and no marked
unit, a REDUCE of vectors or a CULL whose position is even and has a partner waits unfinished with the bay's result; a REDUCE of
vectors at an odd position hands its vector to the partner's queue pair and finishes, or fails as that peer stands, or with
E_DMA_UE over a halted channel. Where an empty inbox and no other level remain, the partner's vector, arriving for this stage,
level and step, is merged, stored and finishes the stage. An arrival that no stage waits for, or that the waiting stage does not
take, is discarded into the event log. At its timeout the stage finishes with E_TIMEOUT, or with E_PEER_FENCED after a fence
refusal of this stage. Corners that the rules leave open follow the model's choice (log entries 31, 45, 46 and 47). -/
def Obligations.ReductionsRun : Prop :=
  (∀ ref r d s, StageReady ref r s → r.g.work = .reduce d → d.op ≠ .sumDatum → d.exch.count < 2 → controlLost r.found = false →
    dmaLost r.found = false →
    Runs (.reduce ref) s (fun t => (∃ a, a.ix = r.ix ∧ a.finished = true ∧ a.status = a.summary.status ∧ Entered r a t) ∧
      KeepsOutside (outJoists r d.toAll) [benchRegion d.dst (4 * d.elements)] s t ∧
      OnlyChanges [.clk, .kp, .bay, .jig, .joi, .mem, .ecc, .bnt] s t)) ∧
  (∀ ref r d j i x s, StageReady ref r s → ref.found = [] → r.g.work = .reduce d → d.op ≠ .sumDatum → d.exch.count < 2 →
    j ∈ outJoists r d.toAll → d.dst + 4 * d.elements ≤ 262144 → s.mem.benchMark = [] → s.mem.sliceMark = [] → (treeVector r d s)[i]? = some x →
    Runs (.reduce ref) s (fun t => readMem t.mem false j (d.dst + 4 * i) 4 = leBytes 4 x.1.toNat)) ∧
  (∀ ref r d s, StageReady ref r s → controlLost r.found = false → dmaLost r.found = false → r.g.work = .reduce d →
    d.op = .sumDatum → d.exch.count < 2 → r.js.any (fun j => d.groups.any (fun k => !(s.group j k).isOpen)) = false →
    Runs (.reduce ref) s (fun t => (∃ a, a.ix = r.ix ∧ a.finished = true ∧ a.status = a.summary.status ∧ a.summary.replays ≤ 2 ∧
        Entered r a t) ∧ t.mem.slice = s.mem.slice ∧ OnlyChanges [.clk, .kp, .bay, .jig, .joi, .mem, .ecc, .bnt] s t)) ∧
  (∀ ref r d s, StageReady ref r s → controlLost r.found = false → dmaLost r.found = false → r.g.work = .reduce d →
    d.op = .sumDatum → exchLost s r.y.tenancy d.exch = false →
    r.js.any (fun j => d.groups.any (fun k => !(s.group j k).isOpen)) = true →
    Runs (.reduce ref) s (fun t => Entered r (r.failed .badDesc) t)) ∧
  (∀ ref r d s, StageReady ref r s → ref.found = [] → r.g.work = .reduce d → d.op ≠ .sumDatum → d.exch.pos % 2 = 0 →
    d.exch.pos + 1 < d.exch.count → exchLost s r.y.tenancy d.exch = false → s.mem.benchMark = [] → s.mem.sliceMark = [] →
    Runs (.reduce ref) s (fun t => Entered r { ix := r.ix, finished := false, device := (some { level := 0, vector := vectorUp (treeVector r d s) }), waiting := true, startedAt := hclkNow s } t ∧ t.mem = s.mem ∧
      OnlyChanges [.clk, .bay, .jig, .joi, .bnt] s t)) ∧
  (∀ ref r d s, StageReady ref r s → ref.found = [] → r.g.work = .reduce d → d.op ≠ .sumDatum → d.exch.pos % 2 = 1 →
    2 ≤ d.exch.count → d.toAll = false → exchLost s r.y.tenancy d.exch = false → s.mem.benchMark = [] → s.mem.sliceMark = [] →
    Runs (.reduce ref) s (fun t => (∃ a, a.ix = r.ix ∧ Entered r a t ∧
        (r.y.dmaHalted = true → a = r.failed .dmaUe) ∧
        (∀ e, r.y.dmaHalted = false → peerReady s r.y.tenancy (d.exch.list.getD (d.exch.pos - 1) 0) = .ok e → a.finished = !a.posting ∧ a.status = a.summary.status) ∧
        (∀ st, r.y.dmaHalted = false → peerReady s r.y.tenancy (d.exch.list.getD (d.exch.pos - 1) 0) = .error st → a = r.failed st)) ∧ t.mem = s.mem ∧
      OnlyChanges [.clk, .bay, .jig, .joi, .net, .out, .bnt] s t)) ∧
  (∀ ref r d s, StageReady ref r s → r.g.work = .cull d → d.exch.count < 2 → controlLost r.found = false → dmaLost r.found = false →
    Runs (.cull ref) s (fun t => (∃ a, a.ix = r.ix ∧ a.finished = true ∧ a.status = a.summary.status ∧ Entered r a t) ∧
      OnlyChanges [.clk, .kp, .bay, .jig, .joi, .mem, .ecc, .bnt] s t)) ∧
  (∀ ref r d j k e s, StageReady ref r s → ref.found = [] → r.g.work = .cull d → d.exch.count < 2 → j ∈ outJoists r d.toAll →
    d.dst + d.rows * cullSize d ≤ 262144 → s.mem.benchMark = [] → s.mem.sliceMark = [] → d.sample = false → (cullTree s r d)[k]? = some e →
    Runs (.cull ref) s (fun t =>
      readMem t.mem false j (d.dst + k * cullSize d) (cullSize d) = cullRecord d e.1 none ∧
      KeepsOutside (outJoists r d.toAll) [benchRegion d.dst (d.rows * cullSize d)] s t)) ∧
  (∀ ref r d s, StageReady ref r s → ref.found = [] → r.g.work = .cull d → d.exch.pos % 2 = 0 → d.exch.pos + 1 < d.exch.count →
    exchLost s r.y.tenancy d.exch = false → s.mem.benchMark = [] → s.mem.sliceMark = [] →
    Runs (.cull ref) s (fun t => Entered r { ix := r.ix, finished := false, device := (some { level := 0, lists := (cullTree s r d).map (fun e => e.1) }), waiting := true, startedAt := hclkNow s } t ∧ t.mem = s.mem ∧
      OnlyChanges [.clk, .bay, .jig, .joi, .bnt] s t)) ∧
  (∀ bay r a w d v root i x s, levelWait s bay = some (r, a, w) → r.g.work = .reduce d → d.op ≠ .sumDatum →
    d.exch.pos = 0 → 2 ^ w.level < d.exch.count → d.exch.count ≤ 2 ^ (w.level + 1) → d.toAll = false → w.back = false →
    v.length = d.elements → stepOf s r.x.id = some r.x → r.js.head? = some root → (s.joist root).inbox = [] →
    (List.zipWith (redOp d.op) w.vector v)[i]? = some x →
    Runs (.braceImageArrival bay (.vector r.ix (treeDepth r.y + w.level) (imageStep r.x) v)) s (fun t =>
      readMem t.mem false root (d.dst + 4 * i) 4 = leBytes 4 x.toNat ∧
      (∃ x z, stepOf t r.x.id = some x ∧ z ∈ x.active ∧ z.ix = r.ix ∧ z.finished = true ∧ z.device = none) ∧
      OnlyChanges [.jig, .joi, .mem] s t)) ∧
  (∀ bay m s, (∀ e, levelWait s bay = some e → accepted e.1 e.2.1 e.2.2 m s = none) →
    Runs (.braceImageArrival bay m) s (fun t =>
      t.net.events = s.net.events ++ [.image bay (arrivalTag m).1 (arrivalTag m).2.1 (arrivalTag m).2.2] ∧
      OnlyChanges [.net] s t)) ∧
  (∀ bay r a w s, levelWait s bay = some (r, a, w) → stepOf s r.x.id = some r.x →
    Runs (.deviceLevelTimeout bay r.ix) s (fun t =>
      (∃ x z, stepOf t r.x.id = some x ∧ z ∈ x.active ∧ z.ix = r.ix ∧ z.finished = true ∧
        z.status = (if r.x.fencedStages.contains r.ix then .peerFenced else .timeout) ∧ z.device = none) ∧
      OnlyChanges [.jig, .joi] s t))

/-- A STATS whose window is bound and holds the record runs, stands finished in the step's record and writes no byte outside the
record's place; one whose window is not fails with E_BAD_DESC. An EXCHANGE with nothing found, a ready peer, a running channel
and no marked bench word hands the packets of its sending joists' bytes to that peer's sending order and stands in the record,
its memory unchanged; on a halted channel, or where a word of the hub's DMA buffers is lost, it fails with E_DMA_UE, and without
a peer that can be sent to with the status that says why. An AWAIT whose count has been reached stands finished; otherwise it
waits, and the step records that it has waited. At its timeout a waiting AWAIT finishes with E_TIMEOUT, or with E_PEER_FENCED
after a fence refusal, and its wait is added to the step's. Corners that the rules leave open follow the model's choice (log
entries 30, 35, 49 and 50). -/
def Obligations.DataStagesRun : Prop :=
  (∀ ref r d l s, StageReady ref r s → r.g.work = .stats d →
    recordPlaces (meetStage r.x.id (mine r r.found) (startCapture r s)) r.y.tenancy d = some l →
    Runs (.stats ref) s (fun t => (∃ a, a.ix = r.ix ∧ a.finished = true ∧ a.status = a.summary.status ∧ Entered r a t) ∧
      t.mem.bench = s.mem.bench ∧
      (∀ k, (∀ e, e ∈ l → k < memKey true e.1 e.2.1 ∨ memKey true e.1 e.2.1 + e.2.2 ≤ k) →
        mget 0 t.mem.slice k = mget 0 s.mem.slice k) ∧ OnlyChanges [.clk, .kp, .bay, .jig, .joi, .mem, .ecc, .bnt] s t)) ∧
  (∀ ref r d s, StageReady ref r s → r.g.work = .stats d →
    recordPlaces (meetStage r.x.id (mine r r.found) (startCapture r s)) r.y.tenancy d = none →
    Runs (.stats ref) s (fun t => Entered r (r.failed .badDesc) t)) ∧
  (∀ ref r d e u w s, StageReady ref r s → ref.found = [] → r.g.work = .exchange d → peerReady s r.y.tenancy d.peer = .ok e →
    r.y.dmaHalted = false → s.mem.benchMark = [] → u = startCapture r s →
    w = sendToPeer r.y.tenancy d.peer (gatherSends u r d e.1 e.2).1 u →
    Runs (.exchange ref) s (fun t => t = enterStage r (posted { ix := r.ix } w.2) w.1 ∧
      Entered r (posted { ix := r.ix } w.2) t ∧ t.mem = s.mem ∧ OnlyChanges [.clk, .bay, .jig, .joi, .net, .out, .bnt] s t)) ∧
  (∀ ref r d e s, StageReady ref r s → ref.found = [] → r.g.work = .exchange d → peerReady s r.y.tenancy d.peer = .ok e →
    r.y.dmaHalted = true →
    Runs (.exchange ref) s (fun t => Entered r (r.failed .dmaUe) t ∧ OnlyChanges [.clk, .bay, .jig, .joi, .bnt] s t)) ∧
  (∀ ref r d s, StageReady ref r s → dmaLost r.found = true → r.g.work = .exchange d →
    Runs (.exchange ref) s (fun t => Entered r (r.failed .dmaUe) t ∧ (t.bayOf r.bay).map (fun y => y.dmaHalted) = some true)) ∧
  (∀ ref r d st s, StageReady ref r s → ref.found = [] → r.g.work = .exchange d → peerReady s r.y.tenancy d.peer = .error st →
    Runs (.exchange ref) s (fun t => Entered r (r.failed st) t ∧ OnlyChanges [.clk, .bay, .jig, .joi, .bnt] s t)) ∧
  (∀ ref r d s, StageReady ref r s → r.g.work = .await d → d.count ≤ arrivals s r.bay r.x.jigSeq d.window →
    Runs (.await ref) s (fun t => Entered r { ix := r.ix } t ∧ OnlyChanges [.clk, .kp, .bay, .jig, .joi, .mem, .ecc, .bnt] s t)) ∧
  (∀ ref r d s, StageReady ref r s → r.g.work = .await d → arrivals s r.bay r.x.jigSeq d.window < d.count →
    Runs (.await ref) s (fun t => Entered r { ix := r.ix, finished := false, waiting := true, startedAt := hclkNow s } t ∧
      (stepOf t r.x.id).map (fun x => x.awaited) = some true ∧ OnlyChanges [.clk, .kp, .bay, .jig, .joi, .mem, .ecc, .bnt] s t)) ∧
  (∀ bay ix img x a s, (s.bayOf bay).bind (fun y => y.program) = some img → runningStep s bay = some x → stepOf s x.id = some x →
    (awaitOf img ix).isSome = true → x.active = [a] → a.ix = ix → a.finished = false →
    Runs (.awaitTimeout bay ix) s (fun t =>
      (∃ z, stepOf t x.id = some z ∧ z.active = [{ a with finished := true, waiting := false, status := (if x.peerFenced then .peerFenced else .timeout) }] ∧
        z.awaitWait = sat 0xFFFFFFFF (x.awaitWait + a.waited s)) ∧ OnlyChanges [.jig] s t))

/-- STAGE_END of a finished stage takes it out of the step's running stages and counts it; when no stage runs and none is to follow,
or the step must end, the step leaves the jig and its completion is posted. A deadline of 0 never expires; while the framer
runs, that of a command of a tenancy with timeouts that is no STEP_RUN, no margin run and none of those whose DEADLINE is
ignored completes it with E_TIMEOUT; that of its running step stops it and begins a partition reset of its bay's bents, or
leaves its completion to the reset that already covers them. A bay is gated while no step is beyond its queue; ungating ends its
wait. Corners that the rules leave open follow the model's choice (log entries 23 and 36). -/
def Obligations.StagesAndStepsEnd : Prop :=
  (∀ bay ix y x a s, s.bayOf bay = some y → runningStep s bay = some x → stepOf s x.id = some x →
    x.active.find? (fun a => a.ix = ix) = some a → a.finished = true →
    (x.active.filter (fun e => e.ix ≠ ix) ≠ [] ∨
      (goesOn a.status = true ∧ x.stopping = false ∧ x.nextIx < (bayStages y).length)) →
    Runs (.stageEnd bay ix) s (fun t => (∃ z, stepOf t x.id = some z ∧ z.active = x.active.filter (fun e => e.ix ≠ ix) ∧
        z.stopping = (x.stopping || !goesOn a.status) ∧ z.ended = x.ended ++ [(ix, a.status, a.summary)] ∧ z.phase = .running) ∧
      (t.bayOf bay).map (fun z => z.ends) = some ((y.ends + 1) % 2 ^ 16) ∧ t.qci.jigBeat = (s.qci.jigBeat + 1) % 256 ∧
      OnlyChanges [.qci, .bay, .rack, .jig] s t)) ∧
  (∀ bay ix y x a s, s.bayOf bay = some y → runningStep s bay = some x → stepOf s x.id = some x →
    x.active.find? (fun a => a.ix = ix) = some a → a.finished = true → x.active.filter (fun e => e.ix ≠ ix) = [] →
    (goesOn a.status = false ∨ x.stopping = true ∨ (bayStages y).length ≤ x.nextIx) →
    Runs (.stageEnd bay ix) s (fun t => ∃ v u, t = finish x.cx 0x0040 v u ∧ v.result.head? = some x.jigSeq ∧ stepOf u x.id = none ∧
      (u.bayOf bay).map (fun z => z.stage) = some 0xFFFF ∧ OnlyChanges [.qci, .bay, .rack, .jig, .joi, .mem] s u)) ∧
  (∀ session seq u s, s.qci.taken.find? (fun t => t.session = session ∧ t.seq = seq) = some u → u.deadline = 0 →
    Runs (.deadlineExpiry session seq) s (fun t => t = s)) ∧
  (∀ session seq u s, s.qci.taken.find? (fun t => t.session = session ∧ t.seq = seq) = some u → u.deadline ≠ 0 →
    s.qci.framerHalted = false → u.opcode ≠ 0x0040 → u.opcode ≠ 0x00B4 → ignoresDeadline u.opcode = false →
    timesOut s u.session = true →
    EndsWith (.deadlineExpiry session seq) { session := u.session, seq := u.seq, tag := u.tag, port := u.port, deadline := u.deadline } u.opcode
      .timeout s (fun v => v = abandon u.session u.seq s ∧ OnlyChanges [.cfg, .net] s v)) ∧
  (∀ session seq u x y s, s.qci.taken.find? (fun t => t.session = session ∧ t.seq = seq) = some u → u.deadline ≠ 0 →
    s.qci.framerHalted = false → u.opcode = 0x0040 → timesOut s u.session = true →
    s.jig.steps.find? (fun x => x.cx.session = u.session ∧ x.cx.seq = u.seq) = some x → x.phase = .running →
    s.bayOf x.bay = some y → coveringReset y s = none → bayBents y ≠ [] → (bayBents y).any (bentsInReset s).contains = false →
    Runs (.deadlineExpiry session seq) s (fun t => stepOf t x.id = none ∧
      (∃ r, r ∈ t.pwr.resets ∧ r.bents = bayBents y ∧ r.cause = 1 ∧ ∃ v, (x.cx, 0x0040, v) ∈ r.late ∧ v.status = .timeout))) ∧
  (∀ session seq u x y o s, s.qci.taken.find? (fun t => t.session = session ∧ t.seq = seq) = some u → u.deadline ≠ 0 →
    s.qci.framerHalted = false → u.opcode = 0x0040 → timesOut s u.session = true →
    s.jig.steps.find? (fun x => x.cx.session = u.session ∧ x.cx.seq = u.seq) = some x → x.phase = .running →
    s.bayOf x.bay = some y → coveringReset y s = some o →
    Runs (.deadlineExpiry session seq) s (fun t => stepOf t x.id = none ∧
      (∃ r, r ∈ t.pwr.resets ∧ r.id = o.id ∧ ∃ v, (x.cx, 0x0040, v) ∈ r.late ∧ v.status = .timeout))) ∧
  (∀ bay s, (stepsOf s bay).all (fun x => x.isQueued) = false → Runs (.bayGate bay) s (fun t => t = s)) ∧
  (∀ bay y s, (stepsOf s bay).all (fun x => x.isQueued) = true → s.bayOf bay = some y →
    Runs (.bayGate bay) s (fun t => t.bayOf bay = some { y with gated := true, ungating := false } ∧
      (∀ o, o ≠ bay → t.bayOf o = s.bayOf o) ∧ OnlyChanges [.bay] s t)) ∧
  (∀ bay y s, s.bayOf bay = some y →
    Runs (.bayUngated bay) s (fun t => t.bayOf bay = some { y with ungating := false } ∧
      (∀ o, o ≠ bay → t.bayOf o = s.bayOf o) ∧ OnlyChanges [.bay] s t))

/-- A reset that stands at FENCE, with no POWER_RETAIN waiting, raises JOB_EPOCH and fences its bents under the new epoch, counting
in RESETS unless a trip began it, and releases the bays on them: no step of a released bay waits any more, and their margin runs
end. DRAIN waits for fence-mode and host traffic that was taken for a bent and is not acknowledged, 20 us at most, and leads to
STOP, after a trip to CLEAR. STOP takes every running step of a released bay out of the jig and puts the bents' laminations into
self-refresh; QUIESCE stops their clocks at 40 A/us; CLEAR brings their joists, groups, pegs, benches and error counts to reset,
the slices' contents kept. Other bents keep their fence. Corners that the rules leave open follow the model's choice (log entry
60). -/
def Obligations.PartitionResetRuns : Prop :=
  (∀ r z s, resetOf s r = some z → z.phase = 0 → z.cause ≠ 3 → z.bents.Nodup → s.pwr.retainCx = none →
    Runs (.partitionFence r) s (fun t => t.net.jobEpoch = (s.net.jobEpoch + 1) % 2 ^ 32 ∧
      (∀ b, b ∈ z.bents → (t.bent b).isFenced = true ∧ (t.bent b).scribeEpoch = (s.net.jobEpoch + 1) % 2 ^ 32 ∧
        (t.bent b).resets = sat 0x7F ((s.bent b).resets + 1) ∧ (t.bent b).margining = none) ∧
      (∀ b, b ∉ z.bents → t.bent b = s.bent b) ∧
      (∃ y, resetOf t r = some y ∧ y.phase = 1 ∧ y.released = baysOnBents s z.bents) ∧
      (∀ n x, n ∈ baysOnBents s z.bents → x ∈ stepsOf t n → x.phase = .running) ∧
      OnlyChanges [.clk, .kp, .cfg, .qci, .bay, .rack, .jig, .joi, .mem, .bnt, .net, .pwr, .out] s t)) ∧
  (∀ r z s, resetOf s r = some z → z.phase = 1 → drainWaits z s = true → Runs (.partitionDrain r) s (fun t => t = s)) ∧
  (∀ r z s, resetOf s r = some z → z.phase = 1 → drainWaits z s = false →
    Runs (.partitionDrain r) s (fun t => (resetOf t r).map (fun y => y.phase) = some (if z.cause = 3 then 4 else 2) ∧
      OnlyChanges [.pwr] s t)) ∧
  (∀ r z s, resetOf s r = some z → z.phase = 2 →
    Runs (.partitionStop r) s (fun t => (resetOf t r).map (fun y => y.phase) = some 3 ∧
      (∀ n x, n ∈ z.released → runningStep s n = some x → stepOf t x.id = none) ∧
      (∀ b, b ∈ z.bents → (t.bent b).inSelfRefresh = true ∧ (t.bent b).refreshOn = false) ∧
      OnlyChanges [.clk, .kp, .bay, .rack, .jig, .joi, .mem, .rfr, .ecc, .bnt, .net, .pwr] s t)) ∧
  (∀ r z s, resetOf s r = some z → z.phase = 3 →
    Runs (.partitionQuiesce r) s (fun t => (resetOf t r).map (fun y => y.phase) = some 4 ∧
      (∀ b, b ∈ z.bents → (t.bent b).stopped = true ∧ (t.bent b).ballast = 40) ∧ (∀ b, b ∉ z.bents → t.bent b = s.bent b) ∧
      OnlyChanges [.bnt, .pwr] s t)) ∧
  (∀ r z s, resetOf s r = some z → z.phase = 4 →
    Runs (.partitionClear r) s (fun t => (resetOf t r).map (fun y => y.phase) = some 5 ∧
      (∀ j, keyBent j ∈ z.bents → { t.joist j with touchedBy := none } = ({} : Joist) ∧
        (∀ d, (s.joist j).touchedBy = some d → (t.joist j).touchedBy = some d) ∧ (∀ g, g < 8 → t.group j g = {}) ∧ (∀ b, b < 32 → t.peg j b = {} ∧ t.refresh j b = {})) ∧
      (∀ j, keyBent j ∉ z.bents → t.joist j = s.joist j) ∧
      (∀ b a, b ∈ z.bents → b * 1344 * 262144 ≤ a → a < (b + 1) * 1344 * 262144 → mget 0 t.mem.bench a = 0) ∧
      (∀ a, a / (1344 * 262144) ∉ z.bents → mget 0 t.mem.bench a = mget 0 s.mem.bench a) ∧ t.mem.slice = s.mem.slice ∧
      OnlyChanges [.joi, .mem, .rfr, .ecc, .bnt, .net, .pwr, .out] s t))

/-- After a reset that is no trip's RECLAIM leaves no released bay defined and the other bays alone. SLICES resumes refresh in the
bents, RAISE runs their clocks unless a drop stands, RELOAD sends every usable joist of them its microcode and ends when none
asked misses a packet; otherwise a repair round begins for those that do, and after the third one they are retired, the bents of
those in service out of service. DONE of a reset that no trip has joined unfences the bents and forgets the reset. With one
request and no completion held back it completes that request with OK, the time taken and the job epoch, and a trip behind it is
over; with none it changes no session. A reset that is still known after 50 ms puts a device that has not failed into FAILED
with ALERT_N. Corners that the rules leave open follow the model's choice (log entry 60). -/
def Obligations.PartitionResetEnds : Prop :=
  (∀ r z s, resetOf s r = some z → z.phase = 5 → z.cause ≠ 3 →
    Runs (.partitionReclaim r) s (fun t => (resetOf t r).map (fun y => y.phase) = some 6 ∧
      (∀ n, n ∈ z.released → t.bayOf n = none) ∧ (∀ n, n ∉ z.released → t.bayOf n = s.bayOf n) ∧
      OnlyChanges [.cfg, .bay, .rack, .jig, .joi, .mem, .pwr] s t)) ∧
  (∀ r z s, resetOf s r = some z → z.phase = 6 →
    Runs (.partitionSlices r) s (fun t => (resetOf t r).map (fun y => y.phase) = some 7 ∧
      (∀ b, b ∈ z.bents → (t.bent b).refreshOn = true ∧ (t.bent b).inSelfRefresh = false) ∧
      (∀ b, b ∉ z.bents → t.bent b = s.bent b) ∧ t.mem.slice = s.mem.slice ∧ t.mem.bench = s.mem.bench ∧
      OnlyChanges [.clk, .kp, .jig, .joi, .mem, .ecc, .bnt, .pwr] s t)) ∧
  (∀ r z s, resetOf s r = some z → z.phase = 7 →
    Runs (.partitionRaise r) s (fun t => (resetOf t r).map (fun y => y.phase) = some 8 ∧
      (∀ b, b ∈ z.bents → (t.bent b).stopped = dropped s ∧ (t.bent b).ballast = 0) ∧ (∀ b, b ∉ z.bents → t.bent b = s.bent b) ∧
      OnlyChanges [.bnt, .pwr] s t)) ∧
  (∀ r z missed asked s, resetOf s r = some z → z.phase = 8 →
    asked = (if z.round = 0 then z.bents.flatMap (usableJoists s) else z.missing.map (fun e => e.1)) → stillMissing s asked missed = [] →
    Runs (.partitionReload r missed) s (fun t => (resetOf t r).map (fun y => y.phase) = some 9 ∧
      (∀ j, j ∈ asked → (t.joist j).ucodeOk = true ∧ (t.joist j).needsReload = false) ∧ t.kp = s.kp ∧
      t.mem.slice = s.mem.slice ∧ t.mem.bench = s.mem.bench ∧ OnlyChanges [.joi, .mem, .pwr, .out] s t)) ∧
  (∀ r z missed asked m s, resetOf s r = some z → z.phase = 8 →
    asked = (if z.round = 0 then z.bents.flatMap (usableJoists s) else z.missing.map (fun e => e.1)) →
    m = stillMissing s asked missed → m ≠ [] → z.round < 3 →
    Runs (.partitionReload r missed) s (fun t => resetOf t r = some { z with round := z.round + 1, missing := m } ∧ t.kp = s.kp ∧
      t.mem.slice = s.mem.slice ∧ t.mem.bench = s.mem.bench ∧ OnlyChanges [.joi, .mem, .pwr, .out] s t)) ∧
  (∀ r z missed m s, resetOf s r = some z → z.phase = 8 → 3 ≤ z.round →
    m = stillMissing s (z.missing.map (fun e => e.1)) missed → m ≠ [] →
    Runs (.partitionReload r missed) s (fun t => (resetOf t r).map (fun y => y.phase) = some 9 ∧
      (∀ e, e ∈ m → e.1 ∈ unusable t ∧ (inService s e.1 = true → (t.bent (keyBent e.1)).outOfService = true)) ∧
      t.kp.fuses = s.kp.fuses ∧ t.mem.slice = s.mem.slice ∧ t.mem.bench = s.mem.bench ∧
      OnlyChanges [.kp, .joi, .mem, .bnt, .pwr, .out] s t)) ∧
  (∀ r z s, resetOf s r = some z → z.phase = 9 → z.cause ≠ 2 → z.late = [] → z.cxs = [] → z.tripped = [] →
    Runs (.partitionDone r) s (fun t => resetOf t r = none ∧ (∀ b, b ∈ z.bents → (t.bent b).isFenced = false) ∧
      t.qci = s.qci ∧ OnlyChanges [.cfg, .joi, .rfr, .bnt, .net, .pwr] s t)) ∧
  (∀ r z s, resetOf s r = some z → z.phase = 9 → z.tripped = [] →
    Runs (.partitionDone r) s (fun t => resetOf t r = none ∧
      (∀ b, b ∈ z.bents → (t.bent b).isFenced = false ∧ (t.bent b).heldLevel = none))) ∧
  (∀ r z cx s, resetOf s r = some z → z.phase = 9 → z.late = [] → z.cxs = [cx] → z.tripped = [] →
    Completes (.partitionDone r) cx 0x0081 [usNow s - z.startedAt, s.net.jobEpoch] s (fun u =>
      resetOf u r = none ∧ (∀ b, b ∈ z.bents → (u.bent b).isFenced = false ∧ (z.cause = 2 → (u.bent b).tripped = false)) ∧
      u.qci = s.qci ∧ OnlyChanges [.kp, .cfg, .joi, .rfr, .bnt, .net, .pwr] s u)) ∧
  (∀ r z s, resetOf s r = some z → s.kp.stage ≠ 0xC →
    Runs (.partitionResetOvertime r) s (fun t => t.kp.stage = 0xC ∧ 1 ∈ t.pwr.alerts ∧
      (∀ x, x ∈ t.jig.steps → x.phase = .running) ∧ t.kp.fuses = s.kp.fuses))

/-- Outside RETAIN a frame not within 100 us of the last one of its port that passes the checks (P0 or P1, a device that serves it,
a sealed session, a COUNTER above the last, the tag under the session's key) and asks for ACTION 1 to 3 is taken: its session
keeps the COUNTER and the keeper the frame. One that fails a check is dropped, and logged with the check while MRAM may be
written. The oldest frame is acted on, and answered to its sender where its port is up: STATUS with OK, the state and flags; a
reset of bents that its sender may reset, of which none is tripped or under reset, with OK, and it is begun; a device reset by
the operator with OK, and bring-up starts warm. Corners that the rules leave open follow the model's choice (log entry 61). -/
def Obligations.ManagementFramesAreServed : Prop :=
  (∀ f x s, portPresent s f.port = true → mgmtTooSoon s f.port = false → ¬(2 ≤ s.pwr.retain ∧ s.pwr.retain ≤ 7) → mgmtFault s f = none →
    s.session f.session = some x → 1 ≤ f.action → f.action ≤ 3 →
    Runs (.mgmtFrameRx f) s (fun t => t.kp.mgmt = s.kp.mgmt ++ [f] ∧
      t.session f.session = some { x with mgmtCounter := f.counter } ∧ t.kp.fuses = s.kp.fuses ∧ OnlyChanges [.kp, .qci, .net] s t)) ∧
  (∀ f c s, portPresent s f.port = true → mgmtTooSoon s f.port = false → ¬(2 ≤ s.pwr.retain ∧ s.pwr.retain ≤ 7) → mgmtFault s f = some c →
    mramOpen s = true →
    Runs (.mgmtFrameRx f) s (fun t => (∃ e, e ∈ t.kp.log ∧ e.code = 7 ∧ e.data = [(f.port : Int), f.session, c]) ∧
      t.kp.mgmt = s.kp.mgmt ∧ OnlyChanges [.kp, .net] s t)) ∧
  (∀ f rest x s, s.kp.mgmt = f :: rest → f.action = 1 → ¬(2 ≤ s.pwr.retain ∧ s.pwr.retain ≤ 7) → s.session f.session = some x →
    Runs .mgmtStatus s (fun t =>
      (portUp s f.port = true → ∃ flags tag, Out.mgmtReply f.src f.port f.session f.counter 1 .ok s.kp.stage flags tag ∈ t.out) ∧
      t.kp = { s.kp with mgmt := rest } ∧ OnlyChanges [.kp, .net, .out] s t)) ∧
  (∀ f rest x s, s.kp.mgmt = f :: rest → f.action = 2 → ¬(2 ≤ s.pwr.retain ∧ s.pwr.retain ≤ 7) → s.session f.session = some x → 1 ≤ f.arg → f.arg ≤ 15 →
    mayReset s (if x.mailbox = 0xFF then none else some x.mailbox) (bitsOf 4 f.arg) = true → s.kp.stage ≠ 0xB → s.kp.stage ≠ 0xC →
    s.kp.coolantLoss = false → (bitsOf 4 f.arg).any (fun b => (s.bent b).tripped) = false →
    (bitsOf 4 f.arg).any (bentsInReset s).contains = false →
    Runs .mgmtResetPartition s (fun t =>
      (portUp s f.port = true → ∃ flags tag, Out.mgmtReply f.src f.port f.session f.counter 2 .ok s.kp.stage flags tag ∈ t.out) ∧
      (∃ r, t.pwr.resets = s.pwr.resets ++ [r] ∧ r.bents = bitsOf 4 f.arg ∧ r.cxs = []) ∧
      t.kp = { s.kp with mgmt := rest } ∧ OnlyChanges [.kp, .net, .pwr, .out] s t)) ∧
  (∀ f rest x s, s.kp.mgmt = f :: rest → f.action = 3 → ¬(2 ≤ s.pwr.retain ∧ s.pwr.retain ≤ 7) → s.session f.session = some x → x.mailbox = 0xFF →
    f.arg ≤ 1 →
    Runs .mgmtResetDevice s (fun t =>
      (portUp s f.port = true → ∃ flags tag, Out.mgmtReply f.src f.port f.session f.counter 3 .ok s.kp.stage flags tag ∈ t.out) ∧
      t.kp.stage = 0 ∧ t.kp.raising = true ∧ t.kp.coldStart = false ∧ (f.arg = 1 → t.kp.fullTests = true) ∧ t.qci = {} ∧
      t.kp.fuses = s.kp.fuses ∧ t.mem.slice = s.mem.slice))

/-- An accepted RESET_PARTITION of at least one bent, each of which the caller may reset and none of which is tripped outside a
reset, answers the state in which the request is noted and its resets are begun or joined. An accepted RESET_DEVICE that no
POWER_RETAIN holds off answers the warm reset. A management frame in READY, FAILED or a mismatch that comes in time and passes
its checks with ACTION 1 to 3 answers the state that keeps it. The oldest frame kept, of an open session outside RETAIN, answers
by its ACTION: STATUS with OK; a partition reset of bents that the sender may reset, none tripped outside a reset, with OK and
the reset begun; a device reset of the operator with OK and the warm reset. Corners that the rules leave open follow the model's
choice (log entries 60 and 61). -/
def Obligations.ResetRequestsComplete : Prop :=
  (∀ cx (mask : BitVec 4) s s1, s1 = noteTaken cx 0x0081 s → listening s = true → gate s cx 0x0081 = none → bitsOf 4 mask.toNat ≠ [] →
    mayReset s1 (tenantOf s1 cx) (bitsOf 4 mask.toNat) = true →
    (∀ b, b ∈ bitsOf 4 mask.toNat → (s1.bent b).tripped = true → b ∈ bentsInReset s1) →
    exec (.resetPartition cx mask) s = .next (requestReset (bitsOf 4 mask.toNat) 0 (some cx) s1)) ∧
  (∀ cx full s s1, s1 = noteTaken cx 0x0082 s → listening s = true → gate s cx 0x0082 = none → s1.pwr.retainCx = none →
    exec (.resetDevice cx full) s = .next (warmReset 40 full s1)) ∧
  (∀ f s s1, s1 = (if s.kp.hubHeld then s else frameIn f.port 64 s) → portPresent s f.port = true → mgmtTooSoon s f.port = false →
    (s.pwr.retain < 2 ∨ 7 < s.pwr.retain) → mgmtFault s f = none → 1 ≤ f.action → f.action ≤ 3 →
    exec (.mgmtFrameRx f) s = .next ((s1.setSession f.session (fun x => { x with mgmtCounter := f.counter })).onKp (fun k =>
      { k with mgmtTaken := mset 0 k.mgmtTaken f.port (keeperNow s1 + 1), mgmt := k.mgmt ++ [f] }))) ∧
  (∀ f rest x s s1, s.kp.mgmt = f :: rest → (s.pwr.retain < 2 ∨ 7 < s.pwr.retain) → s.session f.session = some x →
    s1 = s.onKp (fun k => { k with mgmt := rest }) → f.action = 1 → exec .mgmtStatus s = .next (mgmtReplyTo f .ok s1)) ∧
  (∀ f rest x s s1, s.kp.mgmt = f :: rest → (s.pwr.retain < 2 ∨ 7 < s.pwr.retain) → s.session f.session = some x →
    s1 = s.onKp (fun k => { k with mgmt := rest }) → f.action = 2 → bitsOf 4 f.arg ≠ [] → f.arg ≤ 15 →
    mayReset s1 (if x.mailbox = 0xFF then none else some x.mailbox) (bitsOf 4 f.arg) = true → s.kp.stage ≠ 0xB → s.kp.stage ≠ 0xC →
    s.kp.coolantLoss = false → (∀ b, b ∈ bitsOf 4 f.arg → (s.bent b).tripped = true → b ∈ bentsInReset s) →
    exec .mgmtResetPartition s = .next (requestReset (bitsOf 4 f.arg) 0 none (mgmtReplyTo f .ok s1))) ∧
  (∀ f rest x s s1, s.kp.mgmt = f :: rest → (s.pwr.retain < 2 ∨ 7 < s.pwr.retain) → s.session f.session = some x →
    s1 = s.onKp (fun k => { k with mgmt := rest }) → f.action = 3 → x.mailbox = 0xFF → f.arg ≤ 1 →
    exec .mgmtResetDevice s = .next (warmReset 40 (f.arg == 1) (mgmtReplyTo f .ok s1)))

/-- The KEEPER stage of a running bring-up without coolant loss or keeper trip counts a boot, loads the fuse registers, puts the
settings of the best record or the factory's in force and, with an image that passes, goes on to HUB; with one that does not it
enters recovery. HUB with its checks passed, while the random source makes keys, releases the hub and the framer, and on the
full path takes the self-test's repairs; where a check fails the hub is held and ALERT_N asserted, and the retry runs the stage
again. LINKS leaves each link in service but the failed ones, locks every sill PLL and runs its transit domain unless a drop
stands. ENGINES gives each engine of the variant its state and darkens the ports with open connectors. Corners that the rules
leave open follow the model's choice (log entry 58). -/
def Obligations.BringUpStarts : Prop :=
  (∀ s, s.kp.raising = true → s.kp.stage = 0 → s.kp.coolantLoss = false → s.kp.keeperTrip = false → storedFault s = none →
    Runs (.bringupKeeper ()) s (fun t => t.kp.stage = 1 ∧ t.kp.raising = true ∧ t.kp.boots = (s.kp.boots + 1) % 2 ^ 32 ∧
      t.kp.loaded = true ∧ t.kp.running = imageNow s ∧ t.cfg.epoch = 1 ∧ t.kp.fuses = s.kp.fuses ∧
      (bestRecord s = none → t.cfg.inForce = [] ∧ t.cfg.defaulted = true) ∧ OnlyChanges [.clk, .kp, .cfg, .joi, .rfr, .bnt, .net] s t)) ∧
  (∀ c s, s.kp.raising = true → s.kp.stage = 0 → s.kp.coolantLoss = false → s.kp.keeperTrip = false → storedFault s = some c →
    Runs (.bringupKeeper ()) s (fun t => t.kp.stage = 0xD ∧ t.kp.raising = false ∧ t.kp.recovery = some { reason := c } ∧
      t.kp.running = s.kp.running ∧ OnlyChanges [.clk, .kp, .cfg, .joi, .rfr, .bnt, .net] s t)) ∧
  (∀ selfTestOk repaired s, s.kp.raising = true → s.kp.stage = 1 → s.kp.randomOk = true →
    Runs (.bringupHub true true ⟨selfTestOk, repaired⟩) s (fun t => t.kp.stage = 2 ∧ t.kp.hubHeld = false ∧ t.qci.framerHalted = false ∧
      t.pwr.hubLock = true ∧ 2 ∉ t.pwr.alerts ∧ (selfTestOk = true → t.kp.faultKind = s.kp.faultKind) ∧ (s.kp.fastPath = false → t.kp.hubRepairs = repaired) ∧
      OnlyChanges [.clk, .kp, .qci, .pwr] s t)) ∧
  (∀ linkOk framerOk selfTestOk repaired s, s.kp.raising = true → s.kp.stage = 1 → (linkOk && framerOk && s.kp.randomOk) = false →
    Runs (.bringupHub linkOk framerOk ⟨selfTestOk, repaired⟩) s (fun t => t.kp.stage = 1 ∧ t.kp.hubHeld = true ∧ t.kp.raising = false ∧
      2 ∈ t.pwr.alerts ∧ OnlyChanges [.kp, .pwr] s t)) ∧
  (∀ s, s.kp.stage = 1 → s.pwr.alerts.contains 2 = true → s.pwr.pwrok = true → s.kp.coolantLoss = false → s.kp.keeperTrip = false →
    Runs .hubStageRetry s (fun t => t.kp = { s.kp with raising := true } ∧ OnlyChanges [.kp] s t)) ∧
  (∀ failed lanes s, s.kp.raising = true → s.kp.stage = 2 →
    Runs (.bringupLinks failed lanes) s (fun t => t.kp.stage = 3 ∧
      (∀ n, n < 96 → (t.link n).state = (if failed.contains n then 1 else 0)) ∧ (∀ b, b < 4 → (t.bent b).sillLock = true ∧ (t.bent b).transit = !dropped s) ∧
      t.kp = { s.kp with stage := 3 } ∧ OnlyChanges [.clk, .kp, .bnt, .lnk, .net] s t)) ∧
  (∀ bad opn gone s, s.kp.raising = true → s.kp.stage = 3 →
    Runs (.bringupEngines bad opn gone) s (fun t => t.kp = { s.kp with stage := 4 } ∧
      (∀ e, enginePresent s e = true → (t.engine e).state = calibrated s bad e ∧ (t.engine e).laserPresent = !gone.contains e) ∧
      (∀ p, portPresent s p = true → opn.contains p = true → (t.port p).lightOff = true) ∧ OnlyChanges [.clk, .kp, .net] s t))

/-- TOPOLOGY of a device without a fault found so far goes on; at a mismatch it stops in TOPOLOGY_MISMATCH with the kind and index
of the first one, or of the fault found earlier, and ALERT_N asserted. RAISING powers every bent, and clocks it unless a drop
stands. SLICES takes every bent's laminations out of self-refresh and starts refresh. TESTS on the full path retires each joist
that failed a test; on the fast path it retires none and takes the outcomes of the retention record. ZERO leaves every byte of
the slices of each bent with TENANT_DATA at zero, and clears the flags while MRAM may be written. Corners that the rules leave
open follow the model's choice (log entry 58). -/
def Obligations.BringUpTestsAndZeroes : Prop :=
  (∀ absent s, s.kp.raising = true → s.kp.stage = 4 → s.kp.faultKind = 0 → mismatch (noteAbsent absent s) absent = none →
    Runs (.bringupTopology absent) s (fun t => t.kp = { s.kp with stage := 5 } ∧ OnlyChanges [.kp, .bnt, .lnk] s t)) ∧
  (∀ absent f s, s.kp.raising = true → s.kp.stage = 4 → s.kp.faultKind = 0 → mismatch (noteAbsent absent s) absent = some f →
    Runs (.bringupTopology absent) s (fun t => t.kp.stage = 0xB ∧ t.kp.raising = false ∧ t.kp.faultKind = f.1 ∧
      t.kp.faultIndex = f.2 ∧ 0 ∈ t.pwr.alerts ∧ t.kp.fuses = s.kp.fuses ∧
      OnlyChanges [.clk, .kp, .bnt, .lnk, .net, .pwr] s t)) ∧
  (∀ absent s, s.kp.raising = true → s.kp.stage = 4 → s.kp.faultKind ≠ 0 →
    Runs (.bringupTopology absent) s (fun t => t.kp.stage = 0xB ∧ t.kp.raising = false ∧ t.kp.faultKind = s.kp.faultKind ∧
      t.kp.faultIndex = s.kp.faultIndex ∧ 0 ∈ t.pwr.alerts ∧ OnlyChanges [.clk, .kp, .bnt, .lnk, .net, .pwr] s t)) ∧
  (∀ s, s.kp.raising = true → s.kp.stage = 5 →
    Runs .bringupRaising s (fun t => (∀ b, b < 4 → (t.bent b).up = true ∧ (t.bent b).stopped = dropped s) ∧
      t.kp = { s.kp with stage := 6 } ∧ OnlyChanges [.kp, .bnt] s t)) ∧
  (∀ s, s.kp.raising = true → s.kp.stage = 6 →
    Runs .bringupSlices s (fun t => (∀ b, b < 4 → (t.bent b).inSelfRefresh = false ∧ (t.bent b).refreshOn = true ∧
        (t.bent b).hot = (s.bent b).forceHot) ∧ t.kp.stage = 7 ∧ t.mem.slice = s.mem.slice ∧ t.kp.fuses = s.kp.fuses ∧
      OnlyChanges [.clk, .kp, .jig, .joi, .mem, .ecc, .bnt] s t)) ∧
  (∀ self slice lams margin s, s.kp.raising = true → s.kp.stage = 7 → s.kp.fastPath = false →
    Runs (.bringupTests self slice lams margin) s (fun t => t.kp.stage = 8 ∧ (∀ j, j ∈ self ++ slice → j ∈ unusable t) ∧
      (∀ j, j ∈ unusable s → j ∈ unusable t) ∧ t.kp.fuses = s.kp.fuses ∧
      OnlyChanges [.clk, .kp, .jig, .joi, .mem, .ecc, .bnt] s t)) ∧
  (∀ self slice lams margin s, s.kp.raising = true → s.kp.stage = 7 → s.kp.fastPath = true →
    Runs (.bringupTests self slice lams margin) s (fun t => t.kp = { s.kp with stage := 8 } ∧
      (∀ r, s.kp.retention = some r → t.ecc.strobe = r.strobe ∧ t.ecc.badSpares = r.badSpares ∧ t.ecc.margin = r.margin) ∧
      OnlyChanges [.kp, .ecc, .bnt] s t)) ∧
  (∀ s, s.kp.raising = true → s.kp.stage = 8 →
    Runs .bringupZero s (fun t => t.kp = { s.kp with stage := 9, tenantData := (if mramOpen s then [] else s.kp.tenantData) } ∧
      (∀ b a, b < 4 → mget false s.kp.tenantData b = true → b * 1344 * 8388608 ≤ a → a < (b + 1) * 1344 * 8388608 →
        mget 0 t.mem.slice a = 0) ∧
      (∀ b a, mget false s.kp.tenantData b = false → b * 1344 * 8388608 ≤ a → a < (b + 1) * 1344 * 8388608 →
        mget 0 t.mem.slice a = mget 0 s.mem.slice a) ∧ t.mem.bench = s.mem.bench ∧ OnlyChanges [.kp, .mem] s t))

/-- BROADCAST in which nothing is missed loads every usable joist and fixes the assignment; with packets missing the first repair
round begins with exactly those. A packet with the right IMAGE_ID and CRC for a joist that takes packets is kept. A repair round
in which the joists asked miss nothing fixes the assignment; one of the first two with packets missing begins the next; after
the third one, joists that still miss packets are retired. READY writes the retention record and leaves the device in READY. The
reload of one joist that misses no packet loads it; missing some, it begins its next repair round, and after the third one
retires it. Corners that the rules leave open follow the model's choice (log entry 58). -/
def Obligations.MicrocodeIsLoaded : Prop :=
  (∀ s, s.kp.raising = true → s.kp.stage = 9 → s.kp.bcast.active = false → s.kp.bcast.fixed = false →
    Runs (.bringupBroadcast []) s (fun t => t.kp.bcast.fixed = true ∧ t.kp.hidden = unusable s ∧
      (∀ b j, b < 4 → j ∈ usableJoists s b → (t.joist j).ucodeOk = true) ∧ t.mem.slice = s.mem.slice ∧ t.mem.bench = s.mem.bench ∧
      OnlyChanges [.kp, .joi, .mem, .bnt, .out] s t)) ∧
  (∀ missed l s, s.kp.raising = true → s.kp.stage = 9 → s.kp.bcast.active = false → s.kp.bcast.fixed = false →
    l = stillMissing s ((List.range 4).flatMap (usableJoists s)) missed → l ≠ [] →
    Runs (.bringupBroadcast missed) s (fun t => t.kp.bcast = { active := true, round := 1, missing := l } ∧
      OnlyChanges [.kp, .joi, .mem, .out] s t)) ∧
  (∀ j n s, takesPackets s j = true → (unusable s).contains j = false → keyBent j < 4 → n < s.kp.running.ucodeLen / 512 →
    Runs (.ucodePacketRx j n (imageId s) true) s (fun t =>
      (t.joist j).ucode = (s.joist j).ucode ||| BitVec.ofNat 32 (2 ^ n) ∧ (∀ o, o ≠ j → t.joist o = s.joist o) ∧
      OnlyChanges [.joi] s t)) ∧
  (∀ s, s.kp.raising = true → s.kp.stage = 9 → s.kp.bcast.active = true →
    Runs (.repairRoundEnd []) s (fun t => t.kp.bcast.fixed = true ∧ t.kp.bcast.active = false ∧
      (∀ e, e ∈ s.kp.bcast.missing → (t.joist e.1).ucodeOk = true) ∧ OnlyChanges [.kp, .joi, .mem, .bnt] s t)) ∧
  (∀ missed l s, s.kp.raising = true → s.kp.stage = 9 → s.kp.bcast.active = true → s.kp.bcast.round < 3 →
    l = stillMissing s (s.kp.bcast.missing.map (fun e => e.1)) missed → l ≠ [] →
    Runs (.repairRoundEnd missed) s (fun t => t.kp.bcast = { active := true, round := s.kp.bcast.round + 1, missing := l } ∧
      OnlyChanges [.kp, .joi, .mem, .out] s t)) ∧
  (∀ missed l s, s.kp.raising = true → s.kp.stage = 9 → s.kp.bcast.active = true → 3 ≤ s.kp.bcast.round →
    l = stillMissing s (s.kp.bcast.missing.map (fun e => e.1)) missed → l ≠ [] →
    Runs (.repairRoundEnd missed) s (fun t => t.kp.bcast.fixed = true ∧ (∀ e, e ∈ l → e.1 ∈ unusable t) ∧
      OnlyChanges [.kp, .joi, .mem, .bnt] s t)) ∧
  (∀ s, s.kp.raising = true → s.kp.stage = 9 → s.kp.bcast.fixed = true →
    Runs .bringupReady s (fun t => t.kp.stage = 0xA ∧ t.kp.raising = false ∧ t.kp.remapFixed = true ∧
      (t.kp.retention.map (fun r => r.writtenAt)) = some (keeperNow s) ∧ t.qci.snap = (s.qci.snap + 1) % 2 ^ 32 ∧
      t.kp.fuses = s.kp.fuses ∧ OnlyChanges [.clk, .kp, .qci, .net] s t)) ∧
  (∀ j (missing : BitVec 32) s, (s.joist j).needsReload = true → (unusable s).contains j = false →
    missing &&& BitVec.ofNat 32 (allPackets s) = 0 →
    Runs (.joistReload j missing) s (fun t => (t.joist j).ucodeOk = true ∧ (t.joist j).needsReload = false ∧
      (∀ o, o ≠ j → t.joist o = s.joist o) ∧ t.mem.slice = s.mem.slice ∧ t.mem.bench = s.mem.bench ∧ OnlyChanges [.joi, .mem] s t)) ∧
  (∀ j (missing : BitVec 32) s, (s.joist j).needsReload = true → (unusable s).contains j = false →
    missing &&& BitVec.ofNat 32 (allPackets s) ≠ 0 → (s.joist j).reloadRound < 3 →
    Runs (.joistReload j missing) s (fun t => (t.joist j).reloadRound = (s.joist j).reloadRound + 1 ∧ (t.joist j).needsReload = true ∧
      (∀ o, o ≠ j → t.joist o = s.joist o) ∧ OnlyChanges [.joi, .out] s t)) ∧
  (∀ j (missing : BitVec 32) s, (s.joist j).needsReload = true → (unusable s).contains j = false →
    missing &&& BitVec.ofNat 32 (allPackets s) ≠ 0 → 3 ≤ (s.joist j).reloadRound →
    Runs (.joistReload j missing) s (fun t => (t.joist j).ucodeOk = false ∧ j ∈ unusable t ∧ t.kp.fuses = s.kp.fuses ∧
      OnlyChanges [.kp, .joi, .bnt] s t))

/-- In recovery on P0 or P1, R_HELLO is answered with R_OFFER of the reason and a fresh challenge and ends a transfer in progress,
while the random source passes its tests. R_BEGIN with that challenge, a version no older than the counter and, with an operator
key enrolled, its signature over the transfer's fields opens a transfer; with another challenge it is refused with E_AUTH, as it
is, its challenge spent, with a bad signature or an older version. R_DATA within the transfer, while MRAM may be written, stores
exactly its bytes and is acknowledged with OK. R_END of stored bytes that have the transfer's digest and pass every check of
R423 commits them, answers OK with the version and starts a cold bring-up. Datagrams from another address than the transfer's
are not meant here. 30 s of silence free the transfer of its address. Outside recovery a datagram is refused with E_BUSY where
the hub runs. Every answer leaves by a port that is up and that no pause holds. Corners that the rules leave open follow the
model's choice (log entry 59). -/
def Obligations.RecoveryTakesAnImage : Prop :=
  (∀ port addr r s, portPresent s port = true → port < 2 → s.kp.stage = 0xD → s.kp.recovery = some r → s.kp.randomOk = true →
    Runs (.rHello port addr) s (fun t => ∃ c,
      (Sends s port → Out.recovery port addr (datagram 0x02 (offerBody s c r.reason)) ∈ t.out) ∧
      t.kp = { s.kp with recovery := some { r with challenge := some c, transfer := none } } ∧ OnlyChanges [.clk, .kp, .net, .out] s t)) ∧
  (∀ port addr c length version digest sig r s, portPresent s port = true → port < 2 → s.kp.stage = 0xD →
    s.kp.recovery = some r → elsewhere r addr = false → r.challenge = some c →
    (∀ k, s.kp.operatorKey = some k → signedBy k (beginDigest s c length version digest) sig = true) → s.kp.fwCounter ≤ version →
    Runs (.rBegin port addr c length version digest sig) s (fun t =>
      t.kp = { s.kp with recovery := (some { r with challenge := none, transfer := some ⟨some addr, length, version, digest⟩ }) } ∧
      OnlyChanges [.kp, .net] s t)) ∧
  (∀ port addr c length version digest sig r s, portPresent s port = true → port < 2 → s.kp.stage = 0xD →
    s.kp.recovery = some r → elsewhere r addr = false → r.challenge ≠ some c →
    Runs (.rBegin port addr c length version digest sig) s (fun t =>
      (Sends s port → Out.recovery port addr (datagram 0x08 [3]) ∈ t.out) ∧ OnlyChanges [.net, .out] s t)) ∧
  (∀ port addr c length version digest sig r s, portPresent s port = true → port < 2 → s.kp.stage = 0xD →
    s.kp.recovery = some r → elsewhere r addr = false → r.challenge = some c →
    ((∃ k, s.kp.operatorKey = some k ∧ signedBy k (beginDigest s c length version digest) sig = false) ∨ version < s.kp.fwCounter) →
    Runs (.rBegin port addr c length version digest sig) s (fun t =>
      (Sends s port → Out.recovery port addr (datagram 0x08 [3]) ∈ t.out) ∧
      t.kp = { s.kp with recovery := some { r with challenge := none } } ∧ OnlyChanges [.kp, .net, .out] s t)) ∧
  (∀ port addr offset data r x s, portPresent s port = true → port < 2 → s.kp.stage = 0xD → s.kp.recovery = some r →
    r.transfer = some x → elsewhere r addr = false → data ≠ [] → data.length ≤ 1024 →
    offset + data.length ≤ min x.length 8388608 → mramOpen s = true →
    Runs (.rData port addr offset data) s (fun t =>
      (Sends s port → Out.recovery port addr (datagram 0x05 (leBytes 4 offset ++ leBytes 2 data.length ++ [0])) ∈ t.out) ∧
      (∀ k, k < data.length → mget 0 t.kp.imageBytes (offset + k) = data.getD k 0) ∧
      (∀ a, a < offset ∨ offset + data.length ≤ a → mget 0 t.kp.imageBytes a = mget 0 s.kp.imageBytes a) ∧
      t.kp = { s.kp with imageBytes := t.kp.imageBytes } ∧ OnlyChanges [.kp, .net, .out] s t)) ∧
  (∀ port addr r x s, portPresent s port = true → port < 2 → s.kp.stage = 0xD → s.kp.recovery = some r → r.transfer = some x →
    elsewhere r addr = false → mramOpen s = true → imageDigestOk s x.length x.digest = true → imageAccepted s = true →
    Runs (.rEnd port addr ()) s (fun t =>
      (Sends s port → Out.recovery port addr (datagram 0x07 (0 :: leBytes 4 (imageVersion s))) ∈ t.out) ∧
      t.kp.stage = 0 ∧ t.kp.raising = true ∧ t.kp.coldStart = true ∧ t.kp.afterRecovery = true ∧ t.kp.recovery = none ∧
      t.kp.imageBytes = s.kp.imageBytes ∧ t.kp.commitLo = imageVersion s ∧ t.kp.commitHi = 2 ^ 32 - 1 - imageVersion s ∧
      t.kp.fwCounter = max s.kp.fwCounter (imageVersion s) ∧ t.kp.fuses = s.kp.fuses)) ∧
  (∀ r s, s.kp.recovery = some r →
    Runs .recoverySilence s (fun t => t.kp = { s.kp with recovery := (some { r with
      transfer := r.transfer.map (fun x => { x with addr := none }) }) } ∧ OnlyChanges [.kp] s t)) ∧
  (∀ port addr s, portPresent s port = true → s.kp.stage ≠ 0xD → s.kp.hubHeld = false → ¬(2 ≤ s.pwr.retain ∧ s.pwr.retain ≤ 7) →
    Runs (.recoveryDatagramRefused port addr) s (fun t =>
      (Sends s port → Out.recovery port addr (datagram 0x08 [1]) ∈ t.out) ∧ OnlyChanges [.net, .out] s t))

/-- A packet with sound headers reaches an awake hub, for a queue pair that is not in error, a bootstrap one from its partner. In
order, through a window that takes it and with space in the host pool, a host's WRITE, or READ while few enough stand open, is
kept with its data opened, not yet placed, and the next PSN is expected: one on for a WRITE, as many as its responses for a
READ. A peer's WRITE is kept with the cells that its payload costs, for the bents of its landing window, if the grant allows; a
peer's return of cells, one whole SEND of 16 bytes with the last four zero, its seal good, is kept too and takes no cells. A
packet ahead of sequence draws a NAK that names the PSN expected, if the port is up and not paused, and no queue pair expects
another PSN. The first packet with PSN 0 latches the partner of a bootstrap queue pair set to LATCH. A packet for no queue pair
is counted as discarded. Corners that the rules leave open follow the model's choice (log entries 42 and 52). -/
def Obligations.PacketsAreTaken : Prop :=
  (∀ p q g h s, Arrived p q s → q.peer = none → p.psn = q.rxPsn → p.op ≠ .send → p.op ≠ .other →
    (isRead p = true → readsFull s (pktKey p) = false) → WindowTakes q p g s →
    hostSpace s p.port p.priority (if isRead p then 0 else p.data.length) = some h →
    Runs (.rocePacketRx p) s (fun t =>
      (∃ r, t.net.rx = s.net.rx ++ [r] ∧ r.pkt = openPkt q p ∧ r.id = s.net.nextRx ∧ r.placed = false ∧ r.acked = false ∧ r.headroom = h) ∧
      (t.qp (pktKey p)).map (fun x => x.rxPsn) = some ((q.rxPsn + (if isRead p then readSpan q p.len else 1)) % 2 ^ 24) ∧
      OnlyChanges [.net, .out] s t)) ∧
  (∀ p q e b w s, Arrived p q s → q.peer = some e → p.psn = q.rxPsn → (p.op = .write ∨ p.op = .writeImm) →
    WindowTakes q p (.landing b w) s →
    cellsHeld s (pktKey p) + cellCost (payloadBytes q p) ≤ grantOf s q →
    Runs (.rocePacketRx p) s (fun t =>
      (∃ r, t.net.rx = s.net.rx ++ [r] ∧ r.pkt = openPkt q p ∧ r.cells = cellCost (payloadBytes q p) ∧ r.bents = targetBents s (.landing b w)) ∧
      (t.qp (pktKey p)).map (fun x => x.rxPsn) = some ((q.rxPsn + 1) % 2 ^ 24) ∧ OnlyChanges [.net, .out] s t)) ∧
  (∀ p q e s, Arrived p q s → q.peer = some e → p.psn = q.rxPsn → p.op = .send → p.data.length = 16 → p.first = true → p.last = true →
    leNat ((openPkt q p).data.drop 12) = 0 → sealPasses q p = true →
    cellsHeld s (pktKey p) ≤ grantOf s q →
    Runs (.rocePacketRx p) s (fun t => (∃ r, t.net.rx = s.net.rx ++ [r] ∧ r.pkt = openPkt q p ∧ r.cells = 0) ∧
      (t.qp (pktKey p)).map (fun x => x.rxPsn) = some ((q.rxPsn + 1) % 2 ^ 24) ∧ OnlyChanges [.net, .out] s t)) ∧
  (∀ p q s, Arrived p q s → (p.psn + 2 ^ 24 - q.rxPsn) % 2 ^ 24 ≠ 0 → (p.psn + 2 ^ 24 - q.rxPsn) % 2 ^ 24 < 2 ^ 23 →
    Runs (.rocePacketRx p) s (fun t => (Sends s (pktKey p / 2 ^ 24) → Out.nak (pktKey p) q.rxPsn 0 ∈ t.out) ∧
      t.net.rx = s.net.rx ∧ (∀ k, (t.qp k).map (fun x => x.rxPsn) = (s.qp k).map (fun x => x.rxPsn)) ∧
      OnlyChanges [.net, .out] s t)) ∧
  (∀ p q s, portPresent s p.port = true → hubAwake s = true → p.headersOk = true → p.qpn = 0x10 → s.qp (pktKey p) = some q →
    bootLatches s p.port = true → (s.port p.port).bootPeer = none → p.psn = 0 →
    Runs (.rocePacketRx p) s (fun t => (t.port p.port).bootPeer = some p.srcIp)) ∧
  (∀ p s, portPresent s p.port = true → hubAwake s = true → p.headersOk = true → p.qpn ≠ 0x10 → s.qp (pktKey p) = none →
    Runs (.rocePacketRx p) s (fun t =>
      mget 0 (t.port p.port).counters 0x130 = (mget 0 (s.port p.port).counters 0x130 + 1) % 2 ^ 64 ∧
      t.net.rx = s.net.rx ∧ t.net.qps = s.net.qps ∧ OnlyChanges [.net] s t))

/-- The next WRITE of its queue pair, no fence holding it, packet SRAM sound, the window's channel not halted and no peg segment
running in the banks of slice bytes that it covers, becomes placed: the bytes of a transfer that stays on one joist stand at its
window's base plus its offset, and no byte outside the window changes. A READ of sound memory of such a window that one packet
can carry leaves packet SRAM, and a port that is up and not paused, where nothing waits and the store has room, answers it with
the bytes of its window under its PSN, memory as it was; one of a status region is answered with the region's bytes. A placed
packet whose predecessors are acknowledged is acknowledged: at the last packet of a message, and at the eighth since the last
ACK, a port that is up and not paused sends one. The immediate of a placed WRITE to a landing window other than the trigger
window counts one arrival for the step that it names. Corners that the rules leave open follow the model's choice (log entries
42 and 52). -/
def Obligations.TransfersReachTheirPlace : Prop :=
  (∀ id r q g s, nextRx s id isWrite = some (r, q) → heldByFence s q r = false → resolve s q r.pkt.rkey = some g →
    dmaWaits s q r.pkt r.pkt.data.length = false →
    (targetBay s g).isSome = true → targetHalted s g = false →
    r.pkt.va + r.pkt.data.length ≤ (targetJoists s g).length * (targetExtent s g).2 →
    Runs (.rdmaWriteRx id []) s (fun t => (∀ x, rxOf t id = some x → x.placed = true) ∧
      KeepsOutside (targetJoists s g) [⟨isSliceTarget g, (targetExtent s g).1, (targetExtent s g).2⟩] s t ∧
      (∀ j i, (targetJoists s g)[r.pkt.va / (targetExtent s g).2]? = some j →
        r.pkt.va % (targetExtent s g).2 + r.pkt.data.length ≤ (targetExtent s g).2 → i < r.pkt.data.length →
        mget 0 (t.mem.cells (isSliceTarget g)) (memKey (isSliceTarget g) j
          ((targetExtent s g).1 + r.pkt.va % (targetExtent s g).2 + i)) = r.pkt.data.getD i 0) ∧
      OnlyChanges [.clk, .kp, .bay, .jig, .joi, .mem, .ecc, .net] s t)) ∧
  (∀ id r q g s, nextRx s id (fun r => isRead r.pkt) = some (r, q) → resolve s q r.pkt.rkey = some g →
    dmaWaits s q r.pkt r.pkt.len = false → (targetBay s g).isSome = true → targetHalted s g = false → (readWindow s g r.pkt.va r.pkt.len).2 = false →
    (readWindow s g r.pkt.va r.pkt.len).1.length ≤ dataRoom q →
    Runs (.rdmaReadRx id []) s (fun t => rxOf t id = none ∧
      (SendsPacket s (pktKey r.pkt / 2 ^ 24) (readWindow s g r.pkt.va r.pkt.len).1.length →
        Answered (pktKey r.pkt) r.pkt.psn r.pkt.va (readWindow s g r.pkt.va r.pkt.len).1 t) ∧
      OnlyChanges [.net, .out] s t)) ∧
  (∀ id r q m s, nextRx s id (fun r => isRead r.pkt) = some (r, q) → resolve s q r.pkt.rkey = some (.control m) →
    dmaWaits s q r.pkt r.pkt.len = false → (statusBytes s m r.pkt.va r.pkt.len).length ≤ dataRoom q →
    Runs (.rdmaReadRx id []) s (fun t => rxOf t id = none ∧
      (SendsPacket s (pktKey r.pkt / 2 ^ 24) (statusBytes s m r.pkt.va r.pkt.len).length →
        Answered (pktKey r.pkt) r.pkt.psn r.pkt.va (statusBytes s m r.pkt.va r.pkt.len) t) ∧
      OnlyChanges [.net, .out] s t)) ∧
  (∀ id r q s, rxOf s id = some r → s.qp (pktKey r.pkt) = some q → r.placed = true → r.acked = false →
    before s r (fun x => !x.acked) = false →
    Runs (.packetDelivered id) s (fun t => (∀ x, rxOf t id = some x → x.acked = true) ∧
      (r.pkt.last = true ∨ 7 ≤ q.unacked → Sends s (pktKey r.pkt / 2 ^ 24) →
        ∃ psn, Out.ack (pktKey r.pkt) psn ∈ t.out) ∧ OnlyChanges [.net, .out] s t)) ∧
  (∀ id r q b w y x s, rxOf s id = some r → s.qp (pktKey r.pkt) = some q → r.placed = true → r.counted = false →
    r.pkt.op = .writeImm → before s r (fun x => !x.placed) = false → resolve s q r.pkt.rkey = some (.landing b w) →
    s.bayOf b = some y → (y.trigOn = false ∨ y.trigWindow ≠ w) → r.pkt.imm < 2 ^ 27 →
    (r.pkt.imm / 2 ^ 16 % 2 ^ 11 < 1024 ∨ 2046 < r.pkt.imm / 2 ^ 16 % 2 ^ 11) →
    (stepsOf s b).find? (fun z => !z.isQueued && decide (z.jigSeq % 65536 = r.pkt.imm % 65536)) = some x →
    Runs (.landingArrival id) s (fun t =>
      (∃ z, t.bayOf b = some z ∧ mget 0 z.arrivals (arrivalKey x.jigSeq w) = mget 0 y.arrivals (arrivalKey x.jigSeq w) + 1) ∧
      (∀ o, o ≠ b → t.bayOf o = s.bayOf o) ∧ (∀ z, rxOf t id = some z → z.counted = true) ∧
      OnlyChanges [.bay, .jig, .net] s t))

/-- An ACK of something sent takes everything sent up to it out of the store, and only that; what it lets go follows behind. An ACK
of a READ response takes the responses up to it. A NAK for a sequence error or a receiver not ready sends the kept packets from
its PSN on again, each whose port is up and not paused; an operational error puts the queue pair in error as fenced, any other
kind as refused access. An ACK timeout sends the oldest packet and those after it again, as often as the queue pair's retry
count; then the queue pair is in error for want of retries. The ACK timer clears the count of packets unacknowledged, and a port
that is up and not paused sends the ACK. The tally timer, once the peer's port is up, notes the cells freed as returned and
sends their count and the binding's epoch. A return of the current binding raises the count of cells returned, never lowering
it; one of another binding changes no binding. Corners that the rules leave open follow the model's choice (log entry 43). -/
def Obligations.WhatWasSentIsAnswered : Prop :=
  (∀ qpn psn s, validAck s qpn psn false = true → validAck s qpn psn true = false →
    Runs (.ackRx qpn psn) s (fun t =>
      (∃ l, t.net.store = s.net.store.filter (fun p => !(decide (p.qpn = qpn) && !p.response && psnLe p.psn psn)) ++ l ∧
        ((∀ e, e ∈ present s.net.jobs → ∀ p, p ∈ e.2.peers → p.heldPkts = []) → s.net.waiting = [] →
          l = [] ∧ t.net.qps = s.net.qps ∧ t.out = s.out)) ∧
      t.net.rx = s.net.rx ∧ OnlyChanges [.clk, .jig, .bnt, .net, .out] s t)) ∧
  (∀ qpn psn s, validAck s qpn psn true = true → validAck s qpn psn false = false →
    Runs (.ackRx qpn psn) s (fun t =>
      (∃ l, t.net.store = s.net.store.filter (fun p => !(decide (p.qpn = qpn) && p.response && psnLe p.psn psn)) ++ l) ∧
      t.net.rx = s.net.rx ∧ OnlyChanges [.clk, .jig, .bnt, .net, .out] s t)) ∧
  (∀ qpn psn kind s, validAck s qpn psn false = true → kind = 0 ∨ kind = 4 →
    Runs (.nakRx qpn psn kind) s (fun t =>
      (∀ p, p ∈ s.net.store → p.qpn = qpn → p.response = false → psnLe psn p.psn = true →
        psnLe p.psn ((psn + 2 ^ 24 - 1) % 2 ^ 24) = false → Sends s p.port → Out.packet p ∈ t.out) ∧
      (t.qp qpn).map (fun q => q.err) = (s.qp qpn).map (fun q => q.err) ∧ OnlyChanges [.clk, .jig, .bnt, .net, .out] s t)) ∧
  (∀ qpn psn kind q s, validAck s qpn psn false = true → 1 ≤ kind → kind ≤ 3 → s.qp qpn = some q →
    Runs (.nakRx qpn psn kind) s (fun t =>
      (t.qp qpn).map (fun q => q.err) = some (if kind = 3 then QpErr.fenced else .access) ∧
      (∀ p, p ∈ t.net.store → p.qpn ≠ qpn) ∧ OnlyChanges [.clk, .qci, .jig, .bnt, .net, .out] s t)) ∧
  (∀ qpn p q s, oldestTx s qpn = some p → s.qp qpn = some q → p.retries < q.retryCount →
    Runs (.ackTimeout qpn) s (fun t =>
      (∀ x, x ∈ s.net.store → x.qpn = qpn → x.response = false → psnLe p.psn x.psn = true → Sends s x.port →
        Out.packet { x with retries := if x.psn = p.psn then x.retries + 1 else x.retries } ∈ t.out) ∧
      t.net.qps = s.net.qps ∧ t.net.rx = s.net.rx ∧ OnlyChanges [.net, .out] s t)) ∧
  (∀ qpn p q s, oldestTx s qpn = some p → s.qp qpn = some q → q.retryCount ≤ p.retries →
    Runs (.ackTimeout qpn) s (fun t => (t.qp qpn).map (fun q => q.err) = some QpErr.retries ∧
      OnlyChanges [.clk, .qci, .jig, .bnt, .net, .out] s t)) ∧
  (∀ qpn q s, s.qp qpn = some q → 0 < q.unacked →
    Runs (.ackCoalesceTimer qpn) s (fun t => (Sends s (qpn / 2 ^ 24) → Out.ack qpn (ackPoint qpn s) ∈ t.out) ∧
      t.qp qpn = some { q with unacked := 0 } ∧ (∀ o, o ≠ qpn → t.qp o = s.qp o) ∧ OnlyChanges [.net, .out] s t)) ∧
  (∀ a k j p s, s.job a = some j → peerAt s a k = some p → p.freedReturned < p.freed → portUp s p.entry.port = true →
    Runs (.tallyReturnTimer a k) s (fun t =>
      ((s.qp p.qpn).isSome = true → (s.port p.entry.port).paused = [] → s.net.waiting = [] → deviceUsed s + 40 ≤ 2097152 →
        ∃ x, Out.packet x ∈ t.out ∧ x.qpn = p.qpn ∧ x.isReturn = true ∧ x.data = fieldBytes 16 [(0, 8, p.freed), (8, 4, j.epoch)]) ∧
      (peerAt t a k).map (fun x => x.freedReturned) = some p.freed ∧ OnlyChanges [.net, .out] s t)) ∧
  (∀ a k j p s, s.job a = some j → peerAt s a k = some p → portUp s p.entry.port = false →
    Runs (.tallyReturnTimer a k) s (fun t => t = s)) ∧
  (∀ id r q a k x s, nextRx s id (fun r => r.pkt.op == .send) = some (r, q) → q.peer = some (a, k) → peerAt s a k = some x →
    Runs (.tallyReturnRx ⟨id, []⟩) s (fun t =>
      (x.peerEpoch = leNat ((r.pkt.data.drop 8).take 4) →
        (peerAt t a k).map (fun y => y.returned) = some (max x.returned (leNat (r.pkt.data.take 8)))) ∧
      (x.peerEpoch ≠ leNat ((r.pkt.data.drop 8).take 4) → t.net.jobs = s.net.jobs ∧ OnlyChanges [.net] s t) ∧
      (∀ y, rxOf t id = some y → y.placed = true) ∧ OnlyChanges [.clk, .jig, .bnt, .net, .out] s t))

/-- On a notification not within 50 us of the last, the rate falls by the factor 1 - beta, to no less than 1 Gbit/s, and A returns
to its base; within 50 us nothing changes. At each step without one the rate rises by A, which is the base for five steps and
then doubles up to 80 Gbit/s, and ends at line rate. beta and A come from the settings in force, by default 1/8 and 5 Gbit/s. An
XOFF pauses its priority of its port, quanta 0 or the pause's end let it go on, with the frames that were held; no other port
changes. Corners that the rules leave open follow the model's choice (log entries 43 and 48). -/
def Obligations.CongestionSlowsAQueuePair : Prop :=
  (∀ qpn q s, s.qp qpn = some q → (∀ a, q.cnpAt = some a → a + 50 ≤ usNow s) →
    Runs (.cnpRx qpn) s (fun t =>
      t.qp qpn = some { q with
        rate := max 1000 (min q.rate (lineRate s q.port) - min q.rate (lineRate s q.port) / 2 ^ ecnShift s q.port)
        cnpAt := some (usNow s), cnpRuns := 0, stepRate := ecnBase s q.port } ∧
      (∀ o, o ≠ qpn → t.qp o = s.qp o) ∧ OnlyChanges [.net] s t)) ∧
  (∀ qpn q a s, s.qp qpn = some q → q.cnpAt = some a → usNow s < a + 50 →
    Runs (.cnpRx qpn) s (fun t => (∀ o, t.qp o = s.qp o) ∧ OnlyChanges [.net] s t)) ∧
  (∀ qpn q s, s.qp qpn = some q → q.cnpRuns < 5 →
    Runs (.cnpRateStep qpn) s (fun t =>
      t.qp qpn = some { q with rate := min (lineRate s q.port) (q.rate + ecnBase s q.port), cnpRuns := q.cnpRuns + 1,
                               stepRate := ecnBase s q.port } ∧
      (∀ o, o ≠ qpn → t.qp o = s.qp o) ∧ OnlyChanges [.net] s t)) ∧
  (∀ qpn q s, s.qp qpn = some q → 5 ≤ q.cnpRuns →
    Runs (.cnpRateStep qpn) s (fun t =>
      t.qp qpn = some { q with rate := min (lineRate s q.port) (q.rate + min 80000 (2 * q.stepRate)), cnpRuns := q.cnpRuns + 1,
                               stepRate := min 80000 (2 * q.stepRate) } ∧
      (∀ o, o ≠ qpn → t.qp o = s.qp o) ∧ OnlyChanges [.net] s t)) ∧
  (∀ s p, s.cfg.inForce = [] → ecnShift s p = 3 ∧ ecnBase s p = 5000) ∧
  (∀ port priority quanta s, portPresent s port = true →
    Runs (.pfcXoffRx port priority quanta) s (fun t => (priority ∈ (t.port port).paused ↔ quanta ≠ 0 ∧ priority < 8) ∧
      (∀ k, k ≠ priority → (k ∈ (t.port port).paused ↔ k ∈ (s.port port).paused)) ∧
      (∀ o, o ≠ port → t.port o = s.port o) ∧ OnlyChanges [.net, .out] s t ∧
      (quanta ≠ 0 → priority < 8 → t.out = s.out ∧ t.net.held = s.net.held))) ∧
  (∀ port priority s, portPresent s port = true →
    Runs (.pfcPauseExpiry port priority) s (fun t =>
      (t.port port).paused = (s.port port).paused.filter (fun k => k ≠ priority) ∧
      (∀ o, o ≠ port → t.port o = s.port o) ∧ OnlyChanges [.net, .out] s t ∧
      (portUp s port = true → (∀ k, k ∈ (s.port port).paused → k = priority) →
        (∀ h, h ∈ s.net.held → h.port = port → h.frame ∈ t.out) ∧ (∀ h, h ∈ t.net.held → h.port ≠ port)) ∧
      ((∀ h, h ∈ s.net.held → h.port ≠ port) → t.out = s.out ∧
        t.port port = { s.port port with paused := (s.port port).paused.filter (fun k => k ≠ priority) })))

/-- A port that is up and not paused, and whose frames are served, answers an address request for its own address, and an echo
request within 100 in a second; it keeps a partner's resolved address. A frame of a wrong size, FCS or EtherType, or of IP
traffic that the device does not take, counts as discarded. LLDP goes out on every port that is up; a received one is the port's
neighbour from now on, and, while no binding waits for neighbours, each bound peer of an up port that expects another has its
queue pair in error. A port that can train comes up in its MODE, announces its addresses, and asks for the partners that it has
not resolved, where no pause holds its frames; one that goes down counts in LINK_DOWNS; a training try of one that is down shows
its lanes' signal. An uncorrected rate above 1e-8 marks the port degraded. Corners that the rules leave open follow the model's
choice (log entries 54 and 55). -/
def Obligations.EthernetFramesAreAnswered : Prop :=
  (∀ port ip mac src s, portPresent s port = true → portsServed s = true → ip ∈ ownAddresses s port →
    Runs (.arpRequestRx port ip mac src) s (fun t => (Sends s port → Out.arpReply port ip ∈ t.out) ∧ OnlyChanges [.net, .out] s t)) ∧
  (∀ port ip mac s, portPresent s port = true → portsServed s = true → ip ∈ partners s port →
    Runs (.arpReplyRx port ip mac) s (fun t => (∀ m, (ip, m) ∈ (t.port port).arp ↔ m = mac) ∧ t.net.qps = s.net.qps ∧
      OnlyChanges [.net] s t)) ∧
  (∀ port ip src id s, portPresent s port = true → portsServed s = true → ip ∈ ownAddresses s port →
    ((s.port port).icmpFrom + 1000000 ≤ usNow s ∨ (s.port port).icmpCount < 100) →
    Runs (.icmpEchoRx port ip src id) s (fun t => (Sends s port → Out.icmpReply port src id ∈ t.out) ∧ OnlyChanges [.net, .out] s t)) ∧
  (∀ port n f ok s, portPresent s port = true → portsServed s = true →
    (n < 64 ∨ 9216 < n ∨ ok = false ∨ f.etherType ∉ etherTypes ∨ otherIp f = true) →
    Runs (.frameDiscard port n f ok) s (fun t =>
      mget 0 (t.port port).counters 0x130 = (mget 0 (s.port port).counters 0x130 + 1) % 2 ^ 64 ∧ t.net.qps = s.net.qps ∧
      OnlyChanges [.net] s t)) ∧
  (∀ s, portsServed s = true → s.kp.hubHeld = false →
    Runs .lldpSend s (fun t => (∀ p, portPresent s p = true → portUp s p = true →
      Out.lldp p s.kp.fuses.serial.toNat p 20 ∈ t.out) ∧ OnlyChanges [.net, .out] s t)) ∧
  (∀ port f s, portPresent s port = true → portsServed s = true →
    Runs (.lldpRx port f) s (fun t => (t.port port).neighbour = some f ∧ (t.port port).neighbourAt = keeperNow s ∧
      ((∀ e, e ∈ present s.net.binding → e.2.phase ≠ 1) →
        (∀ p q, p ∈ boundPeers s port → portUp s port = true →
          f ≠ { subtype := p.entry.expSubtype, chassis := p.entry.expChassis, portId := p.entry.expPort } →
          s.qp p.qpn = some q → (t.qp p.qpn).map (fun q => q.err) = some QpErr.topology) ∧
        OnlyChanges [.clk, .qci, .jig, .bnt, .net, .out] s t))) ∧
  (∀ port s, portPresent s port = true → canTrain s port = true →
    Runs (.portLinkUp port) s (fun t => (t.port port).link = modeLink (modeOf s port) ∧ (t.port port).lit = true ∧
      (∀ ip, ip ∈ ownAddresses s port → (s.port port).paused = [] → Out.announce port ip ∈ t.out) ∧
      (∀ ip, ip ∈ partners s port → (s.port port).paused = [] → (∀ e, e ∈ (s.port port).arp → e.1 ≠ ip) → Out.arpRequest port ip ∈ t.out) ∧
      (∀ o, o ≠ port → t.port o = s.port o) ∧ OnlyChanges [.net, .out] s t)) ∧
  (∀ port l s, portPresent s port = true → portUp s port = true →
    Runs (.portLinkDown port l) s (fun t => (t.port port).link = 0 ∧ (t.port port).laneSignal = l ∧
      (t.port port).linkDowns = sat 0xFFFF ((s.port port).linkDowns + 1) ∧ (∀ o, o ≠ port → t.port o = s.port o) ∧
      OnlyChanges [.net] s t)) ∧
  (∀ port l s, portPresent s port = true → (s.port port).link = 0 →
    Runs (.portTrainRetry port l) s (fun t => t.port port = { s.port port with laneSignal := l, lit := decide (l ≠ 0) } ∧
      OnlyChanges [.net] s t)) ∧
  (∀ port c u s, portPresent s port = true →
    Runs (.fecRateCheck port c u) s (fun t => ((t.port port).linkDegraded = true ↔
        ((s.port port).linkDegraded = true ∨ codewordsPerSecond s port < u * 10 ^ 8)) ∧
      (∀ o, o ≠ port → t.port o = s.port o) ∧ OnlyChanges [.net] s t))

/-- The poll shows what each engine's channel reads and puts out an enabled laser whose module is absent or in fault: its faults
count, and both ports report it and go down unless disabled. A module fault puts out a laser at once. A laser that is off and
allowed comes on if it works; a failed try counts. An open connector turns its port's light off and takes the port down unless
disabled; each probe is sent, and the third mated one in a row turns it on again. A loss of light is noted on the port. Corners
that the rules leave open follow the model's choice (log entry 56). -/
def Obligations.LightIsWatched : Prop :=
  (∀ l bad s, (s.kp.hubHeld = false ∨ s.kp.stage = 0xD) →
    Runs (.laserPoll l bad) s (fun t =>
      (∀ e m, enginePresent s e = true → m = l.find? (fun m => decide (m.engine = e)) →
        (t.engine e).module = m ∧ (t.engine e).laserPresent = m.isSome ∧
        ((t.engine e).laserFault = true ↔ m ≠ none ∧ e ∈ bad) ∧
        ((s.engine e).laserOn = true → (m = none ∨ (t.engine e).laserFault = true) →
          (t.engine e).laserOn = false ∧ (t.engine e).laserFaults = (s.engine e).laserFaults + 1 ∧
          (∀ p, p / 2 = e → (t.port p).laserFault = true ∧
            (t.port p).link = (if (s.port p).link = 3 then 3 else 0)))) ∧
      OnlyChanges [.net] s t)) ∧
  (∀ e c s, enginePresent s e = true → (s.engine e).laserOn = true →
    Runs (.laserModuleFault e c) s (fun t => (t.engine e).laserOn = false ∧
      (t.engine e).laserFaults = (s.engine e).laserFaults + 1 ∧ (t.port (2 * e)).laserFault = true ∧
      (t.port (2 * e + 1)).laserFault = true ∧
      (t.engine e).laserFault = ((s.engine e).laserFault || decide (c = 0)) ∧
      (t.engine e).laserPresent = ((s.engine e).laserPresent && decide (c ≠ 2)) ∧ (∀ o, o ≠ e → t.engine o = s.engine o) ∧ OnlyChanges [.net] s t)) ∧
  (∀ e works s, enginePresent s e = true → (s.engine e).laserOn = false → laserAllowed s e = true →
    Runs (.laserRetry e works) s (fun t => (t.engine e).laserOn = works ∧
      (t.engine e).laserFaults = (s.engine e).laserFaults + (if works then 0 else 1) ∧ OnlyChanges [.net] s t)) ∧
  (∀ port s, portPresent s port = true →
    Runs (.reflectionOpen port) s (fun t => (t.port port).lightOff = true ∧
      (t.port port).link = (if (s.port port).link = 3 then 3 else 0) ∧ (∀ o, o ≠ port → t.port o = s.port o) ∧
      OnlyChanges [.net] s t)) ∧
  (∀ port s, portPresent s port = true → (s.port port).lightOff = true →
    Runs (.reflectionProbe port true) s (fun t =>
      ((t.port port).lightOff = true ↔ (s.port port).mated < 2) ∧
      ((s.port port).mated < 2 → (t.port port).mated = (s.port port).mated + 1) ∧ t.out = s.out ++ [.probe port] ∧
      OnlyChanges [.net, .out] s t)) ∧
  (∀ port s, portPresent s port = true → (s.port port).lightOff = true →
    Runs (.reflectionProbe port false) s (fun t => t.port port = { s.port port with mated := 0 } ∧ t.out = s.out ++ [.probe port] ∧
      OnlyChanges [.net, .out] s t)) ∧
  (∀ port s, portPresent s port = true →
    Runs (.portLightLoss port) s (fun t => t.port port = { s.port port with lit := false } ∧
      (∀ o, o ≠ port → t.port o = s.port o) ∧ OnlyChanges [.net] s t))

/-- On a link in service, clocked at both ends, each direction keeps its own flits in order. A flit that passes its check is the
oldest of its direction: it is delivered and acknowledged, and the others stay in order. One that fails has the sender replay
all that it holds, loses none, and counts at its time; while the count in the window is within the threshold the link stays in
service. Beyond it the link is retired, and the flits of both its directions follow those of the lowest-numbered link that
remains of its bundle, if one does; nothing else changes if the topology still holds. A keeper-link message that fails
authentication is logged, or waits for the log, and does nothing else. Corners that the rules leave open follow the model's
choice (log entry 57). -/
def Obligations.DieLinksReplay : Prop :=
  (∀ n back x f rest s, n < 96 → linkUp s n = true → linkClocked s n = true →
    ((s.link n).dir back).flits ++ x.toList = f :: rest →
    Runs (.linkFlitRx n ⟨back, x, true⟩) s (fun t => Out.flit n back f ∈ t.out ∧ Out.flitAck n back ∈ t.out ∧
      ((t.link n).dir back).flits = rest ∧ (t.link n).dir (!back) = (s.link n).dir (!back) ∧
      (t.link n).state = (s.link n).state ∧ (∀ o, o ≠ n → t.link o = s.link o) ∧ OnlyChanges [.lnk, .out] s t)) ∧
  (∀ n back x f rest recent s, n < 96 → linkUp s n = true → linkClocked s n = true →
    ((s.link n).dir back).flits ++ x.toList = f :: rest →
    recent = ((s.link n).replays.filter (fun a => decide (keeperNow s < a + replayWindow s))) ++ [keeperNow s] →
    recent.length ≤ replayLimit s →
    Runs (.linkFlitRx n ⟨back, x, false⟩) s (fun t => Out.flitReplay n back ((t.link n).dir back).held.length ∈ t.out ∧
      ((t.link n).dir back).flits = f :: rest ∧ (t.link n).dir (!back) = (s.link n).dir (!back) ∧
      (t.link n).replays = recent ∧ (t.link n).state = (s.link n).state ∧
      (∀ o, o ≠ n → t.link o = s.link o) ∧ OnlyChanges [.lnk, .out] s t)) ∧
  (∀ n back x f rest s, n < 96 → linkUp s n = true → linkClocked s n = true →
    ((s.link n).dir back).flits ++ x.toList = f :: rest →
    replayLimit s < ((s.link n).replays.filter (fun a => decide (keeperNow s < a + replayWindow s))).length + 1 →
    Runs (.linkFlitRx n ⟨back, x, false⟩) s (fun t => (t.link n).state = 2 ∧
      (∀ m, ((bundleOf n).filter (fun m => decide (m ≠ n))).find? (linkUp s) = some m →
        ((t.link m).dir back).flits = ((s.link m).dir back).flits ++ f :: rest ∧
        ((t.link m).dir (!back)).flits = ((s.link m).dir (!back)).flits ++ ((s.link n).dir (!back)).flits ∧
        (∀ o, o ≠ n → o ≠ m → t.link o = s.link o)) ∧
      (linksBroken (s.setLink n (fun l => { l with state := 2 })) = false → OnlyChanges [.lnk, .out] s t))) ∧
  (∀ s, Runs (.keeperLinkMessage false) s (fun t =>
      (mramOpen s = true → ∃ e, e ∈ t.kp.log ∧ e.code = 3 ∧ e.time = keeperNow s) ∧
      (mramOpen s = false → queuedMram s.kp < 256 → ∃ e, e ∈ t.kp.logQueue ∧ e.code = 3 ∧ e.time = keeperNow s) ∧
      OnlyChanges [.kp] s t)) ∧
  (∀ s, Runs (.keeperLinkMessage true) s (fun t => t = s))

/-- A refresh that falls due waits; one more is postponed and raises POSTPONE_PEAK; with four postponed, one issues by force and
counts in FORCED. In a bank that no sequence holds or runs in a waiting refresh issues: the due one, else one that was
postponed. In such a bank a scrub visit moves its pointer to the next of 528 rows, and no byte changes. A corrected SRAM word is
written back. The oldest candidates of a bent leave its table. With MRAM open, no remap waits for its write. A recorded remap of
a row that no sequence has pinned, when the bank has its turn, is carried out: it is done, and slices and benches hold what they
held; one of a pinned row is left to the next reset, in which the copy runs. Corners that the rules leave open follow the
model's choice (log entries 33, 34 and 40). -/
def Obligations.RefreshAndRepair : Prop :=
  (∀ j b s, bankRefreshed s j b = true → (s.refresh j b).postponed < 4 →
    Runs (.refreshDue j b) s (fun t =>
      t.refresh j b = (if (s.refresh j b).due then { s.refresh j b with postponed := (s.refresh j b).postponed + 1 }
        else { s.refresh j b with due := true }) ∧
      ((s.refresh j b).due = true → (s.refresh j b).postponed + 1 ≤ (t.bent (keyBent j)).postponePeak) ∧
      OnlyChanges [.rfr, .bnt] s t)) ∧
  (∀ j b s, bankRefreshed s j b = true → 4 ≤ (s.refresh j b).postponed →
    Runs (.refreshDue j b) s (fun t =>
      t.refresh j b = { s.refresh j b with pointer := ((s.refresh j b).pointer + 1) % 512,
                                           commands := ((s.refresh j b).commands + 1) % 512 } ∧
      (t.bent (keyBent j)).forced = sat 0xFFFF ((s.bent (keyBent j)).forced + 1) ∧ OnlyChanges [.jig, .rfr, .bnt] s t)) ∧
  (∀ j b s, bankRefreshed s j b = true → bankIdle s j b = true →
    ((s.refresh j b).due = true ∨ 0 < (s.refresh j b).postponed) →
    Runs (.refreshIssue j b) s (fun t =>
      t.refresh j b = { s.refresh j b with due := false, postponed := (s.refresh j b).postponed - (if (s.refresh j b).due then 0 else 1), pointer := ((s.refresh j b).pointer + 1) % 512,
                                           commands := ((s.refresh j b).commands + 1) % 512 } ∧
      OnlyChanges [.rfr] s t)) ∧
  (∀ j b l s, bankRefreshed s j b = true → 0 < (s.bent (keyBent j)).rate → bankIdle s j b = true →
    Runs (.scrubVisit j b l) s (fun t => mget 0 t.ecc.scrub (j * 32 + b) = (mget 0 s.ecc.scrub (j * 32 + b) + 1) % 528 ∧
      t.mem.slice = s.mem.slice ∧ t.mem.bench = s.mem.bench ∧ OnlyChanges [.clk, .kp, .jig, .joi, .mem, .ecc, .bnt] s t)) ∧
  (∀ j u w s, Runs (.sramCe1Writeback j u w) s (fun t => t.ecc = { s.ecc with writebacks := s.ecc.writebacks.erase (j, u, w) } ∧
    OnlyChanges [.ecc] s t)) ∧
  (∀ b s, b < 4 → Runs (.ce2CandidateExpiry b) s (fun t =>
    mget [] t.ecc.candidates b = expireOldest (mget [] s.ecc.candidates b) ∧
    (∀ o, o ≠ b → mget [] t.ecc.candidates o = mget [] s.ecc.candidates o) ∧ OnlyChanges [.ecc] s t)) ∧
  (∀ s, mramOpen s = true → Runs .remapMramRetry s (fun t => (∀ r, r ∈ t.kp.remaps → r.unwritten = false) ∧
    t.kp = { s.kp with remaps := t.kp.remaps } ∧ OnlyChanges [.kp] s t)) ∧
  (∀ j b row l r s, pendingRemap s j b row = some r → controllerReset s (keyBent j) = false → bankRefreshed s j b = true → r.atReset = false →
    rowPinned s j b row = false → pegTurn s j b = true →
    Runs (.remapCopy j b ⟨row, l⟩) s (fun t => pendingRemap t j b row = none ∧
      (∃ x, x ∈ t.kp.remaps ∧ x.joist = j ∧ x.bank = b ∧ x.row = row ∧ x.spare = r.spare ∧ x.isDone = true) ∧
      t.mem.slice = s.mem.slice ∧ t.mem.bench = s.mem.bench ∧ OnlyChanges [.clk, .kp, .jig, .joi, .mem, .rfr, .ecc, .bnt] s t)) ∧
  (∀ j b row l r s, pendingRemap s j b row = some r → controllerReset s (keyBent j) = false → bankRefreshed s j b = true → r.atReset = false →
    rowPinned s j b row = true →
    Runs (.remapCopy j b ⟨row, l⟩) s (fun t => { r with atReset := true } ∈ t.kp.remaps ∧ t.kp = { s.kp with remaps := t.kp.remaps } ∧
      OnlyChanges [.kp] s t)) ∧
  (∀ j b row l r s, pendingRemap s j b row = some r → controllerReset s (keyBent j) = true →
    Runs (.remapCopy j b ⟨row, l⟩) s (fun t => pendingRemap t j b row = none ∧
      (∃ x, x ∈ t.kp.remaps ∧ x.joist = j ∧ x.bank = b ∧ x.row = row ∧ x.spare = r.spare ∧ x.isDone = true) ∧
      t.mem.slice = s.mem.slice ∧ t.mem.bench = s.mem.bench ∧ OnlyChanges [.clk, .kp, .jig, .joi, .mem, .ecc] s t))

/-- A sample of a site is that site's state from then on, the keeper's where it does not trip. A sample of a bent's sill or
laminations past HUB without a trip: the level rises by one above SILL_LIMIT or 95 C, and at 85 C the bent refreshes in the hot
band. In READY, with no partition reset running, a tripping site stops the bent's clock, puts its laminations into self-refresh
and begins the trip's own reset. Cap sites that rise by more than 3 C per ms twice running cause a drop: every bent stops, its
transit clock too, every step ends, COOLANT_LOSS is latched. A tripped bent that has cooled gets a partition reset in READY or
FAILED, a stopped bring-up starts again; a hub gets a warm device reset, an engine a calibration. Corners that the rules leave
open follow the model's choice (log entries 51 and 63). -/
def Obligations.TemperatureIsJudged : Prop :=
  (∀ r s, siteExists r.site = true → (r.site = keeperSite → keeperTemp (sampleSite r s) < 105 * 16) →
    Runs (.sensorSample [r]) s (fun t => t.site r.site = judgePair r (s.site r.site) ∧
      (∀ o, o ≠ r.site → t.site o = s.site o) ∧ t.kp.fuses = s.kp.fuses)) ∧
  (∀ r b u s, r.site < 512 → r.site / 128 = b → r.site % 128 < 72 → u = sampleSite r s → 2 ≤ s.kp.stage → s.kp.stage ≠ 0xD →
    (s.bent b).sillPresent = true → bentTripping u b = none →
    Runs (.sensorSample [r]) s (fun t => (t.bent b).sillT = sillTempOf u b ∧ (t.bent b).lamT = lamTempOf u b ∧
      ((sillLimit s b * 16 < sillTempOf u b ∨ 95 * 16 < lamTempOf u b) →
        (t.bent b).lTherm = min 32 ((s.bent b).lTherm + 1)) ∧
      (85 * 16 ≤ lamTempOf u b → (t.bent b).hot = true) ∧ OnlyChanges [.kp, .jig, .joi, .rfr, .bnt, .thm] s t)) ∧
  (∀ r b u a s, r.site < 512 → r.site / 128 = b → r.site % 128 < 72 → u = sampleSite r s → s.kp.stage = 0xA →
    (s.bent b).sillPresent = true → (s.bent b).tripped = false → bentsInReset s = [] → bentTripping u b = some a →
    Runs (.sensorSample [r]) s (fun t => (t.bent b).tripped = true ∧ (t.bent b).stopped = true ∧
      (t.bent b).inSelfRefresh = true ∧ 4 ∈ t.pwr.alerts ∧
      (∃ z, t.pwr.resets = s.pwr.resets ++ [z] ∧ z.bents = [b] ∧ z.cause = 3))) ∧
  (∀ b r u v s, b < 4 → r.site ∈ capSites b → u = sampleSite r s →
    v = (nearValue u r.site).getD ((s.bent b).capT + 80) → s.kp.coolantLoss = false →
    Runs (.capSample b [r]) s (fun t => (t.site r.site).history = (v :: (u.site r.site).history).take 4 ∧
      (2 ≤ (riseStep v (u.site r.site)).steep → t.kp.coolantLoss = true ∧ t.pwr.thermtrip = true ∧ t.jig.steps = [] ∧
        (∀ n, n < 4 → (t.bent n).stopped = true ∧ (t.bent n).transit = false ∧ (t.bent n).refreshOn = false)))) ∧
  (∀ b s, b < 4 → (s.bent b).tripped = true → bentCool s b = true → s.kp.coolantLoss = false →
    (s.kp.stage = 0xA ∨ s.kp.stage = 0xC) → (bentsInReset s).contains b = false →
    Runs (.bentTripClear b) s (fun t => (∃ z, t.pwr.resets = s.pwr.resets ++ [z] ∧ z.bents = [b] ∧ z.cause = 2 ∧ z.cxs = []) ∧
      OnlyChanges [.pwr] s t)) ∧
  (∀ b s, b < 4 → (s.bent b).tripped = true → bentCool s b = true → s.kp.coolantLoss = false → s.kp.stage < 0xA →
    s.kp.raising = false →
    Runs (.bentTripClear b) s (fun t => t.kp.stage = 0 ∧ t.kp.raising = true ∧ t.kp.coldStart = false ∧ t.kp.fullTests = true ∧
      t.mem.slice = s.mem.slice ∧ t.kp.fuses = s.kp.fuses)) ∧
  (∀ s, s.thm.hubTripped = true → s.thm.hubT ≤ 85 * 16 →
    Runs .hubTripClear s (fun t => t.kp.stage = 0 ∧ t.kp.raising = true ∧ t.kp.coldStart = false ∧ t.kp.fullTests = true ∧
      t.thm.hubTripped = false ∧ t.mem.slice = s.mem.slice ∧ t.kp.fuses = s.kp.fuses)) ∧
  (∀ e ok s, enginePresent s e = true → (s.engine e).tripped = true → (s.engine e).temp ≤ 70 * 16 →
    Runs (.engineTripClear e ok) s (fun t => (t.engine e).tripped = false ∧ (t.engine e).pllLock = ok ∧
      (t.engine e).state = (if ok then 0 else 1) ∧ OnlyChanges [.net] s t))

/-- A measurement shows the 10 ms average; L_CAP rises by one where the average exceeds PCAP and by four where the power exceeds
2,300 W, to 32 at most, else it stays. The lowering event takes one off at or below 95 per cent of PCAP and leaves it above. An
update at 400 W or more moves R a two-thousandth of the way to its new value, at less it leaves R. PCAP takes the value of its
formula and its bounds and lies between 400 W and 2,000 W. In RETAIN both stay. Corners that the rules leave open follow the
model's choice (log entries 22 and 63). -/
def Obligations.PowerIsHeld : Prop :=
  (∀ w a s, Runs (.powerMeasure w a) s (fun t => t.thm.p10ms = a ∧ t.thm.pcap = s.thm.pcap ∧
    (a ≤ s.thm.pcap → w ≤ 2300 → t.thm.lCap = s.thm.lCap) ∧
    (s.thm.pcap < a → w ≤ 2300 → t.thm.lCap = min 32 (s.thm.lCap + 1)) ∧
    (a ≤ s.thm.pcap → 2300 < w → t.thm.lCap = min 32 (s.thm.lCap + 4)) ∧
    (s.thm.pcap < a → 2300 < w → t.thm.lCap = min 32 (s.thm.lCap + 5)) ∧ OnlyChanges [.jig, .joi, .rfr, .bnt, .thm] s t)) ∧
  (∀ a s, Runs (.lcapLower a) s (fun t =>
    t.thm = { s.thm with lCap := (if 100 * a ≤ 95 * s.thm.pcap then s.thm.lCap - 1 else s.thm.lCap) } ∧
    OnlyChanges [.jig, .joi, .rfr, .bnt, .thm] s t)) ∧
  (∀ a th x s, s.pwr.retain < 2 → 400 ≤ a → x = sampleRth (s.onThm (fun t => { t with thermistor := th })) a →
    Runs (.rthUpdate a th) s (fun t => t.thm.thermistor = th ∧
      t.thm.rth * 2000 + t.thm.rthFrac + s.thm.rth = s.thm.rth * 2000 + s.thm.rthFrac + x ∧ OnlyChanges [.thm] s t)) ∧
  (∀ a th s, (2 ≤ s.pwr.retain ∨ a < 400) →
    Runs (.rthUpdate a th) s (fun t => t.thm.thermistor = th ∧ t.thm.rth = s.thm.rth ∧ t.thm.rthFrac = s.thm.rthFrac ∧
      OnlyChanges [.thm] s t)) ∧
  (∀ s, s.pwr.retain < 2 → Runs .pcapUpdate s (fun t => 400 ≤ t.thm.pcap ∧ t.thm.pcap ≤ 2000 ∧
    t.thm = { s.thm with pcap := (capOf s).1, pcapSource := (capOf s).2 } ∧ OnlyChanges [.thm] s t)) ∧
  (∀ s, 2 ≤ s.pwr.retain → Runs .pcapUpdate s (fun t => t = s))

/-- While the framer runs, a tick raises FRAMER by one modulo 65,536, ends a stall and its cause of ALERT_N, and no record waits any
more. A stall that the keeper sees while the framer is to run sets its flag and the cause. A failed health test stops random
numbers and is logged, or waits for the log; a recovery lets them go on. With MRAM open, the queued entries are written in
order, the first with the count of those lost, and the queued cycle counts join their totals. Corners that the rules leave open
follow the model's choice (log entries 63 and 69). -/
def Obligations.TheKeeperWatches : Prop :=
  (∀ s, framerRuns s = true →
    Runs .heartbeatTick s (fun t => t.qci.framer = (s.qci.framer + 1) % 65536 ∧ t.qci.waiting = [] ∧
      t.kp = { s.kp with framerStall := false } ∧ 3 ∉ t.pwr.alerts ∧ OnlyChanges [.kp, .qci, .net, .pwr, .out] s t ∧
      (s.qci.waiting = [] → t.qci = { s.qci with framer := (s.qci.framer + 1) % 65536 } ∧ OnlyChanges [.kp, .qci, .pwr] s t))) ∧
  (∀ s, s.kp.hubHeld = false → 2 ≤ s.kp.stage → s.kp.stage ≤ 0xC → (s.pwr.retain < 4 ∨ s.pwr.retain = 8) →
    Runs .framerStall s (fun t => t.kp = { s.kp with framerStall := true } ∧ 3 ∈ t.pwr.alerts ∧ OnlyChanges [.kp, .pwr] s t)) ∧
  (∀ s, s.kp.randomOk = true →
    Runs .randomHealthFail s (fun t => t.kp.randomOk = false ∧
      (mramOpen s = true → ∃ e, e ∈ t.kp.log ∧ e.code = 4 ∧ e.time = keeperNow s) ∧
      (mramOpen s = false → queuedMram s.kp < 256 → ∃ e, e ∈ t.kp.logQueue ∧ e.code = 4 ∧ e.time = keeperNow s) ∧
      OnlyChanges [.kp] s t)) ∧
  (∀ s, Runs .randomHealthRecovered s (fun t => t.kp = { s.kp with randomOk := true } ∧ OnlyChanges [.kp] s t)) ∧
  (∀ s, mramOpen s = true →
    Runs .mramQueueFlush s (fun t => t.kp.log = (withLost s.kp.logLost s.kp.logQueue).foldl mramAppend s.kp.log ∧
      t.kp.logQueue = [] ∧ t.kp.cyclesQueued = [] ∧ (s.kp.cyclesQueued = [] → t.kp.cycleTotals = s.kp.cycleTotals) ∧
      OnlyChanges [.kp] s t))

/-- With PWROK high, the loss of REFCLK or the hub PLL holds the dies in reset, stops every bent, is logged, or waits for the log,
and asserts ALERT_N; its return starts bring-up warm on the full path. A sill PLL's loss stops its bent and the transit clock,
the laminations in self-refresh; its return, no drop standing, sets LOCK, and requests a partition reset in READY or FAILED, or
lets a raised bent run before; after three failures the bent is out of service and its bays released. An engine PLL's loss puts
its laser out and takes its ports down unless disabled; its return calibrates it again. PWROK rising starts a cold bring-up,
falling empties slices and benches but not MRAM; RST_N starts bring-up warm with the slices kept; VDD_KEEP's removal ends the
latched trips and keeper SRAM. Corners that the rules leave open follow the model's choice (log entry 64). -/
def Obligations.ClocksAndRailsFail : Prop :=
  (∀ hub s, s.pwr.pwrok = true →
    Runs (.refclkLoss hub) s (fun t => t.kp.hubHeld = true ∧ t.kp.raising = false ∧ 5 ∈ t.pwr.alerts ∧
      (mramOpen s = true → ∃ e, e ∈ t.kp.log ∧ e.code = 0xF) ∧
      (mramOpen s = false → queuedMram s.kp < 256 → ∃ e, e ∈ t.kp.logQueue ∧ e.code = 0xF) ∧ (∀ b, b < 4 → (t.bent b).stopped = true) ∧ t.pwr.refclk = (hub && s.pwr.refclk) ∧
      t.mem.slice = s.mem.slice ∧ t.kp.fuses = s.kp.fuses ∧ t.kp.records = s.kp.records)) ∧
  (∀ s, s.pwr.alerts.contains 5 = true → s.pwr.pwrok = true →
    Runs .refclkValid s (fun t => t.kp.stage = 0 ∧ t.kp.raising = true ∧ t.kp.coldStart = false ∧ t.kp.fullTests = true ∧
      5 ∉ t.pwr.alerts ∧ t.pwr.refclk = true ∧ t.mem.slice = s.mem.slice ∧ t.kp.fuses = s.kp.fuses)) ∧
  (∀ b s, b < 4 → (s.bent b).sillLock = true →
    Runs (.sillPllLoss b) s (fun t => (t.bent b).sillLock = false ∧ (t.bent b).stopped = true ∧ (t.bent b).transit = false ∧
      (t.bent b).inSelfRefresh = true ∧
      t.pwr.pllLoss = true ∧ (∀ o, o ≠ b → t.bent o = s.bent o) ∧ OnlyChanges [.rfr, .bnt, .pwr] s t)) ∧
  (∀ b n s, b < 4 → (s.bent b).sillLock = false → (s.kp.stage = 0xA ∨ s.kp.stage = 0xC) → s.pwr.retain < 5 → n < 3 →
    bentsInReset s = [] → dropped s = false →
    Runs (.sillPllRelock b n) s (fun t => t.bent b = { s.bent b with sillLock := true, transit := true } ∧
      (∃ z, t.pwr.resets = s.pwr.resets ++ [z] ∧ z.bents = [b] ∧ z.cause = 0) ∧ OnlyChanges [.bnt, .pwr] s t)) ∧
  (∀ b n s, b < 4 → (s.bent b).sillLock = false → 3 ≤ s.kp.stage → s.kp.stage ≤ 0xB → s.kp.stage ≠ 0xA → s.pwr.retain < 5 →
    n < 3 → (s.bent b).up = true → (s.bent b).tripped = false → dropped s = false →
    Runs (.sillPllRelock b n) s (fun t => (t.bent b).sillLock = true ∧ (t.bent b).transit = true ∧ (t.bent b).stopped = false ∧
      (∀ o, o ≠ b → t.bent o = s.bent o) ∧ OnlyChanges [.bnt] s t)) ∧
  (∀ b n s, b < 4 → (s.bent b).sillLock = false → 3 ≤ s.kp.stage → s.kp.stage ≠ 0xD → s.pwr.retain < 5 → 3 ≤ n →
    Runs (.sillPllRelock b n) s (fun t => (t.bent b).outOfService = true ∧ (t.bent b).rows = 0 ∧
      (∀ i, i ∈ baysOnBents s [b] → t.bayOf i = none))) ∧
  (∀ e s, enginePresent s e = true → (s.engine e).pllLock = true →
    Runs (.enginePllLoss e) s (fun t => (t.engine e).pllLock = false ∧ (t.engine e).laserOn = false ∧ t.pwr.pllLoss = true ∧
      (∀ p, p / 2 = e → (t.port p).link = (if (s.port p).link = 3 then 3 else 0)) ∧ OnlyChanges [.net, .pwr] s t)) ∧
  (∀ e ok s, enginePresent s e = true → (s.engine e).pllLock = false → (s.engine e).tripped = false → (s.engine e).state = 0 →
    (s.pwr.retain < 2 ∨ 7 < s.pwr.retain) →
    Runs (.enginePllRelock e ok) s (fun t => (t.engine e).pllLock = ok ∧ (t.engine e).state = (if ok then 0 else 1) ∧
      OnlyChanges [.net] s t)) ∧
  (∀ s, s.pwr.pwrok = false →
    Runs .pwrokRise s (fun t => t.pwr.pwrok = true ∧ t.kp.stage = 0 ∧ t.kp.raising = true ∧ t.kp.coldStart = true ∧
      t.kp.t0 = keeperNow s ∧ t.kp.fuses = s.kp.fuses ∧ OnlyChanges [.kp, .pwr] s t)) ∧
  (∀ s, s.pwr.pwrok = true →
    Runs .pwrokFall s (fun t => t.pwr.pwrok = false ∧ t.kp.hubHeld = true ∧ t.kp.raising = false ∧ t.mem = {} ∧
      t.kp.log = s.kp.log ∧ t.kp.fuses = s.kp.fuses ∧ t.kp.records = s.kp.records ∧ (∀ b, b < 4 → (t.bent b).stopped = true))) ∧
  (∀ s, s.pwr.pwrok = true → s.kp.keeperTrip = false →
    Runs .rstNAssert s (fun t => t.kp.stage = 0 ∧ t.kp.raising = true ∧ t.kp.coldStart = false ∧ t.qci = {} ∧
      t.mem.slice = s.mem.slice ∧ t.mem.bench = [] ∧ t.kp.fuses = s.kp.fuses ∧ t.kp.log = s.kp.log)) ∧
  (∀ s, Runs .vddKeepRemoved s (fun t => t.kp.coolantLoss = false ∧ t.kp.keeperTrip = false ∧ t.kp.retention = none ∧
    t.clk.t = 0 ∧ t.kp.log = s.kp.log ∧ t.kp.fuses = s.kp.fuses ∧ t.kp.records = s.kp.records ∧
    t.kp.operatorKey = s.kp.operatorKey ∧ t.kp.fwCounter = s.kp.fwCounter ∧ t.mem = {}))

/-- For every command c and state s, a step of s with c at the front of its queue is exec of c on s with the queue's rest. Whatever
exec answers next has the same queue. -/
def Obligations.StepRunsTheFront : Prop :=
  (∀ (c : Instr) (rest : List Instr) (s : State), step { s with pending := c :: rest } = exec c { s with pending := rest }) ∧
  (∀ c s t, exec c s = .next t → t.pending = s.pending)

/-- A step on an empty queue lets 136 periods of 3.4 GHz pass, one cycle of the keeper's oscillator, as log entry 10 chooses. The
joist clock of every bent that runs counts the cycles of its level, that of a stopped bent none. Nothing else changes. -/
def Obligations.IdleStepTicks : Prop :=
  ∀ s, s.pending = [] → ∃ t, step s = .next t ∧ t.clk = { s.clk with t := s.clk.t + 136 } ∧
    keeperNow t = keeperNow s + 1 ∧
    (∀ b, b < 4 → t.bent b = (if (s.bent b).stopped then s.bent b else
      { s.bent b with aclk := (s.bent b).aclk + aclkStep (levelOf s b) })) ∧
    OnlyChanges [.clk, .bnt] s t

/-- For every state whose benches, slices and rows behind remaps list each byte once, in rising order, and none that is zero, every
step that answers a next state answers one of which this holds. For every state in which no bank has more than four postponed
refreshes, the same. -/
def Obligations.StepsKeepTheState : Prop :=
  (∀ s t, MemoryKept s → step s = .next t → MemoryKept t) ∧
  (∀ s t, PostponedLow s → step s = .next t → PostponedLow t)

/-- After reset benches and slices are in their canonical form, no refresh is postponed, no command waits, PWROK is low and the hub
is held. Every bent has PEG_MAX and PEG_EFF 8, SCRUB_RATE 1, SILL_LIMIT 105, scribe epoch 1 and the normal band; every engine
reports STATE 3; CFG_EPOCH and JOB_EPOCH are 1; PCAP is 2,000 W; every bay's progress is absent; DATUM_CTL and AMAX_EXP read
zero. Values that no register table gives are the model's choice (log entry 1) and are not named here. -/
def Obligations.ResetIsWellKept : Prop :=
  MemoryKept State.reset ∧ PostponedLow State.reset ∧ State.reset.pending = [] ∧ State.reset.pwr.pwrok = false ∧
  State.reset.kp.hubHeld = true ∧ State.reset.cfg.epoch = 1 ∧ State.reset.net.jobEpoch = 1 ∧ State.reset.thm.pcap = 2000 ∧
  (∀ b, (State.reset.bent b).pegMax = 8 ∧ (State.reset.bent b).pegEff = 8 ∧ (State.reset.bent b).rate = 1 ∧
    sillLimit State.reset b = 105 ∧ (State.reset.bent b).scribeEpoch = 1 ∧ (State.reset.bent b).hot = false) ∧
  (∀ e, (State.reset.engine e).state = 3) ∧ (∀ n, State.reset.bayOf n = none ∧ State.reset.session n = none) ∧
  (∀ j g, (State.reset.group j g).datumCtl = 0 ∧ (State.reset.group j g).amaxExp = 0) ∧
  (∀ inSlice a, mget 0 (State.reset.mem.cells inSlice) a = 0)

/-- The fuse array is written once at manufacture: whatever the state and the command or event, a step that answers a next state
leaves the device serial, the MAC address base, the variant fields, the key hashes, the revoke fuses and the defect bits as they
were. -/
def Obligations.NoStepChangesFuses : Prop := ∀ s t, step s = .next t → t.kp.fuses = s.kp.fuses

/-- A sample that shows the keeper at its trip temperature trips it: every other die is held in reset, bring-up does not run,
THERMTRIP_N is asserted and the trip is latched. From any state with the trip latched, every command and event but the removal
of VDD_KEEP leaves it latched, bring-up does not pass its first stage, and the removal ends it. -/
def Obligations.KeeperTripLatches : Prop :=
  (∀ r s, r.site = keeperSite → s.kp.keeperTrip = false → 105 * 16 ≤ keeperTemp (sampleSite r s) →
    Runs (.sensorSample [r]) s (fun t => t.kp.keeperTrip = true ∧ t.kp.hubHeld = true ∧ t.kp.raising = false ∧ t.kp.stage = 0 ∧
      t.pwr.thermtrip = true)) ∧
  (∀ c s t, c ≠ .vddKeepRemoved → s.kp.keeperTrip = true → exec c s = .next t → t.kp.keeperTrip = true) ∧
  (∀ s, s.kp.keeperTrip = true → s.kp.raising = true → s.kp.stage = 0 →
    Runs (.bringupKeeper ()) s (fun t => t.kp.raising = false ∧ t.kp.stage = 0 ∧ t.kp.hubHeld = s.kp.hubHeld)) ∧
  (∀ s, Runs .vddKeepRemoved s (fun t => t.kp.keeperTrip = false))

/-- Take two ways of forming one sum: the same contributions, in any order, divided in any way over groups that are merged in any
way, every group opened at the same datum. When DATUM_OVF is clear in both results, both results close to the same codes, and
their flags, discard counts and AMAX_EXP agree. REALIGN is clear in both. A result that no NaN and no poison has reached is the
same group, and each of its accumulators holds the exact sum of its individually rounded contributions. -/
def Obligations.SumsDoNotDependOnOrder : Prop :=
  (∀ datum (a b : SumTree), (∀ c, c ∈ a.contributions → c.1 < 16) → a.contributions.Perm b.contributions →
    (a.total datum).ovf = false → (b.total datum).ovf = false →
    (∀ f nc ord idx, ((a.total datum).closeScalar f nc ord idx).1 = ((b.total datum).closeScalar f nc ord idx).1) ∧
    (a.total datum).nan = (b.total datum).nan ∧ (a.total datum).poison = (b.total datum).poison ∧
    (a.total datum).discard = (b.total datum).discard ∧ (a.total datum).amax = (b.total datum).amax ∧
    ((a.total datum).flagged = false → a.total datum = b.total datum)) ∧
  (∀ datum (a : SumTree), (a.total datum).realign = false) ∧
  (∀ datum (a : SumTree) i, (∀ c, c ∈ a.contributions → c.1 < 16) → i < 16 → (a.total datum).ovf = false →
    (a.total datum).flagged = false →
    (a.total datum).acc.getD i 0 =
      ((a.contributions.filter (fun c => c.1 = i)).map (fun c => roundedUnits datum c.2.2)).foldl (· + ·) 0)

/-- A contribution to a group that no NaN or poison has reached is rounded on its own to the nearest multiple of the datum's unit,
ties to even, held within the accumulator's bounds and added with saturation to its accumulator; the other accumulators stay.
DATUM_OVF is set exactly where the contribution or the sum had to be held, and stays once it is set, until the group is opened.
A contribution that is not zero and rounds to zero adds one to the discard count, which saturates at 65,535; one that is exactly
zero changes nothing. -/
def Obligations.ContributionsRoundAndSaturate : Prop :=
  (∀ (g : Group) i d, g.acc.length = 16 → i < 16 → g.flagged = false → d.m ≠ 0 →
    ∃ n, Nearest d g.datum n ∧
      (g.contribute i false (.num d)).acc.getD i 0 = held (g.acc.getD i 0 + held n) ∧
      (∀ k, k ≠ i → (g.contribute i false (.num d)).acc.getD k 0 = g.acc.getD k 0) ∧
      ((g.contribute i false (.num d)).ovf = true ↔
        (g.ovf = true ∨ held n ≠ n ∨ held (g.acc.getD i 0 + held n) ≠ g.acc.getD i 0 + held n)) ∧
      (g.contribute i false (.num d)).discard = (if n = 0 then min 65535 (g.discard + 1) else g.discard) ∧
      (g.contribute i false (.num d)).acc.length = 16 ∧ (g.contribute i false (.num d)).datum = g.datum) ∧
  (∀ (g : Group) i d, d.m = 0 → g.contribute i false (.num d) = g) ∧
  (∀ (g : Group) i p v, g.ovf = true → (g.contribute i p v).ovf = true) ∧
  (∀ datum, (openGroup datum).ovf = false)

/-- Nearest-even gives the nearest multiple of the unit, on a tie the even one. Toward zero gives the nearest multiple whose
magnitude does not exceed the value's, with its sign. Stochastic gives the floor, or one more when the 32-bit fraction exceeds
the stochastic value. A value that is a multiple of the unit stays in every mode. -/
def Obligations.RoundingFollowsItsMode : Prop :=
  (∀ r d u, Nearest d u (roundTo .rne r d u)) ∧
  (∀ r (d : Dy) u q n, d.e < u → q = (2 : Int) ^ (u - d.e).toNat → n = roundTo .rtz r d u →
    (0 ≤ d.m → n * q ≤ d.m ∧ d.m < (n + 1) * q) ∧ (d.m < 0 → d.m ≤ n * q ∧ (n - 1) * q < d.m)) ∧
  (∀ r (d : Dy) u q, d.e < u → q = (2 : Int) ^ (u - d.e).toNat →
    roundTo .stoch r d u = (if (r : Int) < (d.m % q) * 2 ^ 32 / q then d.m / q + 1 else d.m / q)) ∧
  (∀ mode r (d : Dy) u, u ≤ d.e → roundTo mode r d u = d.m * 2 ^ (d.e - u).toNat)

/-- Reading what has been written gives the bytes written. Every byte outside them reads as before, in the same memory and in the
other. Units of eight bytes written whole with data that is not poisoned are clean afterwards, with poisoned data they are bad. -/
def Obligations.MemoryReadsBack : Prop :=
  (∀ inSlice j a data poison m, readMem (writeMem inSlice j a data poison m) inSlice j a data.length = data) ∧
  (∀ inSlice j a data poison m k, (k < memKey inSlice j a ∨ memKey inSlice j a + data.length ≤ k) →
    mget 0 ((writeMem inSlice j a data poison m).cells inSlice) k = mget 0 (m.cells inSlice) k) ∧
  (∀ inSlice j a data poison m, (writeMem inSlice j a data poison m).cells (!inSlice) = m.cells (!inSlice)) ∧
  (∀ inSlice j a data m, a % 8 = 0 → data.length % 8 = 0 →
    badMem (writeMem inSlice j a data false m) inSlice j a data.length = false) ∧
  (∀ inSlice j a data m, data ≠ [] → badMem (writeMem inSlice j a data true m) inSlice j a data.length = true)

/-- For every command of the catalogue: where the device listens and the gate finds a fault, the command is taken and completes with
that status, and nothing else happens; where the device does not listen, it is discarded; one of a session that does not exist
is ignored. The gate answers E_AUTH to a caller of another mailbox; the pre-session slot passes every operator command in open
mode and only HELLO, ATTEST and SESSION_OPEN outside it. In FAILED and in a topology mismatch only reading, HELLO, ATTEST and
RESET_DEVICE of the operator pass. Corners that the rules leave open follow the model's choice (log entries 17 and 19). -/
def Obligations.CommandsAreGated : Prop :=
  (∀ i cx op st s, commandOf i = some cx → i.opcode = some op → listening s = true → callerOf s cx.session ≠ none →
    gate s cx op = some st → exec i s = .next (finish cx op { status := st } (noteTaken cx op s))) ∧
  (∀ i cx s, commandOf i = some cx → listening s = false → exec i s = .next (discard cx.port s)) ∧
  (∀ i cx s, commandOf i = some cx → listening s = true → callerOf s cx.session = none → exec i s = .next s) ∧
  (∀ s cx op c, callerOf s cx.session = some c → permitted s c op = false → gate s cx op = some .auth) ∧
  (∀ s op, openMode s = false → (permitted s .pre op = true ↔ (op = 0x0001 ∨ op = 0x0002 ∨ op = 0x0003))) ∧
  (∀ s op, openMode s = true → permitted s .operator op = true → permitted s .pre op = true) ∧
  (∀ s cx op, (s.kp.stage = 0xB ∨ s.kp.stage = 0xC) → s.kp.coolantLoss = false → callerOf s cx.session = some .operator →
    (gate s cx op = none ↔ (op = 0x0001 ∨ op = 0x0002 ∨ op = 0x00B0 ∨ op = 0x00B1 ∨ op = 0x0082)))

/-- While the framer is not hung, completing a command of a session with a ring and a usable queue pair writes a record with its
SEQ, opcode, status, tag, result and TAKEN to the ring's next entry, under the ring's phase, which alternates at the wrap; DONE
reaches its SEQ and the command is no longer in progress. Without a ring or a usable queue pair nothing is sent and LOST rises.
A hung framer keeps the record waiting. Only the command interface, the queue pairs and the outputs change, but for a session's
last command, which ends the session. Corners that the rules leave open follow the model's choice (log entry 18). -/
def Obligations.CompletionsAreRecorded : Prop :=
  (∀ cx op v s x p, framerHung s = false → (cx.seq ≠ 0xFFFFFFFF ∨ cx.session = preSession) → sessionRec s cx.session = some x →
    recordPort s cx.session x cx.port = some p → 0 < x.ring.entries →
    (∃ c, Out.completion c ∈ (finish cx op v s).out ∧ c.session = cx.session ∧ c.seq = cx.seq ∧ c.opcode = op ∧
      c.status = v.status ∧ c.tag = cx.tag ∧ c.result = v.result ∧ c.taken = max x.taken cx.seq ∧
      c.phase = x.ring.phase ∧ c.entry = x.ring.next) ∧
    (∃ y, (finish cx op v s).session cx.session = some y ∧ y.done = max x.done cx.seq ∧
      y.ring = { x.ring with next := (x.ring.next + 1) % x.ring.entries,
                             phase := (if x.ring.next + 1 = x.ring.entries then !x.ring.phase else x.ring.phase) }) ∧
    (∀ k, k ∈ (finish cx op v s).qci.taken → ¬(k.session = cx.session ∧ k.seq = cx.seq)) ∧
    OnlyChanges [.qci, .net, .out] s (finish cx op v s)) ∧
  (∀ cx op v s x, framerHung s = false → (cx.seq ≠ 0xFFFFFFFF ∨ cx.session = preSession) → sessionRec s cx.session = some x →
    (recordPort s cx.session x cx.port = none ∨ x.ring.entries = 0) →
    (∃ y, (finish cx op v s).session cx.session = some y ∧ y.lost = sat 0xFFFF (x.lost + 1) ∧ y.ring = x.ring) ∧
    OnlyChanges [.qci] s (finish cx op v s)) ∧
  (∀ cx op v s, framerHung s = true → (cx.seq ≠ 0xFFFFFFFF ∨ cx.session = preSession) →
    (finish cx op v s).qci.waiting = s.qci.waiting ++ [(cx, op, v)] ∧ OnlyChanges [.qci] s (finish cx op v s)) ∧
  (∀ cx op v s, cx.seq = 0xFFFFFFFF → cx.session ≠ preSession → (finish cx op v s).session cx.session = none ∧
    OnlyChanges sessionParts s (finish cx op v s))

/-- In a variant that lacks a port, every event of that port stops with the fault absentPart, and so does every event of an engine
it lacks, and every event of a bent beyond the four: such an event cannot come about. It is the only fault, no command of the
catalogue raises it, and nothing is refused. Corners that the rules leave open follow the model's choice (log entry 15). -/
def Obligations.AbsentPartsStop : Prop :=
  (∀ i p a b c f g l ch dg sg body s, portPresent s p = false →
    i ∈ [Instr.arpRequestRx p a b c, .arpReplyRx p a b, .icmpEchoRx p a b c, .lldpRx p f, .portLinkUp p, .portLinkDown p l,
      .portTrainRetry p l, .fecRateCheck p a b, .reflectionOpen p, .reflectionProbe p g, .pfcXoffRx p a b, .pfcPauseExpiry p a,
      .frameDiscard p a body g, .statusWindowRead p a b c 4, .recoveryDatagramRefused p a, .rHello p a, .rBegin p a ch b c dg sg,
      .rData p a b [], .rEnd p a (), .portLightLoss p, .lightWake p, .frameWake p] →
    exec i s = .fault .absentPart) ∧
  (∀ pk s, portPresent s pk.port = false → exec (.rocePacketRx pk) s = .fault .absentPart) ∧
  (∀ f s, portPresent s f.port = false → exec (.mgmtFrameRx f) s = .fault .absentPart) ∧
  (∀ f s, portPresent s f.port = false → exec (.wakeFrameRx f) s = .fault .absentPart) ∧
  (∀ i e n g s, enginePresent s e = false →
    i ∈ [Instr.laserModuleFault e n, .laserRetry e g, .enginePllLoss e, .enginePllRelock e g, .engineTripClear e g] →
    exec i s = .fault .absentPart) ∧
  (∀ i b n l s, 4 ≤ b →
    i ∈ [Instr.ce2CandidateExpiry b, .bentTripClear b, .capSample b l, .sillPllLoss b, .sillPllRelock b n, .marginRunDone b ⟨n, []⟩,
      .retainExitBent b] →
    exec i s = .fault .absentPart) ∧
  (∀ i cx s, commandOf i = some cx → ∃ t, exec i s = .next t) ∧
  (∀ i s, (∃ t, exec i s = .next t) ∨ exec i s = .fault .absentPart)
end

