-- ==== Sys2Proof/Laws/Maps.lean ====
section
/-! SUPPORT. Sparse maps: reading after writing, and that every writing keeps the canonical form. -/

namespace Sys2Proof.Machine

variable {α : Type}

theorem mget_mdel (d : α) (m : List (Nat × α)) (k i : Nat) : mget d (mdel k m) i = if i = k then d else mget d m i := by
  induction m with
  | nil => simp [mdel, mget]
  | cons e m ih =>
    obtain ⟨k', v⟩ := e
    by_cases h : k = k'
    · subst h
      simp only [mdel, if_true, ih, mget]
      by_cases hi : i = k <;> simp [hi]
    · simp only [mdel, h, if_false, mget, ih]
      by_cases hi : i = k'
      · subst hi
        simp [Ne.symm h]
      · simp [hi]

theorem mget_mins (d : α) (m : List (Nat × α)) (k : Nat) (v : α) (i : Nat)
    (hk : ∀ e ∈ m, e.1 ≠ k) : mget d (mins k v m) i = if i = k then v else mget d m i := by
  induction m with
  | nil => simp [mins, mget]
  | cons e m ih =>
    obtain ⟨k', v'⟩ := e
    have hne : k' ≠ k := hk (k', v') (List.mem_cons_self ..)
    simp only [mins]
    split
    · simp [mget]
    · simp only [mget, ih (fun e he => hk e (List.mem_cons_of_mem _ he))]
      by_cases hi : i = k'
      · subst hi
        simp [hne]
      · simp [hi]

theorem not_mem_mdel (m : List (Nat × α)) (k : Nat) : ∀ e ∈ mdel k m, e.1 ≠ k := by
  induction m with
  | nil => simp [mdel]
  | cons e m ih =>
    obtain ⟨k', v⟩ := e
    simp only [mdel]
    split
    · exact ih
    · intro x hx
      rcases List.mem_cons.1 hx with rfl | hx
      · exact fun hh => by simp_all
      · exact ih x hx

/-- Reading after a write: the written key reads as the value written, every other key as before. -/
theorem mget_mset [DecidableEq α] (d : α) (m : List (Nat × α)) (k : Nat) (v : α) (i : Nat) :
    mget d (mset d m k v) i = if i = k then v else mget d m i := by
  unfold mset
  split
  · next h => subst h; exact mget_mdel _ m k i
  · rw [mget_mins d _ k v i (not_mem_mdel m k), mget_mdel]
    by_cases hi : i = k <;> simp [hi]

@[simp] theorem mget_mset_same [DecidableEq α] (d : α) (m : List (Nat × α)) (k : Nat) (v : α) : mget d (mset d m k v) k = v := by
  simp [mget_mset]

theorem mget_mset_ne [DecidableEq α] (d : α) (m : List (Nat × α)) {k i : Nat} (v : α) (h : i ≠ k) :
    mget d (mset d m k v) i = mget d m i := by
  simp [mget_mset, h]

theorem mget_mmod [DecidableEq α] (d : α) (m : List (Nat × α)) (k : Nat) (f : α → α) (i : Nat) :
    mget d (mmod d m k f) i = if i = k then f (mget d m k) else mget d m i := by
  unfold mmod
  exact mget_mset d m k _ i

end Sys2Proof.Machine
end

