-- ==== Sys2Proof/Laws/State.lean ====
section
/-! SUPPORT. What each update of one part of the state leaves: one lemma per field per update. -/

namespace Sys2Proof.Machine

variable (s : State)

@[simp] theorem State.onClk_clk (f : Clk → Clk) : (s.onClk f).clk = f s.clk := rfl
@[simp] theorem State.onClk_kp (f : Clk → Clk) : (s.onClk f).kp = s.kp := rfl
@[simp] theorem State.onClk_cfg (f : Clk → Clk) : (s.onClk f).cfg = s.cfg := rfl
@[simp] theorem State.onClk_qci (f : Clk → Clk) : (s.onClk f).qci = s.qci := rfl
@[simp] theorem State.onClk_ten (f : Clk → Clk) : (s.onClk f).ten = s.ten := rfl
@[simp] theorem State.onClk_bay (f : Clk → Clk) : (s.onClk f).bay = s.bay := rfl
@[simp] theorem State.onClk_rack (f : Clk → Clk) : (s.onClk f).rack = s.rack := rfl
@[simp] theorem State.onClk_jig (f : Clk → Clk) : (s.onClk f).jig = s.jig := rfl
@[simp] theorem State.onClk_joi (f : Clk → Clk) : (s.onClk f).joi = s.joi := rfl
@[simp] theorem State.onClk_mem (f : Clk → Clk) : (s.onClk f).mem = s.mem := rfl
@[simp] theorem State.onClk_rfr (f : Clk → Clk) : (s.onClk f).rfr = s.rfr := rfl
@[simp] theorem State.onClk_ecc (f : Clk → Clk) : (s.onClk f).ecc = s.ecc := rfl
@[simp] theorem State.onClk_bnt (f : Clk → Clk) : (s.onClk f).bnt = s.bnt := rfl
@[simp] theorem State.onClk_lnk (f : Clk → Clk) : (s.onClk f).lnk = s.lnk := rfl
@[simp] theorem State.onClk_net (f : Clk → Clk) : (s.onClk f).net = s.net := rfl
@[simp] theorem State.onClk_thm (f : Clk → Clk) : (s.onClk f).thm = s.thm := rfl
@[simp] theorem State.onClk_pwr (f : Clk → Clk) : (s.onClk f).pwr = s.pwr := rfl
@[simp] theorem State.onClk_out (f : Clk → Clk) : (s.onClk f).out = s.out := rfl
@[simp] theorem State.onClk_pending (f : Clk → Clk) : (s.onClk f).pending = s.pending := rfl
@[simp] theorem State.onKp_clk (f : Keeper → Keeper) : (s.onKp f).clk = s.clk := rfl
@[simp] theorem State.onKp_kp (f : Keeper → Keeper) : (s.onKp f).kp = f s.kp := rfl
@[simp] theorem State.onKp_cfg (f : Keeper → Keeper) : (s.onKp f).cfg = s.cfg := rfl
@[simp] theorem State.onKp_qci (f : Keeper → Keeper) : (s.onKp f).qci = s.qci := rfl
@[simp] theorem State.onKp_ten (f : Keeper → Keeper) : (s.onKp f).ten = s.ten := rfl
@[simp] theorem State.onKp_bay (f : Keeper → Keeper) : (s.onKp f).bay = s.bay := rfl
@[simp] theorem State.onKp_rack (f : Keeper → Keeper) : (s.onKp f).rack = s.rack := rfl
@[simp] theorem State.onKp_jig (f : Keeper → Keeper) : (s.onKp f).jig = s.jig := rfl
@[simp] theorem State.onKp_joi (f : Keeper → Keeper) : (s.onKp f).joi = s.joi := rfl
@[simp] theorem State.onKp_mem (f : Keeper → Keeper) : (s.onKp f).mem = s.mem := rfl
@[simp] theorem State.onKp_rfr (f : Keeper → Keeper) : (s.onKp f).rfr = s.rfr := rfl
@[simp] theorem State.onKp_ecc (f : Keeper → Keeper) : (s.onKp f).ecc = s.ecc := rfl
@[simp] theorem State.onKp_bnt (f : Keeper → Keeper) : (s.onKp f).bnt = s.bnt := rfl
@[simp] theorem State.onKp_lnk (f : Keeper → Keeper) : (s.onKp f).lnk = s.lnk := rfl
@[simp] theorem State.onKp_net (f : Keeper → Keeper) : (s.onKp f).net = s.net := rfl
@[simp] theorem State.onKp_thm (f : Keeper → Keeper) : (s.onKp f).thm = s.thm := rfl
@[simp] theorem State.onKp_pwr (f : Keeper → Keeper) : (s.onKp f).pwr = s.pwr := rfl
@[simp] theorem State.onKp_out (f : Keeper → Keeper) : (s.onKp f).out = s.out := rfl
@[simp] theorem State.onKp_pending (f : Keeper → Keeper) : (s.onKp f).pending = s.pending := rfl
@[simp] theorem State.onCfg_clk (f : Cfg → Cfg) : (s.onCfg f).clk = s.clk := rfl
@[simp] theorem State.onCfg_kp (f : Cfg → Cfg) : (s.onCfg f).kp = s.kp := rfl
@[simp] theorem State.onCfg_cfg (f : Cfg → Cfg) : (s.onCfg f).cfg = f s.cfg := rfl
@[simp] theorem State.onCfg_qci (f : Cfg → Cfg) : (s.onCfg f).qci = s.qci := rfl
@[simp] theorem State.onCfg_ten (f : Cfg → Cfg) : (s.onCfg f).ten = s.ten := rfl
@[simp] theorem State.onCfg_bay (f : Cfg → Cfg) : (s.onCfg f).bay = s.bay := rfl
@[simp] theorem State.onCfg_rack (f : Cfg → Cfg) : (s.onCfg f).rack = s.rack := rfl
@[simp] theorem State.onCfg_jig (f : Cfg → Cfg) : (s.onCfg f).jig = s.jig := rfl
@[simp] theorem State.onCfg_joi (f : Cfg → Cfg) : (s.onCfg f).joi = s.joi := rfl
@[simp] theorem State.onCfg_mem (f : Cfg → Cfg) : (s.onCfg f).mem = s.mem := rfl
@[simp] theorem State.onCfg_rfr (f : Cfg → Cfg) : (s.onCfg f).rfr = s.rfr := rfl
@[simp] theorem State.onCfg_ecc (f : Cfg → Cfg) : (s.onCfg f).ecc = s.ecc := rfl
@[simp] theorem State.onCfg_bnt (f : Cfg → Cfg) : (s.onCfg f).bnt = s.bnt := rfl
@[simp] theorem State.onCfg_lnk (f : Cfg → Cfg) : (s.onCfg f).lnk = s.lnk := rfl
@[simp] theorem State.onCfg_net (f : Cfg → Cfg) : (s.onCfg f).net = s.net := rfl
@[simp] theorem State.onCfg_thm (f : Cfg → Cfg) : (s.onCfg f).thm = s.thm := rfl
@[simp] theorem State.onCfg_pwr (f : Cfg → Cfg) : (s.onCfg f).pwr = s.pwr := rfl
@[simp] theorem State.onCfg_out (f : Cfg → Cfg) : (s.onCfg f).out = s.out := rfl
@[simp] theorem State.onCfg_pending (f : Cfg → Cfg) : (s.onCfg f).pending = s.pending := rfl
@[simp] theorem State.onQci_clk (f : Qci → Qci) : (s.onQci f).clk = s.clk := rfl
@[simp] theorem State.onQci_kp (f : Qci → Qci) : (s.onQci f).kp = s.kp := rfl
@[simp] theorem State.onQci_cfg (f : Qci → Qci) : (s.onQci f).cfg = s.cfg := rfl
@[simp] theorem State.onQci_qci (f : Qci → Qci) : (s.onQci f).qci = f s.qci := rfl
@[simp] theorem State.onQci_ten (f : Qci → Qci) : (s.onQci f).ten = s.ten := rfl
@[simp] theorem State.onQci_bay (f : Qci → Qci) : (s.onQci f).bay = s.bay := rfl
@[simp] theorem State.onQci_rack (f : Qci → Qci) : (s.onQci f).rack = s.rack := rfl
@[simp] theorem State.onQci_jig (f : Qci → Qci) : (s.onQci f).jig = s.jig := rfl
@[simp] theorem State.onQci_joi (f : Qci → Qci) : (s.onQci f).joi = s.joi := rfl
@[simp] theorem State.onQci_mem (f : Qci → Qci) : (s.onQci f).mem = s.mem := rfl
@[simp] theorem State.onQci_rfr (f : Qci → Qci) : (s.onQci f).rfr = s.rfr := rfl
@[simp] theorem State.onQci_ecc (f : Qci → Qci) : (s.onQci f).ecc = s.ecc := rfl
@[simp] theorem State.onQci_bnt (f : Qci → Qci) : (s.onQci f).bnt = s.bnt := rfl
@[simp] theorem State.onQci_lnk (f : Qci → Qci) : (s.onQci f).lnk = s.lnk := rfl
@[simp] theorem State.onQci_net (f : Qci → Qci) : (s.onQci f).net = s.net := rfl
@[simp] theorem State.onQci_thm (f : Qci → Qci) : (s.onQci f).thm = s.thm := rfl
@[simp] theorem State.onQci_pwr (f : Qci → Qci) : (s.onQci f).pwr = s.pwr := rfl
@[simp] theorem State.onQci_out (f : Qci → Qci) : (s.onQci f).out = s.out := rfl
@[simp] theorem State.onQci_pending (f : Qci → Qci) : (s.onQci f).pending = s.pending := rfl
@[simp] theorem State.onTen_clk (f : NMap (Option Tenancy) → NMap (Option Tenancy)) : (s.onTen f).clk = s.clk := rfl
@[simp] theorem State.onTen_kp (f : NMap (Option Tenancy) → NMap (Option Tenancy)) : (s.onTen f).kp = s.kp := rfl
@[simp] theorem State.onTen_cfg (f : NMap (Option Tenancy) → NMap (Option Tenancy)) : (s.onTen f).cfg = s.cfg := rfl
@[simp] theorem State.onTen_qci (f : NMap (Option Tenancy) → NMap (Option Tenancy)) : (s.onTen f).qci = s.qci := rfl
@[simp] theorem State.onTen_ten (f : NMap (Option Tenancy) → NMap (Option Tenancy)) : (s.onTen f).ten = f s.ten := rfl
@[simp] theorem State.onTen_bay (f : NMap (Option Tenancy) → NMap (Option Tenancy)) : (s.onTen f).bay = s.bay := rfl
@[simp] theorem State.onTen_rack (f : NMap (Option Tenancy) → NMap (Option Tenancy)) : (s.onTen f).rack = s.rack := rfl
@[simp] theorem State.onTen_jig (f : NMap (Option Tenancy) → NMap (Option Tenancy)) : (s.onTen f).jig = s.jig := rfl
@[simp] theorem State.onTen_joi (f : NMap (Option Tenancy) → NMap (Option Tenancy)) : (s.onTen f).joi = s.joi := rfl
@[simp] theorem State.onTen_mem (f : NMap (Option Tenancy) → NMap (Option Tenancy)) : (s.onTen f).mem = s.mem := rfl
@[simp] theorem State.onTen_rfr (f : NMap (Option Tenancy) → NMap (Option Tenancy)) : (s.onTen f).rfr = s.rfr := rfl
@[simp] theorem State.onTen_ecc (f : NMap (Option Tenancy) → NMap (Option Tenancy)) : (s.onTen f).ecc = s.ecc := rfl
@[simp] theorem State.onTen_bnt (f : NMap (Option Tenancy) → NMap (Option Tenancy)) : (s.onTen f).bnt = s.bnt := rfl
@[simp] theorem State.onTen_lnk (f : NMap (Option Tenancy) → NMap (Option Tenancy)) : (s.onTen f).lnk = s.lnk := rfl
@[simp] theorem State.onTen_net (f : NMap (Option Tenancy) → NMap (Option Tenancy)) : (s.onTen f).net = s.net := rfl
@[simp] theorem State.onTen_thm (f : NMap (Option Tenancy) → NMap (Option Tenancy)) : (s.onTen f).thm = s.thm := rfl
@[simp] theorem State.onTen_pwr (f : NMap (Option Tenancy) → NMap (Option Tenancy)) : (s.onTen f).pwr = s.pwr := rfl
@[simp] theorem State.onTen_out (f : NMap (Option Tenancy) → NMap (Option Tenancy)) : (s.onTen f).out = s.out := rfl
@[simp] theorem State.onTen_pending (f : NMap (Option Tenancy) → NMap (Option Tenancy)) : (s.onTen f).pending = s.pending := rfl
@[simp] theorem State.onBay_clk (f : Bays → Bays) : (s.onBay f).clk = s.clk := rfl
@[simp] theorem State.onBay_kp (f : Bays → Bays) : (s.onBay f).kp = s.kp := rfl
@[simp] theorem State.onBay_cfg (f : Bays → Bays) : (s.onBay f).cfg = s.cfg := rfl
@[simp] theorem State.onBay_qci (f : Bays → Bays) : (s.onBay f).qci = s.qci := rfl
@[simp] theorem State.onBay_ten (f : Bays → Bays) : (s.onBay f).ten = s.ten := rfl
@[simp] theorem State.onBay_bay (f : Bays → Bays) : (s.onBay f).bay = f s.bay := rfl
@[simp] theorem State.onBay_rack (f : Bays → Bays) : (s.onBay f).rack = s.rack := rfl
@[simp] theorem State.onBay_jig (f : Bays → Bays) : (s.onBay f).jig = s.jig := rfl
@[simp] theorem State.onBay_joi (f : Bays → Bays) : (s.onBay f).joi = s.joi := rfl
@[simp] theorem State.onBay_mem (f : Bays → Bays) : (s.onBay f).mem = s.mem := rfl
@[simp] theorem State.onBay_rfr (f : Bays → Bays) : (s.onBay f).rfr = s.rfr := rfl
@[simp] theorem State.onBay_ecc (f : Bays → Bays) : (s.onBay f).ecc = s.ecc := rfl
@[simp] theorem State.onBay_bnt (f : Bays → Bays) : (s.onBay f).bnt = s.bnt := rfl
@[simp] theorem State.onBay_lnk (f : Bays → Bays) : (s.onBay f).lnk = s.lnk := rfl
@[simp] theorem State.onBay_net (f : Bays → Bays) : (s.onBay f).net = s.net := rfl
@[simp] theorem State.onBay_thm (f : Bays → Bays) : (s.onBay f).thm = s.thm := rfl
@[simp] theorem State.onBay_pwr (f : Bays → Bays) : (s.onBay f).pwr = s.pwr := rfl
@[simp] theorem State.onBay_out (f : Bays → Bays) : (s.onBay f).out = s.out := rfl
@[simp] theorem State.onBay_pending (f : Bays → Bays) : (s.onBay f).pending = s.pending := rfl
@[simp] theorem State.onRack_clk (f : Rack → Rack) : (s.onRack f).clk = s.clk := rfl
@[simp] theorem State.onRack_kp (f : Rack → Rack) : (s.onRack f).kp = s.kp := rfl
@[simp] theorem State.onRack_cfg (f : Rack → Rack) : (s.onRack f).cfg = s.cfg := rfl
@[simp] theorem State.onRack_qci (f : Rack → Rack) : (s.onRack f).qci = s.qci := rfl
@[simp] theorem State.onRack_ten (f : Rack → Rack) : (s.onRack f).ten = s.ten := rfl
@[simp] theorem State.onRack_bay (f : Rack → Rack) : (s.onRack f).bay = s.bay := rfl
@[simp] theorem State.onRack_rack (f : Rack → Rack) : (s.onRack f).rack = f s.rack := rfl
@[simp] theorem State.onRack_jig (f : Rack → Rack) : (s.onRack f).jig = s.jig := rfl
@[simp] theorem State.onRack_joi (f : Rack → Rack) : (s.onRack f).joi = s.joi := rfl
@[simp] theorem State.onRack_mem (f : Rack → Rack) : (s.onRack f).mem = s.mem := rfl
@[simp] theorem State.onRack_rfr (f : Rack → Rack) : (s.onRack f).rfr = s.rfr := rfl
@[simp] theorem State.onRack_ecc (f : Rack → Rack) : (s.onRack f).ecc = s.ecc := rfl
@[simp] theorem State.onRack_bnt (f : Rack → Rack) : (s.onRack f).bnt = s.bnt := rfl
@[simp] theorem State.onRack_lnk (f : Rack → Rack) : (s.onRack f).lnk = s.lnk := rfl
@[simp] theorem State.onRack_net (f : Rack → Rack) : (s.onRack f).net = s.net := rfl
@[simp] theorem State.onRack_thm (f : Rack → Rack) : (s.onRack f).thm = s.thm := rfl
@[simp] theorem State.onRack_pwr (f : Rack → Rack) : (s.onRack f).pwr = s.pwr := rfl
@[simp] theorem State.onRack_out (f : Rack → Rack) : (s.onRack f).out = s.out := rfl
@[simp] theorem State.onRack_pending (f : Rack → Rack) : (s.onRack f).pending = s.pending := rfl
@[simp] theorem State.onJig_clk (f : Jig → Jig) : (s.onJig f).clk = s.clk := rfl
@[simp] theorem State.onJig_kp (f : Jig → Jig) : (s.onJig f).kp = s.kp := rfl
@[simp] theorem State.onJig_cfg (f : Jig → Jig) : (s.onJig f).cfg = s.cfg := rfl
@[simp] theorem State.onJig_qci (f : Jig → Jig) : (s.onJig f).qci = s.qci := rfl
@[simp] theorem State.onJig_ten (f : Jig → Jig) : (s.onJig f).ten = s.ten := rfl
@[simp] theorem State.onJig_bay (f : Jig → Jig) : (s.onJig f).bay = s.bay := rfl
@[simp] theorem State.onJig_rack (f : Jig → Jig) : (s.onJig f).rack = s.rack := rfl
@[simp] theorem State.onJig_jig (f : Jig → Jig) : (s.onJig f).jig = f s.jig := rfl
@[simp] theorem State.onJig_joi (f : Jig → Jig) : (s.onJig f).joi = s.joi := rfl
@[simp] theorem State.onJig_mem (f : Jig → Jig) : (s.onJig f).mem = s.mem := rfl
@[simp] theorem State.onJig_rfr (f : Jig → Jig) : (s.onJig f).rfr = s.rfr := rfl
@[simp] theorem State.onJig_ecc (f : Jig → Jig) : (s.onJig f).ecc = s.ecc := rfl
@[simp] theorem State.onJig_bnt (f : Jig → Jig) : (s.onJig f).bnt = s.bnt := rfl
@[simp] theorem State.onJig_lnk (f : Jig → Jig) : (s.onJig f).lnk = s.lnk := rfl
@[simp] theorem State.onJig_net (f : Jig → Jig) : (s.onJig f).net = s.net := rfl
@[simp] theorem State.onJig_thm (f : Jig → Jig) : (s.onJig f).thm = s.thm := rfl
@[simp] theorem State.onJig_pwr (f : Jig → Jig) : (s.onJig f).pwr = s.pwr := rfl
@[simp] theorem State.onJig_out (f : Jig → Jig) : (s.onJig f).out = s.out := rfl
@[simp] theorem State.onJig_pending (f : Jig → Jig) : (s.onJig f).pending = s.pending := rfl
@[simp] theorem State.onJoi_clk (f : Joists → Joists) : (s.onJoi f).clk = s.clk := rfl
@[simp] theorem State.onJoi_kp (f : Joists → Joists) : (s.onJoi f).kp = s.kp := rfl
@[simp] theorem State.onJoi_cfg (f : Joists → Joists) : (s.onJoi f).cfg = s.cfg := rfl
@[simp] theorem State.onJoi_qci (f : Joists → Joists) : (s.onJoi f).qci = s.qci := rfl
@[simp] theorem State.onJoi_ten (f : Joists → Joists) : (s.onJoi f).ten = s.ten := rfl
@[simp] theorem State.onJoi_bay (f : Joists → Joists) : (s.onJoi f).bay = s.bay := rfl
@[simp] theorem State.onJoi_rack (f : Joists → Joists) : (s.onJoi f).rack = s.rack := rfl
@[simp] theorem State.onJoi_jig (f : Joists → Joists) : (s.onJoi f).jig = s.jig := rfl
@[simp] theorem State.onJoi_joi (f : Joists → Joists) : (s.onJoi f).joi = f s.joi := rfl
@[simp] theorem State.onJoi_mem (f : Joists → Joists) : (s.onJoi f).mem = s.mem := rfl
@[simp] theorem State.onJoi_rfr (f : Joists → Joists) : (s.onJoi f).rfr = s.rfr := rfl
@[simp] theorem State.onJoi_ecc (f : Joists → Joists) : (s.onJoi f).ecc = s.ecc := rfl
@[simp] theorem State.onJoi_bnt (f : Joists → Joists) : (s.onJoi f).bnt = s.bnt := rfl
@[simp] theorem State.onJoi_lnk (f : Joists → Joists) : (s.onJoi f).lnk = s.lnk := rfl
@[simp] theorem State.onJoi_net (f : Joists → Joists) : (s.onJoi f).net = s.net := rfl
@[simp] theorem State.onJoi_thm (f : Joists → Joists) : (s.onJoi f).thm = s.thm := rfl
@[simp] theorem State.onJoi_pwr (f : Joists → Joists) : (s.onJoi f).pwr = s.pwr := rfl
@[simp] theorem State.onJoi_out (f : Joists → Joists) : (s.onJoi f).out = s.out := rfl
@[simp] theorem State.onJoi_pending (f : Joists → Joists) : (s.onJoi f).pending = s.pending := rfl
@[simp] theorem State.onMem_clk (f : Mem → Mem) : (s.onMem f).clk = s.clk := rfl
@[simp] theorem State.onMem_kp (f : Mem → Mem) : (s.onMem f).kp = s.kp := rfl
@[simp] theorem State.onMem_cfg (f : Mem → Mem) : (s.onMem f).cfg = s.cfg := rfl
@[simp] theorem State.onMem_qci (f : Mem → Mem) : (s.onMem f).qci = s.qci := rfl
@[simp] theorem State.onMem_ten (f : Mem → Mem) : (s.onMem f).ten = s.ten := rfl
@[simp] theorem State.onMem_bay (f : Mem → Mem) : (s.onMem f).bay = s.bay := rfl
@[simp] theorem State.onMem_rack (f : Mem → Mem) : (s.onMem f).rack = s.rack := rfl
@[simp] theorem State.onMem_jig (f : Mem → Mem) : (s.onMem f).jig = s.jig := rfl
@[simp] theorem State.onMem_joi (f : Mem → Mem) : (s.onMem f).joi = s.joi := rfl
@[simp] theorem State.onMem_mem (f : Mem → Mem) : (s.onMem f).mem = f s.mem := rfl
@[simp] theorem State.onMem_rfr (f : Mem → Mem) : (s.onMem f).rfr = s.rfr := rfl
@[simp] theorem State.onMem_ecc (f : Mem → Mem) : (s.onMem f).ecc = s.ecc := rfl
@[simp] theorem State.onMem_bnt (f : Mem → Mem) : (s.onMem f).bnt = s.bnt := rfl
@[simp] theorem State.onMem_lnk (f : Mem → Mem) : (s.onMem f).lnk = s.lnk := rfl
@[simp] theorem State.onMem_net (f : Mem → Mem) : (s.onMem f).net = s.net := rfl
@[simp] theorem State.onMem_thm (f : Mem → Mem) : (s.onMem f).thm = s.thm := rfl
@[simp] theorem State.onMem_pwr (f : Mem → Mem) : (s.onMem f).pwr = s.pwr := rfl
@[simp] theorem State.onMem_out (f : Mem → Mem) : (s.onMem f).out = s.out := rfl
@[simp] theorem State.onMem_pending (f : Mem → Mem) : (s.onMem f).pending = s.pending := rfl
@[simp] theorem State.onRfr_clk (f : NMap BankRefresh → NMap BankRefresh) : (s.onRfr f).clk = s.clk := rfl
@[simp] theorem State.onRfr_kp (f : NMap BankRefresh → NMap BankRefresh) : (s.onRfr f).kp = s.kp := rfl
@[simp] theorem State.onRfr_cfg (f : NMap BankRefresh → NMap BankRefresh) : (s.onRfr f).cfg = s.cfg := rfl
@[simp] theorem State.onRfr_qci (f : NMap BankRefresh → NMap BankRefresh) : (s.onRfr f).qci = s.qci := rfl
@[simp] theorem State.onRfr_ten (f : NMap BankRefresh → NMap BankRefresh) : (s.onRfr f).ten = s.ten := rfl
@[simp] theorem State.onRfr_bay (f : NMap BankRefresh → NMap BankRefresh) : (s.onRfr f).bay = s.bay := rfl
@[simp] theorem State.onRfr_rack (f : NMap BankRefresh → NMap BankRefresh) : (s.onRfr f).rack = s.rack := rfl
@[simp] theorem State.onRfr_jig (f : NMap BankRefresh → NMap BankRefresh) : (s.onRfr f).jig = s.jig := rfl
@[simp] theorem State.onRfr_joi (f : NMap BankRefresh → NMap BankRefresh) : (s.onRfr f).joi = s.joi := rfl
@[simp] theorem State.onRfr_mem (f : NMap BankRefresh → NMap BankRefresh) : (s.onRfr f).mem = s.mem := rfl
@[simp] theorem State.onRfr_rfr (f : NMap BankRefresh → NMap BankRefresh) : (s.onRfr f).rfr = f s.rfr := rfl
@[simp] theorem State.onRfr_ecc (f : NMap BankRefresh → NMap BankRefresh) : (s.onRfr f).ecc = s.ecc := rfl
@[simp] theorem State.onRfr_bnt (f : NMap BankRefresh → NMap BankRefresh) : (s.onRfr f).bnt = s.bnt := rfl
@[simp] theorem State.onRfr_lnk (f : NMap BankRefresh → NMap BankRefresh) : (s.onRfr f).lnk = s.lnk := rfl
@[simp] theorem State.onRfr_net (f : NMap BankRefresh → NMap BankRefresh) : (s.onRfr f).net = s.net := rfl
@[simp] theorem State.onRfr_thm (f : NMap BankRefresh → NMap BankRefresh) : (s.onRfr f).thm = s.thm := rfl
@[simp] theorem State.onRfr_pwr (f : NMap BankRefresh → NMap BankRefresh) : (s.onRfr f).pwr = s.pwr := rfl
@[simp] theorem State.onRfr_out (f : NMap BankRefresh → NMap BankRefresh) : (s.onRfr f).out = s.out := rfl
@[simp] theorem State.onRfr_pending (f : NMap BankRefresh → NMap BankRefresh) : (s.onRfr f).pending = s.pending := rfl
@[simp] theorem State.onEcc_clk (f : Ecc → Ecc) : (s.onEcc f).clk = s.clk := rfl
@[simp] theorem State.onEcc_kp (f : Ecc → Ecc) : (s.onEcc f).kp = s.kp := rfl
@[simp] theorem State.onEcc_cfg (f : Ecc → Ecc) : (s.onEcc f).cfg = s.cfg := rfl
@[simp] theorem State.onEcc_qci (f : Ecc → Ecc) : (s.onEcc f).qci = s.qci := rfl
@[simp] theorem State.onEcc_ten (f : Ecc → Ecc) : (s.onEcc f).ten = s.ten := rfl
@[simp] theorem State.onEcc_bay (f : Ecc → Ecc) : (s.onEcc f).bay = s.bay := rfl
@[simp] theorem State.onEcc_rack (f : Ecc → Ecc) : (s.onEcc f).rack = s.rack := rfl
@[simp] theorem State.onEcc_jig (f : Ecc → Ecc) : (s.onEcc f).jig = s.jig := rfl
@[simp] theorem State.onEcc_joi (f : Ecc → Ecc) : (s.onEcc f).joi = s.joi := rfl
@[simp] theorem State.onEcc_mem (f : Ecc → Ecc) : (s.onEcc f).mem = s.mem := rfl
@[simp] theorem State.onEcc_rfr (f : Ecc → Ecc) : (s.onEcc f).rfr = s.rfr := rfl
@[simp] theorem State.onEcc_ecc (f : Ecc → Ecc) : (s.onEcc f).ecc = f s.ecc := rfl
@[simp] theorem State.onEcc_bnt (f : Ecc → Ecc) : (s.onEcc f).bnt = s.bnt := rfl
@[simp] theorem State.onEcc_lnk (f : Ecc → Ecc) : (s.onEcc f).lnk = s.lnk := rfl
@[simp] theorem State.onEcc_net (f : Ecc → Ecc) : (s.onEcc f).net = s.net := rfl
@[simp] theorem State.onEcc_thm (f : Ecc → Ecc) : (s.onEcc f).thm = s.thm := rfl
@[simp] theorem State.onEcc_pwr (f : Ecc → Ecc) : (s.onEcc f).pwr = s.pwr := rfl
@[simp] theorem State.onEcc_out (f : Ecc → Ecc) : (s.onEcc f).out = s.out := rfl
@[simp] theorem State.onEcc_pending (f : Ecc → Ecc) : (s.onEcc f).pending = s.pending := rfl
@[simp] theorem State.onBnt_clk (f : NMap Bent → NMap Bent) : (s.onBnt f).clk = s.clk := rfl
@[simp] theorem State.onBnt_kp (f : NMap Bent → NMap Bent) : (s.onBnt f).kp = s.kp := rfl
@[simp] theorem State.onBnt_cfg (f : NMap Bent → NMap Bent) : (s.onBnt f).cfg = s.cfg := rfl
@[simp] theorem State.onBnt_qci (f : NMap Bent → NMap Bent) : (s.onBnt f).qci = s.qci := rfl
@[simp] theorem State.onBnt_ten (f : NMap Bent → NMap Bent) : (s.onBnt f).ten = s.ten := rfl
@[simp] theorem State.onBnt_bay (f : NMap Bent → NMap Bent) : (s.onBnt f).bay = s.bay := rfl
@[simp] theorem State.onBnt_rack (f : NMap Bent → NMap Bent) : (s.onBnt f).rack = s.rack := rfl
@[simp] theorem State.onBnt_jig (f : NMap Bent → NMap Bent) : (s.onBnt f).jig = s.jig := rfl
@[simp] theorem State.onBnt_joi (f : NMap Bent → NMap Bent) : (s.onBnt f).joi = s.joi := rfl
@[simp] theorem State.onBnt_mem (f : NMap Bent → NMap Bent) : (s.onBnt f).mem = s.mem := rfl
@[simp] theorem State.onBnt_rfr (f : NMap Bent → NMap Bent) : (s.onBnt f).rfr = s.rfr := rfl
@[simp] theorem State.onBnt_ecc (f : NMap Bent → NMap Bent) : (s.onBnt f).ecc = s.ecc := rfl
@[simp] theorem State.onBnt_bnt (f : NMap Bent → NMap Bent) : (s.onBnt f).bnt = f s.bnt := rfl
@[simp] theorem State.onBnt_lnk (f : NMap Bent → NMap Bent) : (s.onBnt f).lnk = s.lnk := rfl
@[simp] theorem State.onBnt_net (f : NMap Bent → NMap Bent) : (s.onBnt f).net = s.net := rfl
@[simp] theorem State.onBnt_thm (f : NMap Bent → NMap Bent) : (s.onBnt f).thm = s.thm := rfl
@[simp] theorem State.onBnt_pwr (f : NMap Bent → NMap Bent) : (s.onBnt f).pwr = s.pwr := rfl
@[simp] theorem State.onBnt_out (f : NMap Bent → NMap Bent) : (s.onBnt f).out = s.out := rfl
@[simp] theorem State.onBnt_pending (f : NMap Bent → NMap Bent) : (s.onBnt f).pending = s.pending := rfl
@[simp] theorem State.onLnk_clk (f : NMap Link → NMap Link) : (s.onLnk f).clk = s.clk := rfl
@[simp] theorem State.onLnk_kp (f : NMap Link → NMap Link) : (s.onLnk f).kp = s.kp := rfl
@[simp] theorem State.onLnk_cfg (f : NMap Link → NMap Link) : (s.onLnk f).cfg = s.cfg := rfl
@[simp] theorem State.onLnk_qci (f : NMap Link → NMap Link) : (s.onLnk f).qci = s.qci := rfl
@[simp] theorem State.onLnk_ten (f : NMap Link → NMap Link) : (s.onLnk f).ten = s.ten := rfl
@[simp] theorem State.onLnk_bay (f : NMap Link → NMap Link) : (s.onLnk f).bay = s.bay := rfl
@[simp] theorem State.onLnk_rack (f : NMap Link → NMap Link) : (s.onLnk f).rack = s.rack := rfl
@[simp] theorem State.onLnk_jig (f : NMap Link → NMap Link) : (s.onLnk f).jig = s.jig := rfl
@[simp] theorem State.onLnk_joi (f : NMap Link → NMap Link) : (s.onLnk f).joi = s.joi := rfl
@[simp] theorem State.onLnk_mem (f : NMap Link → NMap Link) : (s.onLnk f).mem = s.mem := rfl
@[simp] theorem State.onLnk_rfr (f : NMap Link → NMap Link) : (s.onLnk f).rfr = s.rfr := rfl
@[simp] theorem State.onLnk_ecc (f : NMap Link → NMap Link) : (s.onLnk f).ecc = s.ecc := rfl
@[simp] theorem State.onLnk_bnt (f : NMap Link → NMap Link) : (s.onLnk f).bnt = s.bnt := rfl
@[simp] theorem State.onLnk_lnk (f : NMap Link → NMap Link) : (s.onLnk f).lnk = f s.lnk := rfl
@[simp] theorem State.onLnk_net (f : NMap Link → NMap Link) : (s.onLnk f).net = s.net := rfl
@[simp] theorem State.onLnk_thm (f : NMap Link → NMap Link) : (s.onLnk f).thm = s.thm := rfl
@[simp] theorem State.onLnk_pwr (f : NMap Link → NMap Link) : (s.onLnk f).pwr = s.pwr := rfl
@[simp] theorem State.onLnk_out (f : NMap Link → NMap Link) : (s.onLnk f).out = s.out := rfl
@[simp] theorem State.onLnk_pending (f : NMap Link → NMap Link) : (s.onLnk f).pending = s.pending := rfl
@[simp] theorem State.onNet_clk (f : Net → Net) : (s.onNet f).clk = s.clk := rfl
@[simp] theorem State.onNet_kp (f : Net → Net) : (s.onNet f).kp = s.kp := rfl
@[simp] theorem State.onNet_cfg (f : Net → Net) : (s.onNet f).cfg = s.cfg := rfl
@[simp] theorem State.onNet_qci (f : Net → Net) : (s.onNet f).qci = s.qci := rfl
@[simp] theorem State.onNet_ten (f : Net → Net) : (s.onNet f).ten = s.ten := rfl
@[simp] theorem State.onNet_bay (f : Net → Net) : (s.onNet f).bay = s.bay := rfl
@[simp] theorem State.onNet_rack (f : Net → Net) : (s.onNet f).rack = s.rack := rfl
@[simp] theorem State.onNet_jig (f : Net → Net) : (s.onNet f).jig = s.jig := rfl
@[simp] theorem State.onNet_joi (f : Net → Net) : (s.onNet f).joi = s.joi := rfl
@[simp] theorem State.onNet_mem (f : Net → Net) : (s.onNet f).mem = s.mem := rfl
@[simp] theorem State.onNet_rfr (f : Net → Net) : (s.onNet f).rfr = s.rfr := rfl
@[simp] theorem State.onNet_ecc (f : Net → Net) : (s.onNet f).ecc = s.ecc := rfl
@[simp] theorem State.onNet_bnt (f : Net → Net) : (s.onNet f).bnt = s.bnt := rfl
@[simp] theorem State.onNet_lnk (f : Net → Net) : (s.onNet f).lnk = s.lnk := rfl
@[simp] theorem State.onNet_net (f : Net → Net) : (s.onNet f).net = f s.net := rfl
@[simp] theorem State.onNet_thm (f : Net → Net) : (s.onNet f).thm = s.thm := rfl
@[simp] theorem State.onNet_pwr (f : Net → Net) : (s.onNet f).pwr = s.pwr := rfl
@[simp] theorem State.onNet_out (f : Net → Net) : (s.onNet f).out = s.out := rfl
@[simp] theorem State.onNet_pending (f : Net → Net) : (s.onNet f).pending = s.pending := rfl
@[simp] theorem State.onThm_clk (f : Therm → Therm) : (s.onThm f).clk = s.clk := rfl
@[simp] theorem State.onThm_kp (f : Therm → Therm) : (s.onThm f).kp = s.kp := rfl
@[simp] theorem State.onThm_cfg (f : Therm → Therm) : (s.onThm f).cfg = s.cfg := rfl
@[simp] theorem State.onThm_qci (f : Therm → Therm) : (s.onThm f).qci = s.qci := rfl
@[simp] theorem State.onThm_ten (f : Therm → Therm) : (s.onThm f).ten = s.ten := rfl
@[simp] theorem State.onThm_bay (f : Therm → Therm) : (s.onThm f).bay = s.bay := rfl
@[simp] theorem State.onThm_rack (f : Therm → Therm) : (s.onThm f).rack = s.rack := rfl
@[simp] theorem State.onThm_jig (f : Therm → Therm) : (s.onThm f).jig = s.jig := rfl
@[simp] theorem State.onThm_joi (f : Therm → Therm) : (s.onThm f).joi = s.joi := rfl
@[simp] theorem State.onThm_mem (f : Therm → Therm) : (s.onThm f).mem = s.mem := rfl
@[simp] theorem State.onThm_rfr (f : Therm → Therm) : (s.onThm f).rfr = s.rfr := rfl
@[simp] theorem State.onThm_ecc (f : Therm → Therm) : (s.onThm f).ecc = s.ecc := rfl
@[simp] theorem State.onThm_bnt (f : Therm → Therm) : (s.onThm f).bnt = s.bnt := rfl
@[simp] theorem State.onThm_lnk (f : Therm → Therm) : (s.onThm f).lnk = s.lnk := rfl
@[simp] theorem State.onThm_net (f : Therm → Therm) : (s.onThm f).net = s.net := rfl
@[simp] theorem State.onThm_thm (f : Therm → Therm) : (s.onThm f).thm = f s.thm := rfl
@[simp] theorem State.onThm_pwr (f : Therm → Therm) : (s.onThm f).pwr = s.pwr := rfl
@[simp] theorem State.onThm_out (f : Therm → Therm) : (s.onThm f).out = s.out := rfl
@[simp] theorem State.onThm_pending (f : Therm → Therm) : (s.onThm f).pending = s.pending := rfl
@[simp] theorem State.onPwr_clk (f : Power → Power) : (s.onPwr f).clk = s.clk := rfl
@[simp] theorem State.onPwr_kp (f : Power → Power) : (s.onPwr f).kp = s.kp := rfl
@[simp] theorem State.onPwr_cfg (f : Power → Power) : (s.onPwr f).cfg = s.cfg := rfl
@[simp] theorem State.onPwr_qci (f : Power → Power) : (s.onPwr f).qci = s.qci := rfl
@[simp] theorem State.onPwr_ten (f : Power → Power) : (s.onPwr f).ten = s.ten := rfl
@[simp] theorem State.onPwr_bay (f : Power → Power) : (s.onPwr f).bay = s.bay := rfl
@[simp] theorem State.onPwr_rack (f : Power → Power) : (s.onPwr f).rack = s.rack := rfl
@[simp] theorem State.onPwr_jig (f : Power → Power) : (s.onPwr f).jig = s.jig := rfl
@[simp] theorem State.onPwr_joi (f : Power → Power) : (s.onPwr f).joi = s.joi := rfl
@[simp] theorem State.onPwr_mem (f : Power → Power) : (s.onPwr f).mem = s.mem := rfl
@[simp] theorem State.onPwr_rfr (f : Power → Power) : (s.onPwr f).rfr = s.rfr := rfl
@[simp] theorem State.onPwr_ecc (f : Power → Power) : (s.onPwr f).ecc = s.ecc := rfl
@[simp] theorem State.onPwr_bnt (f : Power → Power) : (s.onPwr f).bnt = s.bnt := rfl
@[simp] theorem State.onPwr_lnk (f : Power → Power) : (s.onPwr f).lnk = s.lnk := rfl
@[simp] theorem State.onPwr_net (f : Power → Power) : (s.onPwr f).net = s.net := rfl
@[simp] theorem State.onPwr_thm (f : Power → Power) : (s.onPwr f).thm = s.thm := rfl
@[simp] theorem State.onPwr_pwr (f : Power → Power) : (s.onPwr f).pwr = f s.pwr := rfl
@[simp] theorem State.onPwr_out (f : Power → Power) : (s.onPwr f).out = s.out := rfl
@[simp] theorem State.onPwr_pending (f : Power → Power) : (s.onPwr f).pending = s.pending := rfl
@[simp] theorem State.onOut_clk (f : List Out → List Out) : (s.onOut f).clk = s.clk := rfl
@[simp] theorem State.onOut_kp (f : List Out → List Out) : (s.onOut f).kp = s.kp := rfl
@[simp] theorem State.onOut_cfg (f : List Out → List Out) : (s.onOut f).cfg = s.cfg := rfl
@[simp] theorem State.onOut_qci (f : List Out → List Out) : (s.onOut f).qci = s.qci := rfl
@[simp] theorem State.onOut_ten (f : List Out → List Out) : (s.onOut f).ten = s.ten := rfl
@[simp] theorem State.onOut_bay (f : List Out → List Out) : (s.onOut f).bay = s.bay := rfl
@[simp] theorem State.onOut_rack (f : List Out → List Out) : (s.onOut f).rack = s.rack := rfl
@[simp] theorem State.onOut_jig (f : List Out → List Out) : (s.onOut f).jig = s.jig := rfl
@[simp] theorem State.onOut_joi (f : List Out → List Out) : (s.onOut f).joi = s.joi := rfl
@[simp] theorem State.onOut_mem (f : List Out → List Out) : (s.onOut f).mem = s.mem := rfl
@[simp] theorem State.onOut_rfr (f : List Out → List Out) : (s.onOut f).rfr = s.rfr := rfl
@[simp] theorem State.onOut_ecc (f : List Out → List Out) : (s.onOut f).ecc = s.ecc := rfl
@[simp] theorem State.onOut_bnt (f : List Out → List Out) : (s.onOut f).bnt = s.bnt := rfl
@[simp] theorem State.onOut_lnk (f : List Out → List Out) : (s.onOut f).lnk = s.lnk := rfl
@[simp] theorem State.onOut_net (f : List Out → List Out) : (s.onOut f).net = s.net := rfl
@[simp] theorem State.onOut_thm (f : List Out → List Out) : (s.onOut f).thm = s.thm := rfl
@[simp] theorem State.onOut_pwr (f : List Out → List Out) : (s.onOut f).pwr = s.pwr := rfl
@[simp] theorem State.onOut_out (f : List Out → List Out) : (s.onOut f).out = f s.out := rfl
@[simp] theorem State.onOut_pending (f : List Out → List Out) : (s.onOut f).pending = s.pending := rfl

end Sys2Proof.Machine
end

