-- ==== Sys2Proof/Laws/Command.lean ====
section
/-! SUPPORT. What taking and completing a command can do: one lemma for each shared operation of the command interface. -/

namespace Sys2Proof.Machine

/-! ### Frames -/

theorem OnlyChanges.refl (ps : List Part) (s : State) : OnlyChanges ps s s := fun p _ => by cases p <;> rfl

theorem OnlyChanges.trans {ps : List Part} {s t u : State} (h : OnlyChanges ps s t) (k : OnlyChanges ps t u) :
    OnlyChanges ps s u := by
  intro p hp
  have a := h p hp
  have b := k p hp
  cases p <;> simp_all [same]

theorem OnlyChanges.mono {ps qs : List Part} {s t : State} (h : OnlyChanges ps s t) (hs : ∀ p, p ∈ ps → p ∈ qs) :
    OnlyChanges qs s t := fun p hp => h p (fun hm => hp (hs p hm))

/-! ### Taking -/

/-- Taking a command changes only the command interface. -/
theorem noteTaken_frame (cx : Cmd) (op : Nat) (s : State) : OnlyChanges [.qci] s (noteTaken cx op s) := by
  intro p hp
  unfold noteTaken
  cases p <;> simp_all [same] <;> split <;> simp [State.putSession]

section
variable (cx : Cmd) (op : Nat) (s : State)
@[simp] theorem noteTaken_clk : (noteTaken cx op s).clk = s.clk := noteTaken_frame cx op s .clk (by decide)
@[simp] theorem noteTaken_kp : (noteTaken cx op s).kp = s.kp := noteTaken_frame cx op s .kp (by decide)
@[simp] theorem noteTaken_cfg : (noteTaken cx op s).cfg = s.cfg := noteTaken_frame cx op s .cfg (by decide)
@[simp] theorem noteTaken_ten : (noteTaken cx op s).ten = s.ten := noteTaken_frame cx op s .ten (by decide)
@[simp] theorem noteTaken_bay : (noteTaken cx op s).bay = s.bay := noteTaken_frame cx op s .bay (by decide)
@[simp] theorem noteTaken_rack : (noteTaken cx op s).rack = s.rack := noteTaken_frame cx op s .rack (by decide)
@[simp] theorem noteTaken_jig : (noteTaken cx op s).jig = s.jig := noteTaken_frame cx op s .jig (by decide)
@[simp] theorem noteTaken_joi : (noteTaken cx op s).joi = s.joi := noteTaken_frame cx op s .joi (by decide)
@[simp] theorem noteTaken_mem : (noteTaken cx op s).mem = s.mem := noteTaken_frame cx op s .mem (by decide)
@[simp] theorem noteTaken_rfr : (noteTaken cx op s).rfr = s.rfr := noteTaken_frame cx op s .rfr (by decide)
@[simp] theorem noteTaken_ecc : (noteTaken cx op s).ecc = s.ecc := noteTaken_frame cx op s .ecc (by decide)
@[simp] theorem noteTaken_bnt : (noteTaken cx op s).bnt = s.bnt := noteTaken_frame cx op s .bnt (by decide)
@[simp] theorem noteTaken_lnk : (noteTaken cx op s).lnk = s.lnk := noteTaken_frame cx op s .lnk (by decide)
@[simp] theorem noteTaken_net : (noteTaken cx op s).net = s.net := noteTaken_frame cx op s .net (by decide)
@[simp] theorem noteTaken_thm : (noteTaken cx op s).thm = s.thm := noteTaken_frame cx op s .thm (by decide)
@[simp] theorem noteTaken_pwr : (noteTaken cx op s).pwr = s.pwr := noteTaken_frame cx op s .pwr (by decide)
@[simp] theorem noteTaken_out : (noteTaken cx op s).out = s.out := noteTaken_frame cx op s .out (by decide)
@[simp] theorem noteTaken_pending : (noteTaken cx op s).pending = s.pending := noteTaken_frame cx op s .pending (by decide)
end

/-! ### Running -/

/-- Only a known caller passes the gate. -/
theorem caller_of_gate {cx : Cmd} {op : Nat} {s : State} (h : gate s cx op = none) : callerOf s cx.session ≠ none := by
  intro hc
  simp [gate, hc] at h

/-- A command that is accepted runs its body on the state in which it has been taken. -/
theorem qci_accepted {cx : Cmd} {op : Nat} {s : State} (h : Accepts cx op s) (body : State → Ans) :
    qci cx op body s = (match body (noteTaken cx op s) with
      | ⟨t, some v⟩ => .next (finish cx op v t)
      | ⟨t, none⟩ => .next t) := by
  have hc := caller_of_gate h.2
  simp only [qci, h.1, h.2, hc]
  rfl

/-- A body that completes with OK. -/
theorem qci_ok {cx : Cmd} {op : Nat} {s u : State} {r : List Nat} {body : State → Ans} (h : Accepts cx op s)
    (hb : body (noteTaken cx op s) = .ok u r) :
    qci cx op body s = .next (finish cx op { status := .ok, result := r } u) := by
  simp [qci_accepted h, hb, Ans.ok]

/-- A body that completes later. -/
theorem qci_later {cx : Cmd} {op : Nat} {s u : State} {body : State → Ans} (h : Accepts cx op s)
    (hb : body (noteTaken cx op s) = .later u) : qci cx op body s = .next u := by
  simp [qci_accepted h, hb, Ans.later]

/-- A body that fails. -/
theorem qci_fail {cx : Cmd} {op : Nat} {s u : State} {st : Status} {r : List Nat} {body : State → Ans} (h : Accepts cx op s)
    (hb : body (noteTaken cx op s) = .fail u st r) :
    qci cx op body s = .next (finish cx op { status := st, result := r } u) := by
  simp [qci_accepted h, hb, Ans.fail]

/-- A command whose body completes with OK. -/
theorem completes_of {c : Instr} {cx : Cmd} {op : Nat} {s u : State} {r : List Nat} {body : State → Ans} {P : State → Prop}
    (he : exec c s = qci cx op body s) (h : Accepts cx op s) (hb : body (noteTaken cx op s) = .ok u r) (hp : P u) :
    Completes c cx op r s P := ⟨u, he.trans (qci_ok h hb), hp⟩

/-- A command whose body completes later. -/
theorem runs_later {c : Instr} {cx : Cmd} {op : Nat} {s u : State} {body : State → Ans} {P : State → Prop}
    (he : exec c s = qci cx op body s) (h : Accepts cx op s) (hb : body (noteTaken cx op s) = .later u) (hp : P u) :
    Runs c s P := ⟨u, he.trans (qci_later h hb), hp⟩

/-- A session's record once a command of some session has been taken: TAKEN and the SEQ expected next advance. -/
theorem noteTaken_session (cx : Cmd) (op : Nat) (s : State) (i : Nat) :
    (noteTaken cx op s).session i = if i = cx.session then (sessionRec s i).map (fun x =>
      { x with taken := max x.taken cx.seq, expect := max x.expect (cx.seq + 1) }) else s.session i := by
  have key : ∀ (t : State) (f : Qci → Qci), (∀ q, (f q).sessions = q.sessions) → (t.onQci f).session i = t.session i := by
    intro t f hf
    simp [State.session, State.onQci, hf]
  unfold noteTaken
  rw [key]
  · by_cases hi : i = cx.session
    · subst hi
      cases h : sessionRec s cx.session with
      | none =>
        simp only [sessionRec] at h
        split at h <;> simp_all
      | some x => simp [State.session, State.putSession, State.onQci]
    · cases h : sessionRec s cx.session with
      | none => simp [hi]
      | some x => simp [State.session, State.putSession, State.onQci, mget_mset, hi]
  · intro q
    split <;> rfl

/-- Who sends a command does not change when it is taken. -/
@[simp] theorem callerOf_noteTaken (cx : Cmd) (op : Nat) (s : State) (i : Nat) :
    callerOf (noteTaken cx op s) i = callerOf s i := by
  unfold callerOf
  split
  · rfl
  · next hp =>
    rw [noteTaken_session]
    split
    · next hi =>
      subst hi
      cases h : s.session cx.session <;> simp [sessionRec, h, hp]
    · rfl

@[simp] theorem tenantOf_noteTaken (cx c : Cmd) (op : Nat) (s : State) : tenantOf (noteTaken cx op s) c = tenantOf s c := by
  simp [tenantOf]
@[simp] theorem isOperator_noteTaken (cx c : Cmd) (op : Nat) (s : State) :
    isOperator (noteTaken cx op s) c = isOperator s c := by
  simp [isOperator]

/-- A body over the bay that the command names, its own and free to change. -/
theorem withBay_owned {cx : Cmd} {bay t : Nat} {y : Bay} {s : State} (h : Owns cx bay t y s) (f : Bay → Ans) :
    withBay cx bay f s = f y := by
  obtain ⟨ht, ⟨x, hx, hd⟩, hy, hty, hf, hb⟩ := h
  simp [withBay, withTenancy, ht, hx, hd, hy, hty, hf, hb]

end Sys2Proof.Machine
end

