-- ==== Sys2Proof/Laws/Memory.lean ====
section
/-! SUPPORT. Every writing of a map keeps its canonical form; every memory operation keeps Memory.wf; and what reads after a
write gives. -/

namespace Sys2Proof.Machine

variable {α : Type}

/-! ### The canonical form of maps -/

theorem mwfFrom_mono [DecidableEq α] {d : α} {m : List (Nat × α)} {lo hi : Nat} (h : mwfFrom d hi m = true) (hl : lo ≤ hi) :
    mwfFrom d lo m = true := by
  cases m with
  | nil => rfl
  | cons e m =>
    simp only [mwfFrom, Bool.and_eq_true, decide_eq_true_eq] at h ⊢
    exact ⟨⟨by omega, h.1.2⟩, h.2⟩

theorem mwfFrom_filter [DecidableEq α] {d : α} (p : Nat × α → Bool) {m : List (Nat × α)} {lo : Nat}
    (h : mwfFrom d lo m = true) : mwfFrom d lo (m.filter p) = true := by
  induction m generalizing lo with
  | nil => rfl
  | cons e m ih =>
    simp only [mwfFrom, Bool.and_eq_true, decide_eq_true_eq] at h
    rw [List.filter_cons]
    split
    · simp only [mwfFrom, Bool.and_eq_true, decide_eq_true_eq]
      exact ⟨h.1, ih h.2⟩
    · exact mwfFrom_mono (ih h.2) (by omega)

theorem mdel_filter (k : Nat) (m : List (Nat × α)) : mdel k m = m.filter (fun e => decide (k ≠ e.1)) := by
  induction m with
  | nil => rfl
  | cons e m ih =>
    by_cases h : k = e.1
    · subst h
      simpa [mdel] using ih
    · simp [mdel, h, ih]

theorem mins_wf [DecidableEq α] {d : α} {k : Nat} {v : α} (hv : v ≠ d) {m : List (Nat × α)} {lo : Nat}
    (h : mwfFrom d lo m = true) (hlo : lo ≤ k) (hk : ∀ e ∈ m, e.1 ≠ k) : mwfFrom d lo (mins k v m) = true := by
  induction m generalizing lo with
  | nil => simp [mins, mwfFrom, hv, hlo]
  | cons e m ih =>
    simp only [mwfFrom, Bool.and_eq_true, decide_eq_true_eq] at h
    have hne := hk e (List.mem_cons_self ..)
    simp only [mins]
    split
    · next hlt =>
      simp only [mwfFrom, Bool.and_eq_true, decide_eq_true_eq]
      exact ⟨⟨hlo, hv⟩, ⟨by omega, h.1.2⟩, h.2⟩
    · next hge =>
      simp only [mwfFrom, Bool.and_eq_true, decide_eq_true_eq]
      exact ⟨h.1, ih h.2 (by omega) (fun x hx => hk x (List.mem_cons_of_mem _ hx))⟩

/-- Writing a key keeps the canonical form. -/
theorem mset_wf [DecidableEq α] {d : α} {m : List (Nat × α)} (h : mwf d m = true) (k : Nat) (v : α) :
    mwf d (mset d m k v) = true := by
  have hd : mwfFrom d 0 (mdel k m) = true := by
    rw [mdel_filter]
    exact mwfFrom_filter _ h
  unfold mset
  split
  · exact hd
  · next hv => exact mins_wf hv hd (Nat.zero_le k) (not_mem_mdel m k)

theorem mmod_wf [DecidableEq α] {d : α} {m : List (Nat × α)} (h : mwf d m = true) (k : Nat) (f : α → α) :
    mwf d (mmod d m k f) = true := mset_wf h ..

theorem filter_wf [DecidableEq α] {d : α} {m : List (Nat × α)} (h : mwf d m = true) (p : Nat × α → Bool) :
    mwf d (m.filter p) = true := mwfFrom_filter p h

theorem mkeep_wf [DecidableEq α] {d : α} {m : List (Nat × α)} (h : mwf d m = true) (p : Nat → Bool) :
    mwf d (mkeep p m) = true := filter_wf h _

theorem wipeRange_wf [DecidableEq α] {d : α} {m : List (Nat × α)} (h : mwf d m = true) (lo n : Nat) :
    mwf d (wipeRange lo n m) = true := mkeep_wf h _

theorem writeBytes_wf {m : List Host.Cell} (h : mwf 0 m = true) (base : Nat) (data : List Byte) :
    mwf 0 (writeBytes m base data) = true := by
  induction data generalizing m base with
  | nil => exact h
  | cons b bs ih => exact ih (mset_wf h ..) _

/-- Folding an operation that keeps a property keeps it. -/
theorem foldl_keeps {β σ : Type} {P : σ → Prop} (f : σ → β → σ) (hf : ∀ s b, P s → P (f s b)) (l : List β) {s : σ} (h : P s) :
    P (l.foldl f s) := by
  induction l generalizing s with
  | nil => exact h
  | cons b l ih => exact ih (hf s b h)

/-! ### Every memory operation keeps the canonical form -/

theorem Memory.wf_def (m : Mem) :
    Memory.wf m = true ↔ mwf 0 m.bench = true ∧ mwf 0 m.slice = true ∧ mwf 0 m.hidden = true := by
  simp [Memory.wf, and_assoc]

theorem writeMem_wf {m : Mem} (h : Memory.wf m = true) (inSlice : Bool) (j a : Nat) (data : List Byte) (poison : Bool) :
    Memory.wf (writeMem inSlice j a data poison m) = true := by
  rw [Memory.wf_def] at h ⊢
  cases inSlice
  · exact ⟨writeBytes_wf h.1 .., h.2⟩
  · exact ⟨h.1, writeBytes_wf h.2.1 .., h.2.2⟩

theorem wipeBench_wf {m : Mem} (h : Memory.wf m = true) (j : Nat) : Memory.wf (wipeBench j m) = true := by
  rw [Memory.wf_def] at h ⊢
  exact ⟨wipeRange_wf h.1 .., h.2⟩

theorem wipeSlice_wf {m : Mem} (h : Memory.wf m = true) (j : Nat) : Memory.wf (wipeSlice j m) = true := by
  rw [Memory.wf_def] at h ⊢
  exact ⟨h.1, wipeRange_wf h.2.1 .., wipeRange_wf h.2.2 ..⟩

theorem tensorWrite_wf {m : Mem} (h : Memory.wf m = true) (t : Tensor) (j b : Nat) (data : List Byte) (poison : Bool) :
    Memory.wf (tensorWrite t j b data poison m) = true :=
  foldl_keeps (P := fun m => Memory.wf m = true) _ (fun _ _ h => writeMem_wf h ..) _ h

theorem writeCodes_wf {m : Mem} (h : Memory.wf m = true) (img : Image) (ti j i : Nat) (codes : List Nat) (poison : Bool) :
    Memory.wf (writeCodes img ti j i codes poison m) = true := tensorWrite_wf h ..

theorem writeBlock_wf {m : Mem} (h : Memory.wf m = true) (img : Image) (ti j k scale : Nat) (codes : List Nat) (poison : Bool) :
    Memory.wf (writeBlock img ti j k scale codes poison m) = true := tensorWrite_wf (tensorWrite_wf h ..) ..

theorem zeroTouched_wf {m : Mem} (h : Memory.wf m = true) (js : List Nat) : Memory.wf (zeroTouched js m) = true := by
  rw [Memory.wf_def] at h ⊢
  refine ⟨h.1, ?_, ?_⟩ <;> simp only [zeroTouched]
  · exact mkeep_wf h.2.1 _
  · exact mkeep_wf h.2.2 _

theorem copyRange_wf {m : Mem} (h : Memory.wf m = true) (src dst n : Nat) : Memory.wf (copyRange src dst n m) = true := by
  rw [Memory.wf_def] at h ⊢
  exact ⟨h.1, foldl_keeps (P := fun l => mwf 0 l = true) _ (fun _ _ h => mset_wf h ..) _ (wipeRange_wf h.2.1 ..), h.2.2⟩

theorem zeroBent_kept {s : State} (h : MemoryKept s) (b : Nat) : MemoryKept (zeroBent b s) := by
  simp only [MemoryKept, Memory.wf_def] at h ⊢
  refine ⟨h.1, ?_, ?_⟩ <;> simp only [zeroBent, State.onMem]
  · exact wipeRange_wf h.2.1 ..
  · exact wipeRange_wf h.2.2 ..

theorem clearJoists_kept {s : State} (h : MemoryKept s) (b : Nat) : MemoryKept (clearJoists b s) := by
  simp only [MemoryKept, Memory.wf_def] at h ⊢
  exact ⟨wipeRange_wf h.1 .., h.2⟩

/-- The switch of a row to its spare leaves benches and slices as they were. -/
@[simp] theorem switchRow_bench (r : Remap) (s : State) : (switchRow r s).mem.bench = s.mem.bench := by
  simp only [switchRow, State.onMem]
@[simp] theorem switchRow_slice (r : Remap) (s : State) : (switchRow r s).mem.slice = s.mem.slice := by
  simp only [switchRow, State.onMem]
theorem switchRow_kept {s : State} (h : MemoryKept s) (r : Remap) : MemoryKept (switchRow r s) := by
  simp only [MemoryKept, Memory.wf_def, switchRow_bench, switchRow_slice] at h ⊢
  refine ⟨h.1, h.2.1, ?_⟩
  simp only [switchRow, State.onMem]
  exact writeBytes_wf (wipeRange_wf h.2.2 _ _) _ _

/-- An operation on the memories that keeps the form keeps it in the state. -/
theorem onMem_kept {s : State} (h : MemoryKept s) {f : Mem → Mem} (hf : ∀ m, Memory.wf m = true → Memory.wf (f m) = true) :
    MemoryKept (s.onMem f) := hf _ h

/-- The form holds of memory after reset. -/
theorem reset_memory_kept : MemoryKept State.reset := rfl

/-! ### Reading after writing -/

/-- A byte after a write of bytes: of those written where the key lies among them, else as before. -/
theorem mget_writeBytes (m : List Host.Cell) (base : Nat) (data : List Byte) (k : Nat) :
    mget 0 (writeBytes m base data) k = if base ≤ k ∧ k < base + data.length then data.getD (k - base) 0 else mget 0 m k := by
  induction data generalizing m base with
  | nil => rw [writeBytes, if_neg (by simp only [List.length_nil]; omega)]
  | cons b bs ih =>
    rw [writeBytes, ih]
    by_cases hk : k = base
    · subst hk
      rw [if_neg (by omega), if_pos (by simp), mget_mset_same]
      simp
    · by_cases hr : base + 1 ≤ k ∧ k < base + 1 + bs.length
      · rw [if_pos hr, if_pos (by simp; omega)]
        obtain ⟨n, rfl⟩ : ∃ n, k = base + 1 + n := ⟨k - (base + 1), by omega⟩
        rw [show base + 1 + n - (base + 1) = n by omega, show base + 1 + n - base = n + 1 by omega]
        simp
      · rw [if_neg hr, mget_mset_ne _ _ _ hk, if_neg (by simp; omega)]

/-- A write leaves every byte outside it as it was. -/
theorem mget_writeBytes_outside {m : List Host.Cell} {base k : Nat} {data : List Byte} (h : k < base ∨ base + data.length ≤ k) :
    mget 0 (writeBytes m base data) k = mget 0 m k := by
  rw [mget_writeBytes, if_neg (by omega)]

end Sys2Proof.Machine
end

