-- ==== Sys2Proof/Laws/Frames.lean ====
section
/-! SUPPORT. Which parts each shared operation can change: one lemma for each, which later proofs cite. -/

namespace Sys2Proof.Machine

-- one proof after another: each proof in a thread of its own takes more memory than the check allows
set_option Elab.async false

/-! ### Joining frames -/

theorem foldl_frame {β : Type} {ps : List Part} (f : State → β → State) (hf : ∀ s b, OnlyChanges ps s (f s b)) (l : List β)
    (s : State) : OnlyChanges ps s (l.foldl f s) := by
  induction l generalizing s with
  | nil => exact .refl _ _
  | cons b l ih => exact (hf s b).trans (ih _)

/-- A change after another, each within its own parts. -/
theorem OnlyChanges.then {ps qs rs : List Part} {s t u : State} (h : OnlyChanges ps s t) (k : OnlyChanges qs t u)
    (hp : ∀ p, p ∈ ps → p ∈ rs := by decide) (hq : ∀ p, p ∈ qs → p ∈ rs := by decide) : OnlyChanges rs s u :=
  (h.mono hp).trans (k.mono hq)

/-- Either of two changes within the same parts. -/
theorem OnlyChanges.cond {ps : List Part} {s t u : State} {c : Prop} [Decidable c] (h : OnlyChanges ps s t)
    (k : OnlyChanges ps s u) : OnlyChanges ps s (if c then t else u) := by split <;> assumption

/-- The memories keep their form through whatever does not change them. -/
theorem OnlyChanges.kept {ps : List Part} {s t : State} (h : OnlyChanges ps s t) (hs : MemoryKept s)
    (hm : Part.mem ∉ ps := by decide) : MemoryKept t := by
  have e : t.mem = s.mem := h .mem hm
  simpa [MemoryKept, e] using hs

/-! ### One part -/

theorem onClk_frame {f : Clk → Clk} {s : State} : OnlyChanges [.clk] s (s.onClk f) := by
  intro p hp; cases p <;> first | rfl | exact (hp (.head _)).elim
theorem onKp_frame {f : Keeper → Keeper} {s : State} : OnlyChanges [.kp] s (s.onKp f) := by
  intro p hp; cases p <;> first | rfl | exact (hp (.head _)).elim
theorem onCfg_frame {f : Cfg → Cfg} {s : State} : OnlyChanges [.cfg] s (s.onCfg f) := by
  intro p hp; cases p <;> first | rfl | exact (hp (.head _)).elim
theorem onQci_frame {f : Qci → Qci} {s : State} : OnlyChanges [.qci] s (s.onQci f) := by
  intro p hp; cases p <;> first | rfl | exact (hp (.head _)).elim
theorem onTen_frame {f : NMap (Option Tenancy) → NMap (Option Tenancy)} {s : State} : OnlyChanges [.ten] s (s.onTen f) := by
  intro p hp; cases p <;> first | rfl | exact (hp (.head _)).elim
theorem onBay_frame {f : Bays → Bays} {s : State} : OnlyChanges [.bay] s (s.onBay f) := by
  intro p hp; cases p <;> first | rfl | exact (hp (.head _)).elim
theorem onRack_frame {f : Rack → Rack} {s : State} : OnlyChanges [.rack] s (s.onRack f) := by
  intro p hp; cases p <;> first | rfl | exact (hp (.head _)).elim
theorem onJig_frame {f : Jig → Jig} {s : State} : OnlyChanges [.jig] s (s.onJig f) := by
  intro p hp; cases p <;> first | rfl | exact (hp (.head _)).elim
theorem onJoi_frame {f : Joists → Joists} {s : State} : OnlyChanges [.joi] s (s.onJoi f) := by
  intro p hp; cases p <;> first | rfl | exact (hp (.head _)).elim
theorem onMem_frame {f : Mem → Mem} {s : State} : OnlyChanges [.mem] s (s.onMem f) := by
  intro p hp; cases p <;> first | rfl | exact (hp (.head _)).elim
theorem onRfr_frame {f : NMap BankRefresh → NMap BankRefresh} {s : State} : OnlyChanges [.rfr] s (s.onRfr f) := by
  intro p hp; cases p <;> first | rfl | exact (hp (.head _)).elim
theorem onEcc_frame {f : Ecc → Ecc} {s : State} : OnlyChanges [.ecc] s (s.onEcc f) := by
  intro p hp; cases p <;> first | rfl | exact (hp (.head _)).elim
theorem onBnt_frame {f : NMap Bent → NMap Bent} {s : State} : OnlyChanges [.bnt] s (s.onBnt f) := by
  intro p hp; cases p <;> first | rfl | exact (hp (.head _)).elim
theorem onLnk_frame {f : NMap Link → NMap Link} {s : State} : OnlyChanges [.lnk] s (s.onLnk f) := by
  intro p hp; cases p <;> first | rfl | exact (hp (.head _)).elim
theorem onNet_frame {f : Net → Net} {s : State} : OnlyChanges [.net] s (s.onNet f) := by
  intro p hp; cases p <;> first | rfl | exact (hp (.head _)).elim
theorem onThm_frame {f : Therm → Therm} {s : State} : OnlyChanges [.thm] s (s.onThm f) := by
  intro p hp; cases p <;> first | rfl | exact (hp (.head _)).elim
theorem onPwr_frame {f : Power → Power} {s : State} : OnlyChanges [.pwr] s (s.onPwr f) := by
  intro p hp; cases p <;> first | rfl | exact (hp (.head _)).elim
theorem onOut_frame {f : List Out → List Out} {s : State} : OnlyChanges [.out] s (s.onOut f) := by
  intro p hp; cases p <;> first | rfl | exact (hp (.head _)).elim

theorem countPort_frame {p off n : Nat} {s : State} : OnlyChanges [.net] s (countPort p off n s) := onNet_frame
theorem discard_frame {p : Nat} {s : State} : OnlyChanges [.net] s (discard p s) := onNet_frame
theorem send_frame {o : Out} {s : State} : OnlyChanges [.out] s (s.send o) := onOut_frame
theorem setPort_frame {p : Nat} {f : Port → Port} {s : State} : OnlyChanges [.net] s (s.setPort p f) := onNet_frame
/-- A frame that leaves counts at its port and joins the outputs. -/
theorem emitFrame_frame {p : Nat} {counts : List (Nat × Nat)} {o : Out} {s : State} :
    OnlyChanges [.net, .out] s (emitFrame p counts o s) :=
  (((countPort_frame.trans countPort_frame).trans (foldl_frame _ (fun _ _ => countPort_frame) _ _)).trans onNet_frame).then send_frame
/-- A frame leaves by its port, waits for a paused priority, or, where the port is down, is dropped. -/
theorem frameOut_frame {p : Nat} {counts : List (Nat × Nat)} {o : Out} {s : State} :
    OnlyChanges [.net, .out] s (frameOut p counts o s) := by
  unfold frameOut
  split
  · exact .refl _ _
  · exact .cond (onNet_frame.mono (by decide)) emitFrame_frame
theorem sendFrame_frame {p : Nat} {o : Out} {s : State} : OnlyChanges [.net, .out] s (sendFrame p o s) := frameOut_frame
theorem logEvent_frame {code source : Nat} {data : List Int} {s : State} : OnlyChanges [.kp] s (logEvent code source data s) :=
  onKp_frame
theorem alertOn_frame {c : Nat} {s : State} : OnlyChanges [.pwr] s (alertOn c s) := onPwr_frame
theorem alertOff_frame {c : Nat} {s : State} : OnlyChanges [.pwr] s (alertOff c s) := onPwr_frame
theorem spend_frame {n : Nat} {s : State} : OnlyChanges [.clk] s (spend n s) := onClk_frame
theorem putSession_frame {i : Nat} {v : Option Session} {s : State} : OnlyChanges [.qci] s (s.putSession i v) := onQci_frame
theorem setSession_frame {i : Nat} {f : Session → Session} {s : State} : OnlyChanges [.qci] s (s.setSession i f) := onQci_frame
theorem putQp_frame {q : Nat} {v : Option Qp} {s : State} : OnlyChanges [.net] s (s.putQp q v) := onNet_frame
theorem putBinding_frame {t : Nat} {v : Option Job} {s : State} : OnlyChanges [.net] s (s.putBinding t v) := onNet_frame
theorem putJob_frame {t : Nat} {v : Option Job} {s : State} : OnlyChanges [.net] s (s.putJob t v) := onNet_frame
theorem setBay_frame {b : Nat} {f : Bay → Bay} {s : State} : OnlyChanges [.bay] s (s.setBay b f) := onBay_frame
theorem putBay_frame {b : Nat} {v : Option Bay} {s : State} : OnlyChanges [.bay] s (s.putBay b v) := onBay_frame
theorem putSeq_frame {q : Nat} {v : Option SeqRec} {s : State} : OnlyChanges [.rack] s (s.putSeq q v) := onRack_frame
theorem setJoist_frame {j : Nat} {f : Joist → Joist} {s : State} : OnlyChanges [.joi] s (s.setJoist j f) := onJoi_frame
theorem setBent_frame {b : Nat} {f : Bent → Bent} {s : State} : OnlyChanges [.bnt] s (s.setBent b f) := onBnt_frame
theorem setStep_frame {id : Nat} {f : Step → Step} {s : State} : OnlyChanges [.jig] s (setStep id f s) := onJig_frame
theorem setReset_frame {id : Nat} {f : PReset → PReset} {s : State} : OnlyChanges [.pwr] s (setReset id f s) := onPwr_frame
theorem requestReset_frame {bents : List Nat} {cause : Nat} {cx : Option Cmd} {s : State} :
    OnlyChanges [.pwr] s (requestReset bents cause cx s) := onPwr_frame
theorem noteSteps_frame {s : State} : OnlyChanges [.jig] s (noteSteps s) := onJig_frame
theorem setPegEff_frame {l : List Nat} {f : State → Nat → Bent → Bent} {s : State} :
    OnlyChanges [.bnt] s (l.foldl (fun s b => s.setBent b (f s b)) s) := foldl_frame _ (fun _ _ => setBent_frame) _ _

/-! ### Packets -/

theorem sendNow_frame {q : Qp} {p : TxPkt} {s : State} : OnlyChanges [.net, .out] s (sendNow q p s) :=
  (putQp_frame.trans onNet_frame).then frameOut_frame (rs := [.net, .out])
theorem transmit_frame {p : TxPkt} {s : State} : OnlyChanges [.net, .out] s (transmit p s) := by
  unfold transmit
  split
  · exact .refl _ _
  · exact .cond (onNet_frame.mono (by decide)) sendNow_frame

/-- A message changes what its packets change. -/
theorem transmitAll_frame {p : TxPkt} {n extra fuel : Nat} {data : List Byte} {s : State} :
    OnlyChanges [.net, .out] s (transmitAll p n extra fuel data s) := by
  induction fuel generalizing p data s with
  | zero => exact .refl _ _
  | succ k ih =>
    unfold transmitAll
    simp only
    split
    · exact transmit_frame
    · exact transmit_frame.trans ih

/-! ### The memories keep their form -/

theorem foldl_kept {β : Type} (f : State → β → State) (hf : ∀ s b, MemoryKept s → MemoryKept (f s b)) (l : List β) {s : State}
    (h : MemoryKept s) : MemoryKept (l.foldl f s) := foldl_keeps (P := MemoryKept) f hf l h

end Sys2Proof.Machine
end

