-- ==== Sys2Proof/Laws/Effects.lean ====
section
/-! SUPPORT. Which parts each operation of the machine can change, from the single updates to the ends of stages, resets and bring-up
stages: one lemma for each, which later proofs cite instead of unfolding it. -/

namespace Sys2Proof.Machine

-- one proof after another: each proof in a thread of its own takes more memory than the check allows
set_option Elab.async false

/-! ### Joining effects -/

/-- An operation after what has happened so far. -/
theorem OnlyChanges.step {ps qs : List Part} {s t u : State} (k : OnlyChanges qs t u) (hs : ∀ p, p ∈ qs → p ∈ ps)
    (h : OnlyChanges ps s t) : OnlyChanges ps s u := h.trans (k.mono hs)

/-- A repeated operation after what has happened so far. -/
theorem OnlyChanges.fold {β : Type} {ps : List Part} {f : State → β → State} {l : List β} {s t : State}
    (h : OnlyChanges ps s t) (hf : ∀ s b, OnlyChanges ps s (f s b)) : OnlyChanges ps s (l.foldl f t) := h.trans (foldl_frame f hf l t)

/-- A repeated operation whose state comes with something else. -/
theorem OnlyChanges.foldPair {β γ : Type} {ps : List Part} {f : State × γ → β → State × γ} {l : List β} {s : State} {a : State × γ}
    (h : OnlyChanges ps s a.1) (hf : ∀ a b, OnlyChanges ps a.1 (f a b).1) : OnlyChanges ps s (l.foldl f a).1 := by
  induction l generalizing a with
  | nil => exact h
  | cons b l ih => exact ih (h.trans (hf a b))

/-! ### Operations, each after those that it is made of -/

theorem throughLines_frame {path : PortPath} {isWrite : Bool} {l : List ShareRead} {s : State} :
    OnlyChanges [.joi] s (throughLines path isWrite l s) := onJoi_frame
theorem onPin_frame {bay p : Nat} {f : Nat → Nat} {s : State} : OnlyChanges [.rack] s (onPin bay p f s) := onRack_frame
theorem pinPages_frame {bay : Nat} {ps : List Nat} {s : State} : OnlyChanges [.rack] s (pinPages bay ps s) :=
  foldl_frame _ (fun _ _ => onPin_frame) _ _

theorem pinStage_frame {r : Run} {pages : List (Nat × Nat)} {s : State} : OnlyChanges [.rack, .jig] s (pinStage r pages s) := by
  unfold pinStage
  repeat' first
    | with_reducible exact .refl _ _
    | (with_reducible apply OnlyChanges.step pinPages_frame; decide)
    | (with_reducible apply OnlyChanges.step setStep_frame; decide)

theorem setGroup_frame {j g : Nat} {f : Group → Group} {s : State} : OnlyChanges [.joi] s (State.setGroup j g f s) := onJoi_frame

theorem freeGroups_frame {shape : List Nat} {datums : List Int} {m : Summary} {js : List Nat} {s : State} :
    OnlyChanges [.clk, .joi] s (freeGroups shape datums m js s) := by
  unfold freeGroups
  repeat' first
    | with_reducible exact .refl _ _
    | (with_reducible apply OnlyChanges.step setGroup_frame; decide)
    | (with_reducible apply OnlyChanges.step spend_frame; decide)
    | (with_reducible apply OnlyChanges.fold; rotate_left; intros)
    | split

theorem capAdd_frame {j item n : Nat} {s : State} : OnlyChanges [.joi] s (capAdd j item n s) := onJoi_frame
theorem capMax_frame {j item n : Nat} {s : State} : OnlyChanges [.joi] s (capMax j item n s) := onJoi_frame
theorem clearCapture_frame {js : List Nat} {s : State} : OnlyChanges [.joi] s (clearCapture js s) := onJoi_frame

theorem startCapture_frame {r : Run} {s : State} : OnlyChanges [.joi] s (startCapture r s) := by
  unfold startCapture
  repeat' first
    | with_reducible exact .refl _ _
    | (with_reducible apply OnlyChanges.step clearCapture_frame; decide)
    | split

theorem captureFree_frame {r : Run} {js : List Nat} {m : Summary} {s : State} : OnlyChanges [.clk, .joi] s (captureFree r js m s) := by
  unfold captureFree
  repeat' first
    | with_reducible exact .refl _ _
    | (with_reducible apply OnlyChanges.step capAdd_frame; decide)
    | (with_reducible apply OnlyChanges.step capMax_frame; decide)
    | (with_reducible apply OnlyChanges.step spend_frame; decide)
    | (with_reducible apply OnlyChanges.step startCapture_frame; decide)
    | (with_reducible apply OnlyChanges.fold; rotate_left; intros)
    | split

theorem toStage_frame {n : Nat} {s : State} : OnlyChanges [.kp] s (toStage n s) := onKp_frame

theorem dropLink_frame {p link : Nat} {s : State} : OnlyChanges [.net] s (dropLink p link s) := by
  unfold dropLink
  repeat' first
    | with_reducible exact .refl _ _
    | (with_reducible apply OnlyChanges.step onNet_frame; decide)
    | (with_reducible apply OnlyChanges.step setPort_frame; decide)

theorem setEngine_frame {e : Nat} {f : Engine → Engine} {s : State} : OnlyChanges [.net] s (State.setEngine e f s) := onNet_frame

theorem lightLasers_frame {s : State} : OnlyChanges [.net] s (lightLasers s) := by
  unfold lightLasers
  repeat' first
    | with_reducible exact .refl _ _
    | (with_reducible apply OnlyChanges.step setEngine_frame; decide)
    | (with_reducible apply OnlyChanges.fold; rotate_left; intros)
    | split

theorem powerEngine_frame {e : Nat} {s : State} : OnlyChanges [.clk, .net] s (powerEngine e s) := by
  unfold powerEngine
  repeat' first
    | with_reducible exact .refl _ _
    | (with_reducible apply OnlyChanges.step lightLasers_frame; decide)
    | (with_reducible apply OnlyChanges.step setEngine_frame; decide)
    | (with_reducible apply OnlyChanges.step spend_frame; decide)
    | split

theorem recordForce_frame {x : Setting} {s : State} : OnlyChanges [.cfg] s (recordForce x s) := onCfg_frame
theorem refitFrames_frame {p : Nat} {s : State} : OnlyChanges [.net] s (refitFrames p s) := onNet_frame

theorem startBoot_frame {p : Nat} {v : List Nat} {s : State} : OnlyChanges [.net] s (startBoot p v s) := by
  unfold startBoot
  repeat' first
    | with_reducible exact .refl _ _
    | (with_reducible apply OnlyChanges.step putQp_frame; decide)
    | (with_reducible apply OnlyChanges.step setPort_frame; decide)

theorem putSetting_frame {x : Setting} {s : State} : OnlyChanges [.clk, .cfg, .bnt, .net] s (putSetting x s) := by
  unfold putSetting
  dsimp only
  repeat' first
    | with_reducible exact .refl _ _
    | (with_reducible apply OnlyChanges.step dropLink_frame; decide)
    | (with_reducible apply OnlyChanges.step powerEngine_frame; decide)
    | (with_reducible apply OnlyChanges.step recordForce_frame; decide)
    | (with_reducible apply OnlyChanges.step refitFrames_frame; decide)
    | (with_reducible apply OnlyChanges.step setBent_frame; decide)
    | (with_reducible apply OnlyChanges.step setPort_frame; decide)
    | (with_reducible apply OnlyChanges.step startBoot_frame; decide)
    | split

theorem recordEntry_frame {q : Nat} {x : Setting} {s : State} : OnlyChanges [.clk, .kp, .cfg, .bnt, .net] s (recordEntry q x s) := by
  unfold recordEntry
  repeat' first
    | with_reducible exact .refl _ _
    | (with_reducible apply OnlyChanges.step logEvent_frame; decide)
    | (with_reducible apply OnlyChanges.step onCfg_frame; decide)
    | (with_reducible apply OnlyChanges.step putSetting_frame; decide)
    | split

theorem setPeg_frame {j i : Nat} {f : Peg → Peg} {s : State} : OnlyChanges [.joi] s (State.setPeg j i f s) := onJoi_frame

theorem delaySegment_frame {j bank : Nat} {s : State} : OnlyChanges [.joi, .bnt] s (delaySegment j bank s) := by
  unfold delaySegment
  repeat' first
    | with_reducible exact .refl _ _
    | (with_reducible apply OnlyChanges.step setBent_frame; decide)
    | (with_reducible apply OnlyChanges.step setPeg_frame; decide)
    | split

theorem setRefresh_frame {j i : Nat} {f : BankRefresh → BankRefresh} {s : State} : OnlyChanges [.rfr] s (State.setRefresh j i f s) :=
  onRfr_frame

theorem startSegment_frame {j bank : Nat} {s : State} : OnlyChanges [.joi, .rfr] s (startSegment j bank s) := by
  unfold startSegment
  repeat' first
    | with_reducible exact .refl _ _
    | (with_reducible apply OnlyChanges.step setJoist_frame; decide)
    | (with_reducible apply OnlyChanges.step setPeg_frame; decide)
    | (with_reducible apply OnlyChanges.step setRefresh_frame; decide)

theorem startSegments_frame {j : Nat} {s : State} : OnlyChanges [.joi, .rfr, .bnt] s (startSegments j s) := by
  unfold startSegments
  repeat' first
    | with_reducible exact .refl _ _
    | (with_reducible apply OnlyChanges.step delaySegment_frame; decide)
    | (with_reducible apply OnlyChanges.step startSegment_frame; decide)
    | (with_reducible apply OnlyChanges.fold; rotate_left; intros)

theorem syncPegs_frame {s : State} : OnlyChanges [.joi, .rfr, .bnt] s (syncPegs s) := by
  unfold syncPegs
  repeat' first
    | with_reducible exact .refl _ _
    | (with_reducible apply OnlyChanges.step setBent_frame; decide)
    | (with_reducible apply OnlyChanges.step startSegments_frame; decide)
    | (with_reducible apply OnlyChanges.fold; rotate_left; intros)

theorem bootSettings_frame {s : State} : OnlyChanges [.clk, .kp, .cfg, .joi, .rfr, .bnt, .net] s (bootSettings s) := by
  unfold bootSettings
  repeat' first
    | with_reducible exact .refl _ _
    | (with_reducible apply OnlyChanges.step onCfg_frame; decide)
    | (with_reducible apply OnlyChanges.step recordEntry_frame; decide)
    | (with_reducible apply OnlyChanges.step setBent_frame; decide)
    | (with_reducible apply OnlyChanges.step syncPegs_frame; decide)
    | (with_reducible apply OnlyChanges.fold; rotate_left; intros)
    | split

theorem enterRecovery_frame {reason : Nat} {s : State} : OnlyChanges [.kp, .net] s (enterRecovery reason s) := by
  unfold enterRecovery
  repeat' first
    | with_reducible exact .refl _ _
    | (with_reducible apply OnlyChanges.step lightLasers_frame; decide)
    | (with_reducible apply OnlyChanges.step onKp_frame; decide)
    | (with_reducible apply OnlyChanges.step setEngine_frame; decide)
    | (with_reducible apply OnlyChanges.step setPort_frame; decide)
    | (with_reducible apply OnlyChanges.fold; rotate_left; intros)

theorem keeperPassed_frame {s : State} : OnlyChanges [.kp] s (keeperPassed s) := onKp_frame

theorem keeperStage_frame {s : State} : OnlyChanges [.clk, .kp, .cfg, .joi, .rfr, .bnt, .net] s (keeperStage s) := by
  unfold keeperStage
  dsimp only
  repeat' first
    | with_reducible exact .refl _ _
    | (with_reducible apply OnlyChanges.step bootSettings_frame; decide)
    | (with_reducible apply OnlyChanges.step enterRecovery_frame; decide)
    | (with_reducible apply OnlyChanges.step keeperPassed_frame; decide)
    | (with_reducible apply OnlyChanges.step onKp_frame; decide)
    | (with_reducible apply OnlyChanges.step spend_frame; decide)
    | split

theorem hubFailed_frame {cause : Nat} {s : State} : OnlyChanges [.kp, .pwr] s (hubFailed cause s) := by
  unfold hubFailed
  repeat' first
    | with_reducible exact .refl _ _
    | (with_reducible apply OnlyChanges.step alertOn_frame; decide)
    | (with_reducible apply OnlyChanges.step logEvent_frame; decide)
    | (with_reducible apply OnlyChanges.step onKp_frame; decide)

theorem hubStarted_frame {selfTestOk : Bool} {repaired : List Nat} {s : State} :
    OnlyChanges [.clk, .kp, .qci, .pwr] s (hubStarted selfTestOk repaired s) := by
  unfold hubStarted
  repeat' first
    | with_reducible exact .refl _ _
    | (with_reducible apply OnlyChanges.step alertOff_frame; decide)
    | (with_reducible apply OnlyChanges.step onKp_frame; decide)
    | (with_reducible apply OnlyChanges.step onPwr_frame; decide)
    | (with_reducible apply OnlyChanges.step onQci_frame; decide)
    | (with_reducible apply OnlyChanges.step spend_frame; decide)

theorem setLink_frame {l : Nat} {f : Link → Link} {s : State} : OnlyChanges [.lnk] s (State.setLink l f s) := onLnk_frame
theorem trainLink_frame {bad : List Nat} {n : Nat} {s : State} : OnlyChanges [.lnk] s (trainLink bad n s) := setLink_frame

theorem trainEngine_frame {bad : List Nat} {e : Nat} {s : State} : OnlyChanges [.net] s (trainEngine bad e s) := by
  unfold trainEngine
  repeat' first
    | with_reducible exact .refl _ _
    | (with_reducible apply OnlyChanges.step setEngine_frame; decide)
    | split

theorem startTransit_frame {b : Nat} {s : State} : OnlyChanges [.bnt] s (startTransit b s) := setBent_frame

theorem linksStage_frame {failed failedLanes : List Nat} {s : State} :
    OnlyChanges [.clk, .kp, .bnt, .lnk, .net] s (linksStage failed failedLanes s) := by
  unfold linksStage
  repeat' first
    | with_reducible exact .refl _ _
    | (with_reducible apply OnlyChanges.step spend_frame; decide)
    | (with_reducible apply OnlyChanges.step startTransit_frame; decide)
    | (with_reducible apply OnlyChanges.step toStage_frame; decide)
    | (with_reducible apply OnlyChanges.step trainEngine_frame; decide)
    | (with_reducible apply OnlyChanges.step trainLink_frame; decide)
    | (with_reducible apply OnlyChanges.fold; rotate_left; intros)

theorem enginesStage_frame {calFailed openPorts noModule : List Nat} {s : State} :
    OnlyChanges [.clk, .kp, .net] s (enginesStage calFailed openPorts noModule s) := by
  unfold enginesStage
  repeat' first
    | with_reducible exact .refl _ _
    | (with_reducible apply OnlyChanges.step lightLasers_frame; decide)
    | (with_reducible apply OnlyChanges.step setEngine_frame; decide)
    | (with_reducible apply OnlyChanges.step setPort_frame; decide)
    | (with_reducible apply OnlyChanges.step spend_frame; decide)
    | (with_reducible apply OnlyChanges.step toStage_frame; decide)
    | (with_reducible apply OnlyChanges.fold; rotate_left; intros)

theorem noteAbsent_frame {absent : List Nat} {s : State} : OnlyChanges [.bnt, .lnk] s (noteAbsent absent s) := by
  unfold noteAbsent
  repeat' first
    | with_reducible exact .refl _ _
    | (with_reducible apply OnlyChanges.step setBent_frame; decide)
    | (with_reducible apply OnlyChanges.step setLink_frame; decide)
    | (with_reducible apply OnlyChanges.fold; rotate_left; intros)

theorem openBoots_frame {s : State} : OnlyChanges [.net] s (openBoots s) := foldl_frame _ (fun _ _ => startBoot_frame) _ _

theorem stampBoot_frame {s : State} : OnlyChanges [.clk, .kp] s (stampBoot s) := by
  unfold stampBoot
  repeat' first
    | with_reducible exact .refl _ _
    | (with_reducible apply OnlyChanges.step onKp_frame; decide)
    | (with_reducible apply OnlyChanges.step spend_frame; decide)

theorem topologyStage_frame {absent : List Nat} {s : State} :
    OnlyChanges [.clk, .kp, .bnt, .lnk, .net, .pwr] s (topologyStage absent s) := by
  unfold topologyStage
  dsimp only
  repeat' first
    | with_reducible exact .refl _ _
    | (with_reducible apply OnlyChanges.step alertOn_frame; decide)
    | (with_reducible apply OnlyChanges.step noteAbsent_frame; decide)
    | (with_reducible apply OnlyChanges.step onKp_frame; decide)
    | (with_reducible apply OnlyChanges.step openBoots_frame; decide)
    | (with_reducible apply OnlyChanges.step stampBoot_frame; decide)
    | (with_reducible apply OnlyChanges.step toStage_frame; decide)
    | split

theorem countSelfTest_frame {s : State} : OnlyChanges [.bnt] s (countSelfTest s) := foldl_frame _ (fun _ _ => setBent_frame) _ _
theorem addAbsentLams_frame {l : List Nat} {s : State} : OnlyChanges [.bnt] s (addAbsentLams l s) :=
  foldl_frame _ (fun _ _ => setBent_frame) _ _

theorem keptOutcomes_frame {s : State} : OnlyChanges [.ecc, .bnt] s (keptOutcomes s) := by
  unfold keptOutcomes
  repeat' first
    | with_reducible exact .refl _ _
    | (with_reducible apply OnlyChanges.step addAbsentLams_frame; decide)
    | (with_reducible apply OnlyChanges.step onEcc_frame; decide)
    | split

theorem bankOutcome_frame {b : Nat} {o : MarginOutcome} {s : State} : OnlyChanges [.ecc] s (bankOutcome b o s) := onEcc_frame
theorem clearFindings_frame {b : Nat} {s : State} : OnlyChanges [.ecc] s (clearFindings b s) := onEcc_frame
theorem eccLog_frame {kind : Nat} {f : Finding} {syndrome : BitVec 16} {s : State} : OnlyChanges [.ecc] s (eccLog kind f syndrome s) :=
  onEcc_frame

theorem logRemap_frame {kind : Nat} {f : Finding} {sp : Nat} {s : State} : OnlyChanges [.kp, .ecc] s (logRemap kind f sp s) := by
  unfold logRemap
  repeat' first
    | with_reducible exact .refl _ _
    | (with_reducible apply OnlyChanges.step eccLog_frame; decide)
    | (with_reducible apply OnlyChanges.step logEvent_frame; decide)

theorem countCe_frame {f : Finding} {two : Bool} {s : State} : OnlyChanges [.ecc] s (countCe f two s) := onEcc_frame
theorem countPoison_frame {f : Finding} {s : State} : OnlyChanges [.ecc] s (countPoison f s) := onEcc_frame
theorem countUe_frame {f : Finding} {s : State} : OnlyChanges [.ecc] s (countUe f s) := onEcc_frame

theorem loseLine_frame {f : Finding} {s : State} : OnlyChanges [.joi, .mem] s (loseLine f s) := by
  unfold loseLine
  repeat' first
    | with_reducible exact .refl _ _
    | (with_reducible apply OnlyChanges.step onJoi_frame; decide)
    | (with_reducible apply OnlyChanges.step onMem_frame; decide)
    | split

theorem markUnit_frame {f : Finding} {v : Nat} {s : State} : OnlyChanges [.mem] s (markUnit f v s) := by
  unfold markUnit
  repeat' first
    | with_reducible exact .refl _ _
    | (with_reducible apply OnlyChanges.step onMem_frame; decide)
    | split

theorem addRemap_frame {f : Finding} {row sp : Nat} {hadUe : Bool} {s : State} : OnlyChanges [.kp, .ecc] s (addRemap f row sp hadUe s) := by
  unfold addRemap
  repeat' first
    | with_reducible exact .refl _ _
    | (with_reducible apply OnlyChanges.step logRemap_frame; decide)
    | (with_reducible apply OnlyChanges.step onKp_frame; decide)

theorem noteSourceUe_frame {f : Finding} {row : Nat} {s : State} : OnlyChanges [.kp] s (noteSourceUe f row s) := onKp_frame

theorem scheduleRemap_frame {f : Finding} {hadUe : Bool} {syndrome : BitVec 16} {s : State} :
    OnlyChanges [.kp, .ecc] s (scheduleRemap f hadUe syndrome s) := by
  unfold scheduleRemap
  repeat' first
    | with_reducible exact .refl _ _
    | (with_reducible apply OnlyChanges.step addRemap_frame; decide)
    | (with_reducible apply OnlyChanges.step eccLog_frame; decide)
    | (with_reducible apply OnlyChanges.step noteSourceUe_frame; decide)
    | (with_reducible apply OnlyChanges.step onEcc_frame; decide)
    | split

theorem noteCe2_frame {f : Finding} {syndrome : BitVec 16} {s : State} : OnlyChanges [.kp, .ecc] s (noteCe2 f syndrome s) := by
  unfold noteCe2
  dsimp only
  repeat' first
    | with_reducible exact .refl _ _
    | (with_reducible apply OnlyChanges.step onEcc_frame; decide)
    | (with_reducible apply OnlyChanges.step scheduleRemap_frame; decide)
    | split

theorem queueCe2_frame {f : Finding} {s : State} : OnlyChanges [.mem] s (queueCe2 f s) := by
  unfold queueCe2
  repeat' first
    | with_reducible exact .refl _ _
    | (with_reducible apply OnlyChanges.step onMem_frame; decide)
    | split

theorem queueWord_frame {f : Finding} {s : State} : OnlyChanges [.ecc] s (queueWord f s) := by
  unfold queueWord
  repeat' first
    | with_reducible exact .refl _ _
    | (with_reducible apply OnlyChanges.step onEcc_frame; decide)
    | split

theorem meet_frame {f : Finding} {s : State} : OnlyChanges [.clk, .kp, .joi, .mem, .ecc] s (meet f s) := by
  unfold meet
  dsimp only
  repeat' first
    | with_reducible exact .refl _ _
    | (with_reducible apply OnlyChanges.step countCe_frame; decide)
    | (with_reducible apply OnlyChanges.step countPoison_frame; decide)
    | (with_reducible apply OnlyChanges.step countUe_frame; decide)
    | (with_reducible apply OnlyChanges.step eccLog_frame; decide)
    | (with_reducible apply OnlyChanges.step logEvent_frame; decide)
    | (with_reducible apply OnlyChanges.step loseLine_frame; decide)
    | (with_reducible apply OnlyChanges.step markUnit_frame; decide)
    | (with_reducible apply OnlyChanges.step noteCe2_frame; decide)
    | (with_reducible apply OnlyChanges.step queueCe2_frame; decide)
    | (with_reducible apply OnlyChanges.step queueWord_frame; decide)
    | (with_reducible apply OnlyChanges.step scheduleRemap_frame; decide)
    | (with_reducible apply OnlyChanges.step spend_frame; decide)
    | split

theorem meetAll_frame {fs : List Finding} {s : State} : OnlyChanges [.clk, .kp, .joi, .mem, .ecc] s (meetAll fs s) :=
  foldl_frame _ (fun _ _ => meet_frame) _ _

theorem poisonRow_frame {joist bank row : Nat} {s : State} : OnlyChanges [.mem] s (poisonRow joist bank row s) := by
  unfold poisonRow
  repeat' first
    | with_reducible exact .refl _ _
    | (with_reducible apply OnlyChanges.step onMem_frame; decide)
    | split

theorem switchRow_frame {r : Remap} {s : State} : OnlyChanges [.mem] s (switchRow r s) := onMem_frame
theorem voidBank_frame {n j bank : Nat} {s : State} : OnlyChanges [.jig] s (voidBank n j bank s) := onJig_frame

theorem copyRow_frame {r : Remap} {found : List Finding} {s : State} :
    OnlyChanges [.clk, .kp, .jig, .joi, .mem, .ecc] s (copyRow r found s) := by
  unfold copyRow
  repeat' first
    | with_reducible exact .refl _ _
    | (with_reducible apply OnlyChanges.step logRemap_frame; decide)
    | (with_reducible apply OnlyChanges.step meetAll_frame; decide)
    | (with_reducible apply OnlyChanges.step onJoi_frame; decide)
    | (with_reducible apply OnlyChanges.step onKp_frame; decide)
    | (with_reducible apply OnlyChanges.step poisonRow_frame; decide)
    | (with_reducible apply OnlyChanges.step switchRow_frame; decide)
    | (with_reducible apply OnlyChanges.step voidBank_frame; decide)

theorem moveRemap_frame {r : Remap} {s : State} :
    OnlyChanges [.clk, .kp, .jig, .joi, .mem, .ecc] s (moveRemap r s).1 := by
  unfold moveRemap
  dsimp only
  repeat' first
    | with_reducible exact .refl _ _
    | (with_reducible apply OnlyChanges.step eccLog_frame; decide)
    | (with_reducible apply OnlyChanges.step logRemap_frame; decide)
    | (with_reducible apply OnlyChanges.step addRemap_frame; decide)
    | (with_reducible apply OnlyChanges.step onKp_frame; decide)
    | (with_reducible apply OnlyChanges.step onEcc_frame; decide)
    | split

theorem moveRemaps_frame {l : List Remap} {s : State} :
    OnlyChanges [.clk, .kp, .jig, .joi, .mem, .ecc] s (moveRemaps l s).1 := by
  unfold moveRemaps
  dsimp only
  repeat' first
    | with_reducible exact .refl _ _
    | (with_reducible apply OnlyChanges.step moveRemap_frame; decide)
    | (with_reducible apply OnlyChanges.step copyRow_frame; decide)
    | (with_reducible apply OnlyChanges.fold; rotate_left; intros)
    | (with_reducible apply OnlyChanges.foldPair; rotate_left; intros)
    | split

theorem retireJoist_frame {cause j : Nat} {s : State} : OnlyChanges [.kp] s (retireJoist cause j s) := by
  unfold retireJoist
  repeat' first
    | with_reducible exact .refl _ _
    | (with_reducible apply OnlyChanges.step onKp_frame; decide)
    | split

theorem zeroBent_frame {b : Nat} {s : State} : OnlyChanges [.mem] s (zeroBent b s) := onMem_frame

theorem marginDone_frame {b : Nat} {sweep : Sweep MarginOutcome} {s : State} :
    OnlyChanges [.clk, .kp, .jig, .joi, .mem, .ecc] s (marginDone b sweep s) := by
  unfold marginDone
  repeat' first
    | with_reducible exact .refl _ _
    | (with_reducible apply OnlyChanges.step bankOutcome_frame; decide)
    | (with_reducible apply OnlyChanges.step clearFindings_frame; decide)
    | (with_reducible apply OnlyChanges.step moveRemaps_frame; decide)
    | (with_reducible apply OnlyChanges.step onEcc_frame; decide)
    | (with_reducible apply OnlyChanges.step retireJoist_frame; decide)
    | (with_reducible apply OnlyChanges.step zeroBent_frame; decide)
    | (with_reducible apply OnlyChanges.fold; rotate_left; intros)

theorem testsStage_frame {selfTestFailed sliceFailed absentLams : List Nat} {margin : Sweep (Nat × MarginOutcome)} {s : State} :
    OnlyChanges [.clk, .kp, .jig, .joi, .mem, .ecc, .bnt] s (testsStage selfTestFailed sliceFailed absentLams margin s) := by
  unfold testsStage
  repeat' first
    | with_reducible exact .refl _ _
    | (with_reducible apply OnlyChanges.step addAbsentLams_frame; decide)
    | (with_reducible apply OnlyChanges.step countSelfTest_frame; decide)
    | (with_reducible apply OnlyChanges.step keptOutcomes_frame; decide)
    | (with_reducible apply OnlyChanges.step marginDone_frame; decide)
    | (with_reducible apply OnlyChanges.step retireJoist_frame; decide)
    | (with_reducible apply OnlyChanges.step toStage_frame; decide)
    | (with_reducible apply OnlyChanges.fold; rotate_left; intros)
    | split

theorem zeroStage_frame {s : State} : OnlyChanges [.kp, .mem] s (zeroStage s) := by
  unfold zeroStage
  repeat' first
    | with_reducible exact .refl _ _
    | (with_reducible apply OnlyChanges.step onKp_frame; decide)
    | (with_reducible apply OnlyChanges.step toStage_frame; decide)
    | (with_reducible apply OnlyChanges.step zeroBent_frame; decide)
    | (with_reducible apply OnlyChanges.fold; rotate_left; intros)
    | split

theorem bentOut_frame {b : Nat} {s : State} : OnlyChanges [.bnt] s (bentOut b s) := setBent_frame

theorem assignBent_frame {b : Nat} {s : State} : OnlyChanges [.bnt] s (assignBent b s) := by
  unfold assignBent
  dsimp only
  repeat' first
    | with_reducible exact .refl _ _
    | (with_reducible apply OnlyChanges.step bentOut_frame; decide)
    | (with_reducible apply OnlyChanges.step setBent_frame; decide)
    | split

theorem fixAssignment_frame {s : State} : OnlyChanges [.kp, .bnt] s (fixAssignment s) := by
  unfold fixAssignment
  repeat' first
    | with_reducible exact .refl _ _
    | (with_reducible apply OnlyChanges.step assignBent_frame; decide)
    | (with_reducible apply OnlyChanges.step onKp_frame; decide)
    | (with_reducible apply OnlyChanges.fold; rotate_left; intros)

theorem sendUcode_frame {b n : Nat} {j : Option Nat} {s : State} : OnlyChanges [.out] s (sendUcode b n j s) := by
  unfold sendUcode
  repeat' first
    | with_reducible exact .refl _ _
    | (with_reducible apply OnlyChanges.step send_frame; decide)
    | split

theorem resendUcode_frame {missing : List (Nat × BitVec 32)} {s : State} : OnlyChanges [.out] s (resendUcode missing s) := by
  unfold resendUcode
  repeat' first
    | with_reducible exact .refl _ _
    | (with_reducible apply OnlyChanges.step sendUcode_frame; decide)
    | (with_reducible apply OnlyChanges.fold; rotate_left; intros)

theorem retireUnloaded_frame {j : Nat} {s : State} : OnlyChanges [.kp] s (retireUnloaded j s) := by
  unfold retireUnloaded
  repeat' first
    | with_reducible exact .refl _ _
    | (with_reducible apply OnlyChanges.step logEvent_frame; decide)
    | (with_reducible apply OnlyChanges.step retireJoist_frame; decide)

theorem afterRound_frame {round : Nat} {missing : List (Nat × BitVec 32)} {s : State} :
    OnlyChanges [.kp, .bnt, .out] s (afterRound round missing s) := by
  unfold afterRound
  repeat' first
    | with_reducible exact .refl _ _
    | (with_reducible apply OnlyChanges.step fixAssignment_frame; decide)
    | (with_reducible apply OnlyChanges.step onKp_frame; decide)
    | (with_reducible apply OnlyChanges.step resendUcode_frame; decide)
    | (with_reducible apply OnlyChanges.step retireUnloaded_frame; decide)
    | (with_reducible apply OnlyChanges.fold; rotate_left; intros)
    | split

theorem loadJoist_frame {s : State} {j : Nat} {t : State} : OnlyChanges [.joi, .mem] t (loadJoist s j t) := by
  unfold loadJoist
  repeat' first
    | with_reducible exact .refl _ _
    | (with_reducible apply OnlyChanges.step onMem_frame; decide)
    | (with_reducible apply OnlyChanges.step setJoist_frame; decide)

theorem reportJoist_frame {s : State} {missed : List (Nat × BitVec 32)} {j : Nat} {t : State} :
    OnlyChanges [.joi, .mem] t (reportJoist s missed j t) := by
  unfold reportJoist
  dsimp only
  repeat' first
    | with_reducible exact .refl _ _
    | (with_reducible apply OnlyChanges.step loadJoist_frame; decide)
    | (with_reducible apply OnlyChanges.step setJoist_frame; decide)
    | split

theorem sendBents_frame {bents : List Nat} {s : State} : OnlyChanges [.out] s (sendBents bents s) := by
  unfold sendBents
  repeat' first
    | with_reducible exact .refl _ _
    | (with_reducible apply OnlyChanges.step sendUcode_frame; decide)
    | (with_reducible apply OnlyChanges.fold; rotate_left; intros)

theorem broadcastStage_frame {missed : List (Nat × BitVec 32)} {s : State} :
    OnlyChanges [.kp, .joi, .mem, .bnt, .out] s (broadcastStage missed s) := by
  unfold broadcastStage
  repeat' first
    | with_reducible exact .refl _ _
    | (with_reducible apply OnlyChanges.step afterRound_frame; decide)
    | (with_reducible apply OnlyChanges.step reportJoist_frame; decide)
    | (with_reducible apply OnlyChanges.step sendBents_frame; decide)
    | (with_reducible apply OnlyChanges.fold; rotate_left; intros)

theorem snapshot_frame {s : State} : OnlyChanges [.qci] s (snapshot s) := onQci_frame

theorem readyStage_frame {s : State} : OnlyChanges [.clk, .kp, .qci, .net] s (readyStage s) := by
  unfold readyStage
  repeat' first
    | with_reducible exact .refl _ _
    | (with_reducible apply OnlyChanges.step onKp_frame; decide)
    | (with_reducible apply OnlyChanges.step openBoots_frame; decide)
    | (with_reducible apply OnlyChanges.step snapshot_frame; decide)
    | (with_reducible apply OnlyChanges.step stampBoot_frame; decide)

theorem reloadFailed_frame {j : Nat} {s : State} : OnlyChanges [.kp, .joi, .bnt] s (reloadFailed j s) := by
  unfold reloadFailed
  dsimp only
  repeat' first
    | with_reducible exact .refl _ _
    | (with_reducible apply OnlyChanges.step bentOut_frame; decide)
    | (with_reducible apply OnlyChanges.step retireUnloaded_frame; decide)
    | (with_reducible apply OnlyChanges.step setJoist_frame; decide)
    | split

theorem reloadReport_frame {j : Nat} {missing : BitVec 32} {s : State} :
    OnlyChanges [.kp, .joi, .mem, .bnt, .out] s (reloadReport j missing s) := by
  unfold reloadReport
  dsimp only
  repeat' first
    | with_reducible exact .refl _ _
    | (with_reducible apply OnlyChanges.step loadJoist_frame; decide)
    | (with_reducible apply OnlyChanges.step reloadFailed_frame; decide)
    | (with_reducible apply OnlyChanges.step resendUcode_frame; decide)
    | (with_reducible apply OnlyChanges.step setJoist_frame; decide)
    | split

theorem clearDies_frame {rate : Nat} {s : State} :
    OnlyChanges [.cfg, .qci, .ten, .bay, .rack, .jig, .joi, .mem, .rfr, .ecc, .bnt, .lnk, .net, .thm, .pwr] s (clearDies rate s) := by
  intro p hp
  cases p <;> first | rfl | exact (hp (by decide)).elim

theorem holdDies_frame {rate : Nat} {s : State} :
    OnlyChanges [.kp, .cfg, .qci, .ten, .bay, .rack, .jig, .joi, .mem, .rfr, .ecc, .bnt, .lnk, .net, .thm, .pwr] s (holdDies rate s) := by
  unfold holdDies
  repeat' first
    | with_reducible exact .refl _ _
    | (with_reducible apply OnlyChanges.step clearDies_frame; decide)
    | (with_reducible apply OnlyChanges.step onKp_frame; decide)

theorem loseClock_frame {hubPll : Bool} {s : State} :
    OnlyChanges [.kp, .cfg, .qci, .ten, .bay, .rack, .jig, .joi, .mem, .rfr, .ecc, .bnt, .lnk, .net, .thm, .pwr] s (loseClock hubPll s) := by
  unfold loseClock
  repeat' first
    | with_reducible exact .refl _ _
    | (with_reducible apply OnlyChanges.step alertOn_frame; decide)
    | (with_reducible apply OnlyChanges.step holdDies_frame; decide)
    | (with_reducible apply OnlyChanges.step logEvent_frame; decide)
    | (with_reducible apply OnlyChanges.step onPwr_frame; decide)
    | split

theorem enterSelfRefresh_frame {f : BankRefresh → BankRefresh} {b : Nat} {s : State} :
    OnlyChanges [.rfr, .bnt] s (enterSelfRefresh f b s) := by
  unfold enterSelfRefresh
  repeat' first
    | with_reducible exact .refl _ _
    | (with_reducible apply OnlyChanges.step onRfr_frame; decide)
    | (with_reducible apply OnlyChanges.step setBent_frame; decide)

theorem ownRefresh_frame {b : Nat} {s : State} : OnlyChanges [.rfr, .bnt] s (ownRefresh b s) := enterSelfRefresh_frame
theorem stopBent_frame {rate b : Nat} {s : State} : OnlyChanges [.bnt] s (stopBent rate b s) := setBent_frame
theorem stopTransit_frame {b : Nat} {s : State} : OnlyChanges [.bnt] s (stopTransit b s) := setBent_frame

theorem loseSill_frame {b : Nat} {s : State} : OnlyChanges [.rfr, .bnt, .pwr] s (loseSill b s) := by
  unfold loseSill
  repeat' first
    | with_reducible exact .refl _ _
    | (with_reducible apply OnlyChanges.step onPwr_frame; decide)
    | (with_reducible apply OnlyChanges.step ownRefresh_frame; decide)
    | (with_reducible apply OnlyChanges.step setBent_frame; decide)
    | (with_reducible apply OnlyChanges.step stopBent_frame; decide)
    | (with_reducible apply OnlyChanges.step stopTransit_frame; decide)

theorem purgePkts_frame {gone : Nat → Bool} {s : State} : OnlyChanges [.net] s (purgePkts gone s) := onNet_frame

theorem dropSession_frame {i : Nat} {s : State} : OnlyChanges [.kp, .qci, .net] s (dropSession i s) := by
  unfold dropSession
  repeat' first
    | with_reducible exact .refl _ _
    | (with_reducible apply OnlyChanges.step onKp_frame; decide)
    | (with_reducible apply OnlyChanges.step onNet_frame; decide)
    | (with_reducible apply OnlyChanges.step onQci_frame; decide)
    | (with_reducible apply OnlyChanges.step purgePkts_frame; decide)
    | (with_reducible apply OnlyChanges.step putSession_frame; decide)

theorem removeQp_frame {key : Nat} {s : State} : OnlyChanges [.net] s (removeQp key s) := by
  unfold removeQp
  repeat' first
    | with_reducible exact .refl _ _
    | (with_reducible apply OnlyChanges.step purgePkts_frame; decide)
    | (with_reducible apply OnlyChanges.step putQp_frame; decide)

theorem dropBinding_frame {t : Nat} {s : State} : OnlyChanges [.net] s (dropBinding t s) := by
  unfold dropBinding
  repeat' first
    | with_reducible exact .refl _ _
    | (with_reducible apply OnlyChanges.step putBinding_frame; decide)
    | (with_reducible apply OnlyChanges.step removeQp_frame; decide)
    | (with_reducible apply OnlyChanges.fold; rotate_left; intros)
    | split

theorem abandon_frame {session seq : Nat} {s : State} : OnlyChanges [.cfg, .net] s (abandon session seq s) := by
  unfold abandon
  repeat' first
    | with_reducible exact .refl _ _
    | (with_reducible apply OnlyChanges.step dropBinding_frame; decide)
    | (with_reducible apply OnlyChanges.step onCfg_frame; decide)
    | (with_reducible apply OnlyChanges.fold; rotate_left; intros)

theorem keepCopies_frame {x : Step} {s : State} : OnlyChanges [.jig] s (keepCopies x s) := onJig_frame

theorem writeAll_frame {y : Bay} {a : Nat} {data : List Byte} {js : List Nat} {s : State} :
    OnlyChanges [.joi, .mem] s (writeAll y a data js s) := by
  unfold writeAll
  repeat' first
    | with_reducible exact .refl _ _
    | (with_reducible apply OnlyChanges.step onMem_frame; decide)
    | (with_reducible apply OnlyChanges.step setJoist_frame; decide)
    | (with_reducible apply OnlyChanges.fold; rotate_left; intros)

theorem putRecord_frame {q : Nat} {r : SeqRec} {s : State} : OnlyChanges [.bay, .rack, .joi, .mem] s (putRecord q r s) := by
  unfold putRecord
  repeat' first
    | with_reducible exact .refl _ _
    | (with_reducible apply OnlyChanges.step putSeq_frame; decide)
    | (with_reducible apply OnlyChanges.step setBay_frame; decide)
    | (with_reducible apply OnlyChanges.step writeAll_frame; decide)
    | split

theorem onOwner_frame {bay p : Nat} {f : Nat → Nat} {s : State} : OnlyChanges [.rack] s (onOwner bay p f s) := onRack_frame
theorem releasePages_frame {bay : Nat} {ps : List Nat} {s : State} : OnlyChanges [.rack] s (releasePages bay ps s) :=
  foldl_frame _ (fun _ _ => onOwner_frame) _ _

theorem dropGrant_frame {x : Step} {s : State} : OnlyChanges [.bay, .rack, .jig, .joi, .mem] s (dropGrant x s) := by
  unfold dropGrant
  dsimp only
  repeat' first
    | with_reducible exact .refl _ _
    | (with_reducible apply OnlyChanges.step keepCopies_frame; decide)
    | (with_reducible apply OnlyChanges.step putRecord_frame; decide)
    | (with_reducible apply OnlyChanges.step releasePages_frame; decide)
    | (with_reducible apply OnlyChanges.fold; rotate_left; intros)
    | split

theorem dropHeld_frame {bay id : Nat} {s : State} : OnlyChanges [.net] s (dropHeld bay id s) := onNet_frame

theorem dropStep_frame {id : Nat} {s : State} : OnlyChanges [.bay, .jig, .net] s (dropStep id s) := by
  unfold dropStep
  repeat' first
    | with_reducible exact .refl _ _
    | (with_reducible apply OnlyChanges.step dropHeld_frame; decide)
    | (with_reducible apply OnlyChanges.step onJig_frame; decide)
    | (with_reducible apply OnlyChanges.step setBay_frame; decide)
    | split

theorem sendObject_frame {cx : Cmd} {x : Session} {isRecord : Bool} {port key va : Nat} {data : List Byte} {s : State} :
    OnlyChanges [.net, .out] s (sendObject cx x isRecord port key va data s) := transmitAll_frame

theorem writeRecord_frame {cx : Cmd} {op : Nat} {v : Verdict} {s : State} : OnlyChanges [.qci, .net, .out] s (writeRecord cx op v s) := by
  unfold writeRecord
  dsimp only
  repeat' first
    | with_reducible exact .refl _ _
    | (with_reducible apply OnlyChanges.step putSession_frame; decide)
    | (with_reducible apply OnlyChanges.step sendObject_frame; decide)
    | (with_reducible apply OnlyChanges.step send_frame; decide)
    | split

theorem post_frame {cx : Cmd} {op : Nat} {v : Verdict} {s : State} : OnlyChanges [.qci, .net, .out] s (post cx op v s) := by
  unfold post
  dsimp only
  repeat' first
    | with_reducible exact .refl _ _
    | (with_reducible apply OnlyChanges.step onQci_frame; decide)
    | (with_reducible apply OnlyChanges.step writeRecord_frame; decide)
    | split

theorem cancelOne_frame {status : Status} {x : Step} {s : State} :
    OnlyChanges [.qci, .bay, .rack, .jig, .joi, .mem, .net, .out] s (cancelOne status x s) := by
  unfold cancelOne
  repeat' first
    | with_reducible exact .refl _ _
    | (with_reducible apply OnlyChanges.step dropGrant_frame; decide)
    | (with_reducible apply OnlyChanges.step dropStep_frame; decide)
    | (with_reducible apply OnlyChanges.step post_frame; decide)
    | split

theorem endWork_frame {i keepSeq : Nat} {s : State} :
    OnlyChanges [.cfg, .qci, .bay, .rack, .jig, .joi, .mem, .net, .out] s (endWork i keepSeq s) := by
  unfold endWork
  repeat' first
    | with_reducible exact .refl _ _
    | (with_reducible apply OnlyChanges.step abandon_frame; decide)
    | (with_reducible apply OnlyChanges.step cancelOne_frame; decide)
    | (with_reducible apply OnlyChanges.step post_frame; decide)
    | (with_reducible apply OnlyChanges.fold; rotate_left; intros)

theorem endSession_frame {i keepSeq : Nat} {s : State} :
    OnlyChanges [.kp, .cfg, .qci, .bay, .rack, .jig, .joi, .mem, .net, .out] s (endSession i keepSeq s) := by
  unfold endSession
  repeat' first
    | with_reducible exact .refl _ _
    | (with_reducible apply OnlyChanges.step dropSession_frame; decide)
    | (with_reducible apply OnlyChanges.step endWork_frame; decide)

theorem closeLast_frame {cx : Cmd} {s : State} :
    OnlyChanges [.kp, .cfg, .qci, .bay, .rack, .jig, .joi, .mem, .net, .out] s (closeLast cx s) := by
  unfold closeLast
  repeat' first
    | with_reducible exact .refl _ _
    | (with_reducible apply OnlyChanges.step endSession_frame; decide)
    | split

theorem finish_frame {cx : Cmd} {op : Nat} {v : Verdict} {s : State} :
    OnlyChanges [.kp, .cfg, .qci, .bay, .rack, .jig, .joi, .mem, .net, .out] s (finish cx op v s) := by
  unfold finish
  repeat' first
    | with_reducible exact .refl _ _
    | (with_reducible apply OnlyChanges.step closeLast_frame; decide)
    | (with_reducible apply OnlyChanges.step post_frame; decide)

theorem unpinPages_frame {bay : Nat} {ps : List Nat} {s : State} : OnlyChanges [.rack] s (unpinPages bay ps s) :=
  foldl_frame _ (fun _ _ => onPin_frame) _ _
theorem dropPins_frame {x : Step} {s : State} : OnlyChanges [.rack] s (dropPins x s) := unpinPages_frame

theorem freeClosed_frame {x : Step} {s : State} : OnlyChanges [.rack] s (freeClosed x s) := by
  unfold freeClosed
  repeat' first
    | with_reducible exact .refl _ _
    | (with_reducible apply OnlyChanges.step putSeq_frame; decide)
    | (with_reducible apply OnlyChanges.fold; rotate_left; intros)
    | split

theorem idleJoists_frame {js : List Nat} {s : State} : OnlyChanges [.joi] s (idleJoists js s) := onJoi_frame

theorem stopStep_frame {x : Step} {s : State} : OnlyChanges [.bay, .rack, .jig, .joi, .mem, .net] s (stopStep x s) := by
  unfold stopStep
  repeat' first
    | with_reducible exact .refl _ _
    | (with_reducible apply OnlyChanges.step dropGrant_frame; decide)
    | (with_reducible apply OnlyChanges.step dropPins_frame; decide)
    | (with_reducible apply OnlyChanges.step dropStep_frame; decide)
    | (with_reducible apply OnlyChanges.step freeClosed_frame; decide)
    | (with_reducible apply OnlyChanges.step idleJoists_frame; decide)
    | (with_reducible apply OnlyChanges.step setBay_frame; decide)

theorem haltStep_frame {status : Status} {x : Step} {s : State} :
    OnlyChanges [.kp, .cfg, .qci, .bay, .rack, .jig, .joi, .mem, .net, .out] s (haltStep status x s) := by
  unfold haltStep
  repeat' first
    | with_reducible exact .refl _ _
    | (with_reducible apply OnlyChanges.step finish_frame; decide)
    | (with_reducible apply OnlyChanges.step stopStep_frame; decide)

theorem cancelStep_frame {status : Status} {x : Step} {s : State} :
    OnlyChanges [.kp, .cfg, .qci, .bay, .rack, .jig, .joi, .mem, .net, .out] s (cancelStep status x s) := by
  unfold cancelStep
  repeat' first
    | with_reducible exact .refl _ _
    | (with_reducible apply OnlyChanges.step cancelOne_frame; decide)
    | (with_reducible apply OnlyChanges.step closeLast_frame; decide)

theorem cancelWaiting_frame {status : Status} {bay : Nat} {s : State} :
    OnlyChanges [.kp, .cfg, .qci, .bay, .rack, .jig, .joi, .mem, .net, .out] s (cancelWaiting status bay s) :=
  foldl_frame _ (fun _ _ => cancelStep_frame) _ _

theorem copyPage_frame {y : Bay} {src dst : Nat} {js : List Nat} {s : State} : OnlyChanges [.joi, .mem] s (copyPage y src dst js s) := by
  unfold copyPage
  repeat' first
    | with_reducible exact .refl _ _
    | (with_reducible apply OnlyChanges.step onJoi_frame; decide)
    | (with_reducible apply OnlyChanges.step onMem_frame; decide)
    | (with_reducible apply OnlyChanges.step setJoist_frame; decide)
    | (with_reducible apply OnlyChanges.fold; rotate_left; intros)

theorem meetShared_frame {l : List Finding} {s : State} : OnlyChanges [.clk, .kp, .jig, .joi, .mem, .ecc] s (meetShared l s) := by
  unfold meetShared
  repeat' first
    | with_reducible exact .refl _ _
    | (with_reducible apply OnlyChanges.step meetAll_frame; decide)
    | (with_reducible apply OnlyChanges.step voidBank_frame; decide)
    | (with_reducible apply OnlyChanges.fold; rotate_left; intros)

theorem copyMeeting_frame {y : Bay} {src dst : Nat} {found : List Finding} {s : State} :
    OnlyChanges [.clk, .kp, .jig, .joi, .mem, .ecc] s (copyMeeting y src dst found s) := by
  unfold copyMeeting
  repeat' first
    | with_reducible exact .refl _ _
    | (with_reducible apply OnlyChanges.step copyPage_frame; decide)
    | (with_reducible apply OnlyChanges.step meetShared_frame; decide)

theorem dropOrphans_frame {bay : Nat} {s : State} : OnlyChanges [.jig] s (dropOrphans bay s) := onJig_frame

theorem endOrphans_frame {bay : Nat} {s : State} : OnlyChanges [.clk, .kp, .jig, .joi, .mem, .ecc] s (endOrphans bay s) := by
  unfold endOrphans
  repeat' first
    | with_reducible exact .refl _ _
    | (with_reducible apply OnlyChanges.step copyMeeting_frame; decide)
    | (with_reducible apply OnlyChanges.step dropOrphans_frame; decide)
    | (with_reducible apply OnlyChanges.fold; rotate_left; intros)
    | split

theorem buryKeys_frame {bay : Nat} {y : Bay} {s : State} : OnlyChanges [.bay] s (buryKeys bay y s) := onBay_frame
theorem dropPages_frame {r : SeqRec} {s : State} : OnlyChanges [.rack] s (dropPages r s) := releasePages_frame

theorem freeSeq_frame {q : Nat} {r : SeqRec} {s : State} : OnlyChanges [.bay, .rack, .joi, .mem] s (freeSeq q r s) := by
  unfold freeSeq
  repeat' first
    | with_reducible exact .refl _ _
    | (with_reducible apply OnlyChanges.step putRecord_frame; decide)
    | (with_reducible apply OnlyChanges.step putSeq_frame; decide)

theorem closeSeqs_frame {bay : Nat} {s : State} : OnlyChanges [.bay, .rack, .joi, .mem] s (closeSeqs bay s) := by
  unfold closeSeqs
  repeat' first
    | with_reducible exact .refl _ _
    | (with_reducible apply OnlyChanges.step dropPages_frame; decide)
    | (with_reducible apply OnlyChanges.step freeSeq_frame; decide)
    | (with_reducible apply OnlyChanges.fold; rotate_left; intros)

theorem dropSlices_frame {bay : Nat} {s : State} : OnlyChanges [.bay] s (dropSlices bay s) := onBay_frame
theorem retireKeys_frame {bay : Nat} {y : Bay} {s : State} : OnlyChanges [.bay] s (retireKeys bay y s) := onBay_frame

theorem freeBay_frame {bay : Nat} {s : State} : OnlyChanges [.cfg, .bay, .rack, .jig, .joi, .mem] s (freeBay bay s) := by
  unfold freeBay
  repeat' first
    | with_reducible exact .refl _ _
    | (with_reducible apply OnlyChanges.step buryKeys_frame; decide)
    | (with_reducible apply OnlyChanges.step closeSeqs_frame; decide)
    | (with_reducible apply OnlyChanges.step dropOrphans_frame; decide)
    | (with_reducible apply OnlyChanges.step dropSlices_frame; decide)
    | (with_reducible apply OnlyChanges.step onCfg_frame; decide)
    | (with_reducible apply OnlyChanges.step onJoi_frame; decide)
    | (with_reducible apply OnlyChanges.step onRack_frame; decide)
    | (with_reducible apply OnlyChanges.step putBay_frame; decide)
    | (with_reducible apply OnlyChanges.step retireKeys_frame; decide)
    | split

theorem releaseBay_frame {bay : Nat} {s : State} :
    OnlyChanges [.clk, .kp, .cfg, .qci, .bay, .rack, .jig, .joi, .mem, .ecc, .net, .out] s (releaseBay bay s) := by
  unfold releaseBay
  repeat' first
    | with_reducible exact .refl _ _
    | (with_reducible apply OnlyChanges.step cancelWaiting_frame; decide)
    | (with_reducible apply OnlyChanges.step endOrphans_frame; decide)
    | (with_reducible apply OnlyChanges.step freeBay_frame; decide)

theorem abandonBay_frame {bay : Nat} {s : State} :
    OnlyChanges [.clk, .kp, .cfg, .qci, .bay, .rack, .jig, .joi, .mem, .ecc, .net, .out] s (abandonBay bay s) := by
  unfold abandonBay
  repeat' first
    | with_reducible exact .refl _ _
    | (with_reducible apply OnlyChanges.step haltStep_frame; decide)
    | (with_reducible apply OnlyChanges.step releaseBay_frame; decide)
    | split

theorem giveUpSill_frame {b : Nat} {s : State} :
    OnlyChanges [.clk, .kp, .cfg, .qci, .bay, .rack, .jig, .joi, .mem, .ecc, .bnt, .net, .out] s (giveUpSill b s) := by
  unfold giveUpSill
  repeat' first
    | with_reducible exact .refl _ _
    | (with_reducible apply OnlyChanges.step abandonBay_frame; decide)
    | (with_reducible apply OnlyChanges.step bentOut_frame; decide)
    | (with_reducible apply OnlyChanges.fold; rotate_left; intros)

theorem resumeRefresh_frame {b : Nat} {s : State} : OnlyChanges [.bnt] s (resumeRefresh b s) := setBent_frame
theorem startBent_frame {b : Nat} {s : State} : OnlyChanges [.bnt] s (startBent b s) := setBent_frame

theorem relockSill_frame {b : Nat} {s : State} : OnlyChanges [.bnt, .pwr] s (relockSill b s) := by
  unfold relockSill
  dsimp only
  repeat' first
    | with_reducible exact .refl _ _
    | (with_reducible apply OnlyChanges.step requestReset_frame; decide)
    | (with_reducible apply OnlyChanges.step resumeRefresh_frame; decide)
    | (with_reducible apply OnlyChanges.step startBent_frame; decide)
    | (with_reducible apply OnlyChanges.step startTransit_frame; decide)
    | split

theorem powerOff_frame {s : State} :
    OnlyChanges [.kp, .cfg, .qci, .ten, .bay, .rack, .jig, .joi, .mem, .rfr, .ecc, .bnt, .lnk, .net, .thm, .pwr] s (powerOff s) := by
  unfold powerOff
  repeat' first
    | with_reducible exact .refl _ _
    | (with_reducible apply OnlyChanges.step holdDies_frame; decide)
    | (with_reducible apply OnlyChanges.step onBnt_frame; decide)
    | (with_reducible apply OnlyChanges.step onMem_frame; decide)
    | (with_reducible apply OnlyChanges.step onPwr_frame; decide)

theorem adoptNow_frame {bay epoch : Nat} {l : List Setting} {s : State} :
    OnlyChanges [.bay, .joi, .rfr, .bnt] s (adoptNow bay epoch l s) := by
  unfold adoptNow
  repeat' first
    | with_reducible exact .refl _ _
    | (with_reducible apply OnlyChanges.step setBay_frame; decide)
    | (with_reducible apply OnlyChanges.step setBent_frame; decide)
    | (with_reducible apply OnlyChanges.step syncPegs_frame; decide)
    | (with_reducible apply OnlyChanges.fold; rotate_left; intros)

theorem scheduleBay_frame {epoch : Nat} {l : List Setting} {bay : Nat} {s : State} :
    OnlyChanges [.cfg, .bay, .joi, .rfr, .bnt] s (scheduleBay epoch l bay s) := by
  unfold scheduleBay
  repeat' first
    | with_reducible exact .refl _ _
    | (with_reducible apply OnlyChanges.step adoptNow_frame; decide)
    | (with_reducible apply OnlyChanges.step onCfg_frame; decide)
    | split

theorem adoptFree_frame {l : List Setting} {s : State} : OnlyChanges [.joi, .rfr, .bnt] s (adoptFree l s) := by
  unfold adoptFree
  repeat' first
    | with_reducible exact .refl _ _
    | (with_reducible apply OnlyChanges.step setBent_frame; decide)
    | (with_reducible apply OnlyChanges.step syncPegs_frame; decide)
    | (with_reducible apply OnlyChanges.fold; rotate_left; intros)

theorem keepDscp_frame {l : List Setting} {s : State} : OnlyChanges [.bay] s (keepDscp l s) := foldl_frame _ (fun _ _ => setBay_frame) _ _
theorem putSettings_frame {l : List Setting} {s : State} : OnlyChanges [.clk, .cfg, .bnt, .net] s (putSettings l s) :=
  foldl_frame _ (fun _ _ => putSetting_frame) _ _

theorem applySet_frame {l : List Setting} {s : State} : OnlyChanges [.clk, .cfg, .bay, .jig, .joi, .rfr, .bnt, .net] s (applySet l s) := by
  unfold applySet
  repeat' first
    | with_reducible exact .refl _ _
    | (with_reducible apply OnlyChanges.step adoptFree_frame; decide)
    | (with_reducible apply OnlyChanges.step keepDscp_frame; decide)
    | (with_reducible apply OnlyChanges.step noteSteps_frame; decide)
    | (with_reducible apply OnlyChanges.step onCfg_frame; decide)
    | (with_reducible apply OnlyChanges.step putSettings_frame; decide)
    | (with_reducible apply OnlyChanges.step scheduleBay_frame; decide)
    | (with_reducible apply OnlyChanges.step setBay_frame; decide)
    | (with_reducible apply OnlyChanges.fold; rotate_left; intros)

theorem discardArrival_frame {bay : Nat} {a : Arrival} {s : State} : OnlyChanges [.net] s (discardArrival bay a s) := onNet_frame

theorem setActive_frame {step ix : Nat} {f : Active → Active} {s : State} : OnlyChanges [.clk, .jig, .bnt] s (setActive step ix f s) := by
  unfold setActive
  repeat' first
    | with_reducible exact .refl _ _
    | (with_reducible apply OnlyChanges.step setStep_frame; decide)

theorem endLevelWait_frame {r : Run} {s : State} : OnlyChanges [.jig] s (endLevelWait r s) := setStep_frame
theorem storeBench_frame {j a : Nat} {data : List Byte} {poison : Bool} {s : State} :
    OnlyChanges [.mem] s (storeBench j a data poison s) := onMem_frame

theorem writePieces_frame {j dst : Nat} {l : List Piece} {s : State} : OnlyChanges [.mem] s (writePieces j dst l s) := by
  unfold writePieces
  repeat' first
    | with_reducible exact .refl _ _
    | (with_reducible apply OnlyChanges.step storeBench_frame; decide)
    | (with_reducible apply OnlyChanges.fold; rotate_left; intros)
    | split

theorem levelTimeout_frame {r : Run} {s : State} : OnlyChanges [.clk, .jig, .joi, .bnt] s (levelTimeout r s) := by
  unfold levelTimeout
  repeat' first
    | with_reducible exact .refl _ _
    | (with_reducible apply OnlyChanges.step endLevelWait_frame; decide)
    | (with_reducible apply OnlyChanges.step setActive_frame; decide)
    | (with_reducible apply OnlyChanges.step setJoist_frame; decide)

theorem answerEcho_frame {port ip id : Nat} {s : State} : OnlyChanges [.net, .out] s (answerEcho port ip id s) := by
  unfold answerEcho
  dsimp only
  repeat' first
    | with_reducible exact .refl _ _
    | (with_reducible apply OnlyChanges.step sendFrame_frame; decide)
    | (with_reducible apply OnlyChanges.step setPort_frame; decide)
    | split

theorem noteNeighbour_frame {port : Nat} {f : LldpFrame} {s : State} : OnlyChanges [.net] s (noteNeighbour port f s) := setPort_frame

theorem setPeer_frame {t k : Nat} {f : Peer → Peer} {s : State} : OnlyChanges [.net] s (setPeer t k f s) := by
  unfold setPeer
  repeat' first
    | with_reducible exact .refl _ _
    | (with_reducible apply OnlyChanges.step putJob_frame; decide)
    | split

theorem settlePosting_frame {s : State} : OnlyChanges [.clk, .jig, .bnt] s (settlePosting s) := by
  unfold settlePosting
  repeat' first
    | with_reducible exact .refl _ _
    | (with_reducible apply OnlyChanges.step onJig_frame; decide)

theorem failPosting_frame {t k : Nat} {st : Status} {refused : List (Nat × Nat × Nat)} {s : State} :
    OnlyChanges [.clk, .jig, .bnt, .net] s (failPosting t k st refused s) := by
  unfold failPosting
  repeat' first
    | with_reducible exact .refl _ _
    | (with_reducible apply OnlyChanges.step onJig_frame; decide)
    | (with_reducible apply OnlyChanges.step setPeer_frame; decide)
    | (with_reducible apply OnlyChanges.step settlePosting_frame; decide)

theorem noteHeld_frame {t k : Nat} {s : State} : OnlyChanges [.jig, .net] s (noteHeld t k s) := by
  unfold noteHeld
  dsimp only
  repeat' first
    | with_reducible exact .refl _ _
    | (with_reducible apply OnlyChanges.step onJig_frame; decide)
    | (with_reducible apply OnlyChanges.step setPeer_frame; decide)
    | split

theorem sendHeld_frame {t k n : Nat} {s : State} : OnlyChanges [.net, .out] s (sendHeld t k n s) := by
  induction n generalizing s with
  | zero => exact .refl _ _
  | succ n ih =>
    unfold sendHeld
    repeat' first
      | with_reducible exact .refl _ _
      | (with_reducible apply OnlyChanges.step ih; decide)
      | (with_reducible apply OnlyChanges.step transmit_frame; decide)
      | (with_reducible apply OnlyChanges.step setPeer_frame; decide)
      | split

theorem flushPeer_frame {t k n : Nat} {s : State} : OnlyChanges [.jig, .net, .out] s (flushPeer t k n s) := by
  unfold flushPeer
  repeat' first
    | with_reducible exact .refl _ _
    | (with_reducible apply OnlyChanges.step noteHeld_frame; decide)
    | (with_reducible apply OnlyChanges.step sendHeld_frame; decide)

theorem flushWaiting_frame {s : State} : OnlyChanges [.net, .out] s (flushWaiting s) := by
  unfold flushWaiting
  repeat' first
    | with_reducible exact .refl _ _
    | (with_reducible apply OnlyChanges.step onNet_frame; decide)
    | (with_reducible apply OnlyChanges.step transmit_frame; decide)
    | (with_reducible apply OnlyChanges.fold; rotate_left; intros)

theorem flushAll_frame {s : State} : OnlyChanges [.clk, .jig, .bnt, .net, .out] s (flushAll s) := by
  unfold flushAll
  repeat' first
    | with_reducible exact .refl _ _
    | (with_reducible apply OnlyChanges.step flushPeer_frame; decide)
    | (with_reducible apply OnlyChanges.step flushWaiting_frame; decide)
    | (with_reducible apply OnlyChanges.step settlePosting_frame; decide)
    | (with_reducible apply OnlyChanges.fold; rotate_left; intros)

theorem loseRecord_frame {p : TxPkt} {s : State} : OnlyChanges [.qci] s (loseRecord p s) := by
  unfold loseRecord
  repeat' first
    | with_reducible exact .refl _ _
    | (with_reducible apply OnlyChanges.step setSession_frame; decide)
    | split

theorem setQp_frame {q : Nat} {f : Qp → Qp} {s : State} : OnlyChanges [.net] s (State.setQp q f s) := onNet_frame
theorem qpError_frame {key : Nat} {e : QpErr} {s : State} : OnlyChanges [.net] s (qpError key e s) := setQp_frame

theorem failQp_frame {key : Nat} {e : QpErr} {steps : List (Nat × Nat × Nat)} {s : State} :
    OnlyChanges [.clk, .qci, .jig, .bnt, .net, .out] s (failQp key e steps s) := by
  unfold failQp
  dsimp only
  repeat' first
    | with_reducible exact .refl _ _
    | (with_reducible apply OnlyChanges.step failPosting_frame; decide)
    | (with_reducible apply OnlyChanges.step flushAll_frame; decide)
    | (with_reducible apply OnlyChanges.step loseRecord_frame; decide)
    | (with_reducible apply OnlyChanges.step purgePkts_frame; decide)
    | (with_reducible apply OnlyChanges.step qpError_frame; decide)
    | (with_reducible apply OnlyChanges.fold; rotate_left; intros)
    | split

theorem compareBound_frame {port : Nat} {s : State} : OnlyChanges [.clk, .qci, .jig, .bnt, .net, .out] s (compareBound port s) := by
  unfold compareBound
  dsimp only
  repeat' first
    | with_reducible exact .refl _ _
    | (with_reducible apply OnlyChanges.step failQp_frame; decide)
    | (with_reducible apply OnlyChanges.step setPort_frame; decide)
    | (with_reducible apply OnlyChanges.fold; rotate_left; intros)
    | split

theorem askAll_frame {port : Nat} {s : State} : OnlyChanges [.net, .out] s (askAll port s) := foldl_frame _ (fun _ _ => sendFrame_frame) _ _

theorem sendReturn_frame {t k : Nat} {s : State} : OnlyChanges [.net, .out] s (sendReturn t k s) := by
  unfold sendReturn
  repeat' first
    | with_reducible exact .refl _ _
    | (with_reducible apply OnlyChanges.step setPeer_frame; decide)
    | (with_reducible apply OnlyChanges.step transmit_frame; decide)
    | split

theorem sendReturns_frame {port : Nat} {s : State} : OnlyChanges [.net, .out] s (sendReturns port s) := by
  unfold sendReturns
  repeat' first
    | with_reducible exact .refl _ _
    | (with_reducible apply OnlyChanges.step sendReturn_frame; decide)
    | (with_reducible apply OnlyChanges.fold; rotate_left; intros)
    | split

theorem linkUpAt_frame {port : Nat} {s : State} : OnlyChanges [.net, .out] s (linkUpAt port s) := by
  unfold linkUpAt
  repeat' first
    | with_reducible exact .refl _ _
    | (with_reducible apply OnlyChanges.step askAll_frame; decide)
    | (with_reducible apply OnlyChanges.step sendFrame_frame; decide)
    | (with_reducible apply OnlyChanges.step sendReturns_frame; decide)
    | (with_reducible apply OnlyChanges.step setPort_frame; decide)
    | (with_reducible apply OnlyChanges.fold; rotate_left; intros)

theorem settleAwaits_frame {bay : Nat} {s : State} : OnlyChanges [.jig] s (settleAwaits bay s) := by
  unfold settleAwaits
  repeat' first
    | with_reducible exact .refl _ _
    | (with_reducible apply OnlyChanges.step setStep_frame; decide)
    | split

theorem closeTransfer_frame {bay w imm : Nat} {s : State} : OnlyChanges [.bay, .jig, .net] s (closeTransfer bay w imm s) := by
  unfold closeTransfer
  dsimp only
  repeat' first
    | with_reducible exact .refl _ _
    | (with_reducible apply OnlyChanges.step onNet_frame; decide)
    | (with_reducible apply OnlyChanges.step setBay_frame; decide)
    | (with_reducible apply OnlyChanges.step settleAwaits_frame; decide)
    | split

theorem storeImage_frame {off : Nat} {data : List Byte} {s : State} : OnlyChanges [.kp] s (storeImage off data s) := onKp_frame
theorem commitImage_frame {s : State} : OnlyChanges [.kp] s (commitImage s) := onKp_frame
theorem ownPages_frame {bay : Nat} {ps : List Nat} {s : State} : OnlyChanges [.rack] s (ownPages bay ps s) :=
  foldl_frame _ (fun _ _ => onOwner_frame) _ _

theorem applyPlan_frame {x : Step} {pl : Plan} {staging : List Nat} {s : State} :
    OnlyChanges [.bay, .rack, .jig, .joi, .mem] s (applyPlan x pl staging s) := by
  unfold applyPlan
  dsimp only
  repeat' first
    | with_reducible exact .refl _ _
    | (with_reducible apply OnlyChanges.step onOwner_frame; decide)
    | (with_reducible apply OnlyChanges.step ownPages_frame; decide)
    | (with_reducible apply OnlyChanges.step putRecord_frame; decide)
    | (with_reducible apply OnlyChanges.step setStep_frame; decide)
    | (with_reducible apply OnlyChanges.fold; rotate_left; intros)
    | split

theorem buryKey_frame {key : Nat} {s : State} : OnlyChanges [.bay] s (buryKey key s) := onBay_frame
theorem buryLanding_frame {bay : Nat} {y : Bay} {s : State} : OnlyChanges [.bay] s (buryLanding bay y s) :=
  foldl_frame _ (fun _ _ => buryKey_frame) _ _

theorem forecast_frame {boundary : Bool} {s : State} : OnlyChanges [.clk, .jig, .joi, .rfr, .bnt, .thm] s (forecast boundary s) := by
  unfold forecast
  repeat' first
    | with_reducible exact .refl _ _
    | (with_reducible apply OnlyChanges.step noteSteps_frame; decide)
    | (with_reducible apply OnlyChanges.step onThm_frame; decide)
    | (with_reducible apply OnlyChanges.step spend_frame; decide)
    | (with_reducible apply OnlyChanges.step syncPegs_frame; decide)

theorem ungate_frame {bay : Nat} {s : State} : OnlyChanges [.bay] s (ungate bay s) := setBay_frame

theorem noteLack_frame {x : Step} {s : State} : OnlyChanges [.bay, .jig] s (noteLack x s) := by
  unfold noteLack
  repeat' first
    | with_reducible exact .refl _ _
    | (with_reducible apply OnlyChanges.step setBay_frame; decide)
    | (with_reducible apply OnlyChanges.step setStep_frame; decide)

theorem copyDone_frame {read : PageRead} {y : Bay} {x : Step} {s : State} :
    OnlyChanges [.clk, .kp, .jig, .joi, .mem, .ecc] s (copyDone read y x s) := by
  unfold copyDone
  repeat' first
    | with_reducible exact .refl _ _
    | (with_reducible apply OnlyChanges.step copyMeeting_frame; decide)
    | (with_reducible apply OnlyChanges.step setStep_frame; decide)
    | (with_reducible apply OnlyChanges.fold; rotate_left; intros)

theorem orphanDone_frame {bay : Nat} {read : PageRead} {y : Bay} {s : State} :
    OnlyChanges [.clk, .kp, .jig, .joi, .mem, .ecc] s (orphanDone bay read y s) := by
  unfold orphanDone
  repeat' first
    | with_reducible exact .refl _ _
    | (with_reducible apply OnlyChanges.step copyMeeting_frame; decide)
    | (with_reducible apply OnlyChanges.step onJig_frame; decide)
    | (with_reducible apply OnlyChanges.fold; rotate_left; intros)

theorem atBoundary_frame {bay : Nat} {s : State} : OnlyChanges [.clk, .cfg, .bay, .jig, .joi, .rfr, .bnt, .thm] s (atBoundary bay s) := by
  unfold atBoundary
  repeat' first
    | with_reducible exact .refl _ _
    | (with_reducible apply OnlyChanges.step adoptNow_frame; decide)
    | (with_reducible apply OnlyChanges.step forecast_frame; decide)
    | (with_reducible apply OnlyChanges.step onCfg_frame; decide)
    | (with_reducible apply OnlyChanges.step setBay_frame; decide)
    | (with_reducible apply OnlyChanges.fold; rotate_left; intros)

theorem clearHolds_frame {js : List Nat} {s : State} : OnlyChanges [.joi] s (clearHolds js s) :=
  foldl_frame _ (fun _ _ => setJoist_frame) _ _

theorem startStep_frame {kind : Nat} {x : Step} {y : Bay} {s : State} :
    OnlyChanges [.kp, .cfg, .qci, .bay, .rack, .jig, .joi, .mem, .net, .out] s (startStep kind x y s) := by
  unfold startStep
  repeat' first
    | with_reducible exact .refl _ _
    | (with_reducible apply OnlyChanges.step cancelStep_frame; decide)
    | (with_reducible apply OnlyChanges.step clearHolds_frame; decide)
    | (with_reducible apply OnlyChanges.step noteSteps_frame; decide)
    | (with_reducible apply OnlyChanges.step onMem_frame; decide)
    | (with_reducible apply OnlyChanges.step setBay_frame; decide)
    | (with_reducible apply OnlyChanges.step setStep_frame; decide)
    | (with_reducible apply OnlyChanges.fold; rotate_left; intros)
    | split

theorem missTrigger_frame {bay : Nat} {s : State} : OnlyChanges [.bay] s (missTrigger bay s) := setBay_frame

theorem latchTrigger_frame {x : Step} {s : State} : OnlyChanges [.jig] s (latchTrigger x s) := by
  unfold latchTrigger
  repeat' first
    | with_reducible exact .refl _ _
    | (with_reducible apply OnlyChanges.step onJig_frame; decide)
    | (with_reducible apply OnlyChanges.step setStep_frame; decide)

theorem trigger_frame {bay : Nat} {y : Bay} {imm : BitVec 32} {s : State} :
    OnlyChanges [.clk, .kp, .cfg, .qci, .bay, .rack, .jig, .joi, .mem, .rfr, .bnt, .net, .thm, .out] s (trigger bay y imm s) := by
  unfold trigger
  dsimp only
  repeat' first
    | with_reducible exact .refl _ _
    | (with_reducible apply OnlyChanges.step atBoundary_frame; decide)
    | (with_reducible apply OnlyChanges.step latchTrigger_frame; decide)
    | (with_reducible apply OnlyChanges.step missTrigger_frame; decide)
    | (with_reducible apply OnlyChanges.step startStep_frame; decide)
    | split

theorem failBinding_frame {t peer check : Nat} {j : Job} {s : State} :
    OnlyChanges [.kp, .cfg, .qci, .bay, .rack, .jig, .joi, .mem, .net, .out] s (failBinding t peer check j s) := by
  unfold failBinding
  repeat' first
    | with_reducible exact .refl _ _
    | (with_reducible apply OnlyChanges.step dropBinding_frame; decide)
    | (with_reducible apply OnlyChanges.step finish_frame; decide)
    | (with_reducible apply OnlyChanges.step logEvent_frame; decide)

theorem greetPeer_frame {t k epoch : Nat} {p : Peer} {s : State} :
    OnlyChanges [.clk, .net, .out] s (greetPeer t k epoch p s).2 := by
  unfold greetPeer
  dsimp only
  repeat' first
    | with_reducible exact .refl _ _
    | (with_reducible apply OnlyChanges.step transmit_frame; decide)
    | (with_reducible apply OnlyChanges.step spend_frame; decide)
    | (with_reducible apply OnlyChanges.step putQp_frame; decide)
    | (with_reducible apply OnlyChanges.step onNet_frame; decide)
    | split

theorem greetAll_frame {t epoch k : Nat} {l : List Peer} {s : State} :
    OnlyChanges [.clk, .net, .out] s (greetAll t epoch k l s).2 := by
  induction l generalizing k s with
  | nil => exact .refl _ _
  | cons p l ih => exact greetPeer_frame.trans ih

theorem startHandshake_frame {t : Nat} {j : Job} {s : State} :
    OnlyChanges [.clk, .kp, .cfg, .qci, .bay, .rack, .jig, .joi, .mem, .net, .out] s (startHandshake t j s) := by
  unfold startHandshake
  repeat' first
    | with_reducible exact .refl _ _
    | (with_reducible apply OnlyChanges.step dropBinding_frame; decide)
    | (with_reducible apply OnlyChanges.step finish_frame; decide)
    | (with_reducible apply OnlyChanges.step greetAll_frame; decide)
    | (with_reducible apply OnlyChanges.step onNet_frame; decide)
    | (with_reducible apply OnlyChanges.step putBinding_frame; decide)
    | split

theorem judgeLldp_frame {t : Nat} {j : Job} {s : State} :
    OnlyChanges [.clk, .kp, .cfg, .qci, .bay, .rack, .jig, .joi, .mem, .net, .out] s (judgeLldp t j s) := by
  unfold judgeLldp
  repeat' first
    | with_reducible exact .refl _ _
    | (with_reducible apply OnlyChanges.step dropBinding_frame; decide)
    | (with_reducible apply OnlyChanges.step finish_frame; decide)
    | (with_reducible apply OnlyChanges.step setPort_frame; decide)
    | (with_reducible apply OnlyChanges.step startHandshake_frame; decide)
    | (with_reducible apply OnlyChanges.fold; rotate_left; intros)
    | split

theorem tryLldp_frame {t : Nat} {s : State} :
    OnlyChanges [.clk, .kp, .cfg, .qci, .bay, .rack, .jig, .joi, .mem, .net, .out] s (tryLldp t s) := by
  unfold tryLldp
  repeat' first
    | with_reducible exact .refl _ _
    | (with_reducible apply OnlyChanges.step judgeLldp_frame; decide)
    | split

theorem setBindPeer_frame {t k : Nat} {p : Peer} {j : Job} {s : State} : OnlyChanges [.net] s (setBindPeer t k p j s) := putBinding_frame

theorem deliverKeys_frame {keys : List (BitVec 256)} {s : State} : OnlyChanges [.kp, .out] s (deliverKeys keys s) := by
  unfold deliverKeys
  repeat' first
    | with_reducible exact .refl _ _
    | (with_reducible apply OnlyChanges.step onKp_frame; decide)
    | (with_reducible apply OnlyChanges.step send_frame; decide)

theorem bindJob_frame {t : Nat} {j : Job} {s : State} :
    OnlyChanges [.kp, .cfg, .qci, .bay, .rack, .jig, .joi, .mem, .net, .out] s (bindJob t j s) := by
  unfold bindJob
  repeat' first
    | with_reducible exact .refl _ _
    | (with_reducible apply OnlyChanges.step deliverKeys_frame; decide)
    | (with_reducible apply OnlyChanges.step finish_frame; decide)
    | (with_reducible apply OnlyChanges.step onBay_frame; decide)
    | (with_reducible apply OnlyChanges.step putBinding_frame; decide)
    | (with_reducible apply OnlyChanges.step putJob_frame; decide)
    | (with_reducible apply OnlyChanges.step removeQp_frame; decide)
    | (with_reducible apply OnlyChanges.step setPort_frame; decide)
    | (with_reducible apply OnlyChanges.step setQp_frame; decide)
    | (with_reducible apply OnlyChanges.fold; rotate_left; intros)
    | split

theorem resend_frame {n : Nat} {back : Bool} {l : List Flit} {s : State} : OnlyChanges [.lnk] s (resend n back l s) := by
  unfold resend
  repeat' first
    | with_reducible exact .refl _ _
    | (with_reducible apply OnlyChanges.step setLink_frame; decide)
    | split

theorem enterFailed_frame {cause : Nat} {s : State} :
    OnlyChanges [.kp, .cfg, .qci, .bay, .rack, .jig, .joi, .mem, .net, .pwr, .out] s (enterFailed cause s) := by
  unfold enterFailed
  repeat' first
    | with_reducible exact .refl _ _
    | (with_reducible apply OnlyChanges.step alertOn_frame; decide)
    | (with_reducible apply OnlyChanges.step cancelStep_frame; decide)
    | (with_reducible apply OnlyChanges.step logEvent_frame; decide)
    | (with_reducible apply OnlyChanges.step onKp_frame; decide)
    | (with_reducible apply OnlyChanges.fold; rotate_left; intros)
    | split

theorem retireLink_frame {n : Nat} {s : State} :
    OnlyChanges [.kp, .cfg, .qci, .bay, .rack, .jig, .joi, .mem, .lnk, .net, .pwr, .out] s (retireLink n s) := by
  unfold retireLink
  dsimp only
  repeat' first
    | with_reducible exact .refl _ _
    | (with_reducible apply OnlyChanges.step enterFailed_frame; decide)
    | (with_reducible apply OnlyChanges.step onKp_frame; decide)
    | (with_reducible apply OnlyChanges.step resend_frame; decide)
    | (with_reducible apply OnlyChanges.step setLink_frame; decide)
    | split

theorem flitGood_frame {n : Nat} {back : Bool} {f : Flit} {s : State} : OnlyChanges [.lnk, .out] s (flitGood n back f s) := by
  unfold flitGood
  repeat' first
    | with_reducible exact .refl _ _
    | (with_reducible apply OnlyChanges.step send_frame; decide)
    | (with_reducible apply OnlyChanges.step setLink_frame; decide)

theorem flitBad_frame {n : Nat} {back : Bool} {s : State} :
    OnlyChanges [.kp, .cfg, .qci, .bay, .rack, .jig, .joi, .mem, .lnk, .net, .pwr, .out] s (flitBad n back s) := by
  unfold flitBad
  dsimp only
  repeat' first
    | with_reducible exact .refl _ _
    | (with_reducible apply OnlyChanges.step retireLink_frame; decide)
    | (with_reducible apply OnlyChanges.step send_frame; decide)
    | (with_reducible apply OnlyChanges.step setLink_frame; decide)
    | split

theorem storeSlots_frame {m port va : Nat} {data : List Byte} {s : State} : OnlyChanges [.qci] s (storeSlots m port va data s) := by
  unfold storeSlots
  repeat' first
    | with_reducible exact .refl _ _
    | (with_reducible apply OnlyChanges.step onQci_frame; decide)
    | split

theorem lookAt_frame {m slot : Nat} {s : State} : OnlyChanges [.qci] s (lookAt m slot s) := onQci_frame

theorem settleBent_frame {b : Nat} {s : State} : OnlyChanges [.kp, .bnt] s (settleBent b s) := by
  unfold settleBent
  repeat' first
    | with_reducible exact .refl _ _
    | (with_reducible apply OnlyChanges.step assignBent_frame; decide)
    | (with_reducible apply OnlyChanges.step onKp_frame; decide)
    | split

theorem keepMargins_frame {s : State} : OnlyChanges [.kp] s (keepMargins s) := onKp_frame
theorem sendNak_frame {key psn kind : Nat} {s : State} : OnlyChanges [.net, .out] s (sendNak key psn kind s) := frameOut_frame

theorem sendAck_frame {key : Nat} {s : State} : OnlyChanges [.net, .out] s (sendAck key s) := by
  unfold sendAck
  repeat' first
    | with_reducible exact .refl _ _
    | (with_reducible apply OnlyChanges.step sendFrame_frame; decide)
    | (with_reducible apply OnlyChanges.step setQp_frame; decide)

theorem respondAll_frame {key va psn : Nat} {q : Qp} {data : List Byte} {s : State} :
    OnlyChanges [.net, .out] s (respondAll key va psn q data s) := foldl_frame _ (fun _ _ => transmit_frame) _ _
theorem putSlice_frame {t w : Nat} {v : Option SliceWin} {s : State} : OnlyChanges [.bay] s (State.putSlice t w v s) := onBay_frame

theorem haltTarget_frame {g : Target} {s : State} : OnlyChanges [.bay] s (haltTarget g s) := by
  unfold haltTarget
  repeat' first
    | with_reducible exact .refl _ _
    | (with_reducible apply OnlyChanges.step setBay_frame; decide)
    | (with_reducible apply OnlyChanges.step putSlice_frame; decide)
    | split

theorem countStale_frame {bents : List Nat} {s : State} : OnlyChanges [.bnt] s (countStale bents s) :=
  foldl_frame _ (fun _ _ => setBent_frame) _ _

theorem freeCells_frame {q : Qp} {n : Nat} {s : State} : OnlyChanges [.net, .out] s (freeCells q n s) := by
  unfold freeCells
  dsimp only
  repeat' first
    | with_reducible exact .refl _ _
    | (with_reducible apply OnlyChanges.step sendReturn_frame; decide)
    | (with_reducible apply OnlyChanges.step setPeer_frame; decide)
    | split

theorem discardRx_frame {bents : List Nat} {s : State} : OnlyChanges [.net, .out] s (discardRx bents s) := by
  unfold discardRx
  repeat' first
    | with_reducible exact .refl _ _
    | (with_reducible apply OnlyChanges.step onNet_frame; decide)
    | (with_reducible apply OnlyChanges.step sendReturn_frame; decide)
    | (with_reducible apply OnlyChanges.step setPeer_frame; decide)
    | (with_reducible apply OnlyChanges.step setQp_frame; decide)
    | (with_reducible apply OnlyChanges.fold; rotate_left; intros)
    | split

theorem xoffPort_frame {port : Nat} {s : State} : OnlyChanges [.net, .out] s (xoffPort port s) := by
  unfold xoffPort
  repeat' first
    | with_reducible exact .refl _ _
    | (with_reducible apply OnlyChanges.step frameOut_frame; decide)
    | (with_reducible apply OnlyChanges.step setPort_frame; decide)
    | (with_reducible apply OnlyChanges.fold; rotate_left; intros)
    | split

theorem checkXoff_frame {s : State} : OnlyChanges [.net, .out] s (checkXoff s) := foldl_frame _ (fun _ _ => xoffPort_frame) _ _

theorem checkXon_frame {s : State} : OnlyChanges [.net, .out] s (checkXon s) := by
  unfold checkXon
  repeat' first
    | with_reducible exact .refl _ _
    | (with_reducible apply OnlyChanges.step sendFrame_frame; decide)
    | (with_reducible apply OnlyChanges.step setPort_frame; decide)
    | (with_reducible apply OnlyChanges.fold; rotate_left; intros)
    | split

theorem putTenancy_frame {t : Nat} {v : Option Tenancy} {s : State} : OnlyChanges [.ten] s (State.putTenancy t v s) := onTen_frame
theorem setSite_frame {i : Nat} {f : Site → Site} {s : State} : OnlyChanges [.thm] s (State.setSite i f s) := onThm_frame

theorem releaseHeld_frame {p : Nat} {s : State} : OnlyChanges [.net, .out] s (releaseHeld p s) := by
  unfold releaseHeld
  repeat' first
    | with_reducible exact .refl _ _
    | (with_reducible apply OnlyChanges.step frameOut_frame; decide)
    | (with_reducible apply OnlyChanges.step onNet_frame; decide)
    | (with_reducible apply OnlyChanges.fold; rotate_left; intros)

theorem frameIn_frame {p n : Nat} {s : State} : OnlyChanges [.net] s (frameIn p n s) := by
  unfold frameIn
  repeat' first
    | with_reducible exact .refl _ _
    | (with_reducible apply OnlyChanges.step countPort_frame; decide)

theorem dropEnginePorts_frame {e : Nat} {s : State} : OnlyChanges [.net] s (dropEnginePorts e s) := by
  unfold dropEnginePorts
  repeat' first
    | with_reducible exact .refl _ _
    | (with_reducible apply OnlyChanges.step dropLink_frame; decide)
    | (with_reducible apply OnlyChanges.fold; rotate_left; intros)
    | split

theorem loseLaser_frame {e : Nat} {s : State} : OnlyChanges [.net] s (loseLaser e s) := by
  unfold loseLaser
  repeat' first
    | with_reducible exact .refl _ _
    | (with_reducible apply OnlyChanges.step dropEnginePorts_frame; decide)
    | (with_reducible apply OnlyChanges.step setEngine_frame; decide)
    | (with_reducible apply OnlyChanges.step setPort_frame; decide)
    | (with_reducible apply OnlyChanges.fold; rotate_left; intros)

theorem pollEngine_frame {modules : List LaserReading} {faults : List Nat} {e : Nat} {s : State} :
    OnlyChanges [.net] s (pollEngine modules faults e s) := by
  unfold pollEngine
  dsimp only
  repeat' first
    | with_reducible exact .refl _ _
    | (with_reducible apply OnlyChanges.step loseLaser_frame; decide)
    | (with_reducible apply OnlyChanges.step setEngine_frame; decide)
    | (with_reducible apply OnlyChanges.step setPort_frame; decide)
    | (with_reducible apply OnlyChanges.fold; rotate_left; intros)
    | split

theorem scrambleRegion_frame {t : Nat} {js : List Nat} {r : Region} {s : State} :
    OnlyChanges [.clk, .joi, .mem] s (scrambleRegion t js r s) := by
  unfold scrambleRegion
  repeat' first
    | with_reducible exact .refl _ _
    | (with_reducible apply OnlyChanges.step onMem_frame; decide)
    | (with_reducible apply OnlyChanges.step setJoist_frame; decide)
    | (with_reducible apply OnlyChanges.step spend_frame; decide)
    | (with_reducible apply OnlyChanges.fold; rotate_left; intros)
    | split

theorem meetStage_frame {step : Nat} {l : List Finding} {s : State} :
    OnlyChanges [.clk, .kp, .jig, .joi, .mem, .ecc, .bnt] s (meetStage step l s) := by
  unfold meetStage
  repeat' first
    | with_reducible exact .refl _ _
    | (with_reducible apply OnlyChanges.step meetAll_frame; decide)
    | (with_reducible apply OnlyChanges.step setStep_frame; decide)
    | split

theorem stampJoist_frame {t : Nat} {inSlice : Bool} {j : Nat} {s : State} : OnlyChanges [.joi] s (stampJoist t inSlice j s) := by
  unfold stampJoist
  repeat' first
    | with_reducible exact .refl _ _
    | (with_reducible apply OnlyChanges.step setJoist_frame; decide)
    | split

theorem pegStore_frame {p : PegPlace} {row col : Nat} {bytes : List Byte} {bad : Nat → Bool} {s : State} :
    OnlyChanges [.joi, .mem] s (pegStore p row col bytes bad s) := by
  unfold pegStore
  repeat' first
    | with_reducible exact .refl _ _
    | (with_reducible apply OnlyChanges.step onMem_frame; decide)
    | (with_reducible apply OnlyChanges.step stampJoist_frame; decide)

theorem writeBack_frame {j bank : Nat} {s : State} : OnlyChanges [.mem] s (writeBack j bank s) := onMem_frame

theorem pegRunInstr_frame {p : PegPlace} {k : Nat} {i : PegInstr} {a : PegRun} :
    OnlyChanges [.joi, .mem] a.s (pegRunInstr p k i a).s := by
  unfold pegRunInstr pegBlocks pegScalars
  dsimp only
  repeat' first
    | with_reducible exact .refl _ _
    | (with_reducible apply OnlyChanges.step pegStore_frame; decide)
    | (with_reducible apply OnlyChanges.step onMem_frame; decide)
    | split

theorem pegStep_frame {p : PegPlace} {a : PegRun} {e : Nat × PegInstr} :
    OnlyChanges [.clk, .kp, .jig, .joi, .mem, .ecc, .bnt] a.s (pegStep p a e).s := by
  unfold pegStep
  dsimp only
  repeat' first
    | with_reducible exact .refl _ _
    | (with_reducible apply OnlyChanges.step pegRunInstr_frame; decide)
    | (with_reducible apply OnlyChanges.step meetStage_frame; decide)
    | (with_reducible apply OnlyChanges.step onJoi_frame; decide)
    | split

theorem pegSteps_frame {p : PegPlace} {l : List (Nat × PegInstr)} {a : PegRun} :
    OnlyChanges [.clk, .kp, .jig, .joi, .mem, .ecc, .bnt] a.s (l.foldl (pegStep p) a).s := by
  induction l generalizing a with
  | nil => exact .refl _ _
  | cons e l ih => exact pegStep_frame.trans ih

theorem runSegment_frame {r : Run} {j bank : Nat} {found : List Finding} {s : State} :
    OnlyChanges [.clk, .kp, .jig, .joi, .mem, .ecc, .bnt] s (runSegment r j bank found s).1 :=
  ((meetStage_frame.mono (by decide)).trans (pegSteps_frame (a := pegStart _ _ _))).trans (writeBack_frame.mono (by decide))

theorem stopPeg_frame {r : Run} {j bank : Nat} {s : State} :
    OnlyChanges [.clk, .kp, .jig, .joi, .mem, .ecc, .bnt] s (stopPeg r j bank s) := by
  unfold stopPeg
  dsimp only
  split
  · refine ((OnlyChanges.trans ?_ (writeBack_frame.mono (by decide))).trans (setPeg_frame.mono (by decide)))
    have h (k : Nat) : OnlyChanges [.clk, .kp, .jig, .joi, .mem, .ecc, .bnt] s
        (((segmentOf j bank s).take k).foldl (pegStep (pegPlace r j bank [] s)) (pegStart j bank (spend 1 s))).s :=
      (spend_frame.mono (by decide)).trans (pegSteps_frame (a := pegStart _ _ _))
    split
    · split
      · exact (h _).trans pegStep_frame
      · exact h _
    · exact h _
  · exact setPeg_frame.mono (by decide)

theorem stopPegs_frame {bay : Nat} {s : State} : OnlyChanges [.clk, .kp, .jig, .joi, .mem, .ecc, .bnt] s (stopPegs bay s) := by
  unfold stopPegs
  repeat' first
    | with_reducible exact .refl _ _
    | (with_reducible apply OnlyChanges.step stopPeg_frame; decide)
    | (with_reducible apply OnlyChanges.fold; rotate_left; intros)
    | split

theorem tearStep_frame {x : Step} {s : State} : OnlyChanges [.clk, .kp, .jig, .joi, .mem, .ecc, .bnt] s (tearStep x s) := by
  unfold tearStep
  repeat' first
    | with_reducible exact .refl _ _
    | (with_reducible apply OnlyChanges.step scrambleRegion_frame; decide)
    | (with_reducible apply OnlyChanges.step stopPegs_frame; decide)
    | (with_reducible apply OnlyChanges.fold; rotate_left; intros)
    | split

theorem abandonCopies_frame {x : Step} {s : State} : OnlyChanges [.clk, .jig, .joi, .mem] s (abandonCopies x s) := by
  unfold abandonCopies
  repeat' first
    | with_reducible exact .refl _ _
    | (with_reducible apply OnlyChanges.step scrambleRegion_frame; decide)
    | (with_reducible apply OnlyChanges.step setStep_frame; decide)
    | (with_reducible apply OnlyChanges.fold; rotate_left; intros)
    | split

theorem abandonOrphans_frame {bay : Nat} {s : State} : OnlyChanges [.clk, .jig, .joi, .mem] s (abandonOrphans bay s) := by
  unfold abandonOrphans
  repeat' first
    | with_reducible exact .refl _ _
    | (with_reducible apply OnlyChanges.step dropOrphans_frame; decide)
    | (with_reducible apply OnlyChanges.step scrambleRegion_frame; decide)
    | (with_reducible apply OnlyChanges.fold; rotate_left; intros)
    | split

theorem failRetain_frame {s : State} : OnlyChanges [.kp, .cfg, .qci, .bay, .rack, .jig, .joi, .mem, .net, .pwr, .out] s (failRetain s) := by
  unfold failRetain
  repeat' first
    | with_reducible exact .refl _ _
    | (with_reducible apply OnlyChanges.step finish_frame; decide)
    | (with_reducible apply OnlyChanges.step onPwr_frame; decide)
    | split

theorem fenceBent_frame {counts : Bool} {b : Nat} {s : State} : OnlyChanges [.bnt] s (fenceBent counts b s) := setBent_frame

theorem haltMargin_frame {id : Nat} {st : Status} {b : Nat} {s : State} : OnlyChanges [.bnt, .pwr] s (haltMargin id st b s) := by
  unfold haltMargin
  repeat' first
    | with_reducible exact .refl _ _
    | (with_reducible apply OnlyChanges.step setBent_frame; decide)
    | (with_reducible apply OnlyChanges.step setReset_frame; decide)
    | split

theorem releaseWaiting_frame {st : Status} {bay : Nat} {s : State} :
    OnlyChanges [.clk, .kp, .cfg, .qci, .bay, .rack, .jig, .joi, .mem, .net, .out] s (releaseWaiting st bay s) := by
  unfold releaseWaiting
  repeat' first
    | with_reducible exact .refl _ _
    | (with_reducible apply OnlyChanges.step abandonCopies_frame; decide)
    | (with_reducible apply OnlyChanges.step abandonOrphans_frame; decide)
    | (with_reducible apply OnlyChanges.step cancelWaiting_frame; decide)
    | (with_reducible apply OnlyChanges.step onCfg_frame; decide)
    | (with_reducible apply OnlyChanges.fold; rotate_left; intros)

theorem shelveStep_frame {id : Nat} {status : Status} {x : Step} {s : State} :
    OnlyChanges [.bay, .rack, .jig, .joi, .mem, .net, .pwr] s (shelveStep id status x s) := by
  unfold shelveStep
  repeat' first
    | with_reducible exact .refl _ _
    | (with_reducible apply OnlyChanges.step setReset_frame; decide)
    | (with_reducible apply OnlyChanges.step stopStep_frame; decide)

theorem shelveRunning_frame {r : PReset} {bay : Nat} {s : State} :
    OnlyChanges [.clk, .kp, .bay, .rack, .jig, .joi, .mem, .ecc, .bnt, .net, .pwr] s (shelveRunning r bay s) := by
  unfold shelveRunning
  repeat' first
    | with_reducible exact .refl _ _
    | (with_reducible apply OnlyChanges.step shelveStep_frame; decide)
    | (with_reducible apply OnlyChanges.step tearStep_frame; decide)
    | split

theorem fencePhase_frame {r : PReset} {s : State} :
    OnlyChanges [.clk, .kp, .cfg, .qci, .bay, .rack, .jig, .joi, .mem, .ecc, .bnt, .net, .pwr, .out] s (fencePhase r s) := by
  unfold fencePhase
  repeat' first
    | with_reducible exact .refl _ _
    | (with_reducible apply OnlyChanges.step failRetain_frame; decide)
    | (with_reducible apply OnlyChanges.step fenceBent_frame; decide)
    | (with_reducible apply OnlyChanges.step haltMargin_frame; decide)
    | (with_reducible apply OnlyChanges.step onNet_frame; decide)
    | (with_reducible apply OnlyChanges.step releaseWaiting_frame; decide)
    | (with_reducible apply OnlyChanges.step setReset_frame; decide)
    | (with_reducible apply OnlyChanges.step shelveRunning_frame; decide)
    | (with_reducible apply OnlyChanges.fold; rotate_left; intros)
    | split

theorem toPhase_frame {n : Nat} {r : PReset} {s : State} : OnlyChanges [.pwr] s (toPhase n r s) := setReset_frame
theorem selfRefresh_frame {b : Nat} {s : State} : OnlyChanges [.rfr, .bnt] s (selfRefresh b s) := enterSelfRefresh_frame

theorem stopSlices_frame {b : Nat} {s : State} : OnlyChanges [.rfr, .bnt] s (stopSlices b s) := by
  unfold stopSlices
  repeat' first
    | with_reducible exact .refl _ _
    | (with_reducible apply OnlyChanges.step selfRefresh_frame; decide)
    | (with_reducible apply OnlyChanges.step setBent_frame; decide)

theorem clearCounts_frame {b : Nat} {s : State} : OnlyChanges [.ecc, .bnt] s (clearCounts b s) := by
  unfold clearCounts
  repeat' first
    | with_reducible exact .refl _ _
    | (with_reducible apply OnlyChanges.step onEcc_frame; decide)
    | (with_reducible apply OnlyChanges.step setBent_frame; decide)

theorem clearJoists_frame {b : Nat} {s : State} : OnlyChanges [.joi, .mem] s (clearJoists b s) := by
  unfold clearJoists
  repeat' first
    | with_reducible exact .refl _ _
    | (with_reducible apply OnlyChanges.step onJoi_frame; decide)
    | (with_reducible apply OnlyChanges.step onMem_frame; decide)

theorem resetControllers_frame {b : Nat} {s : State} : OnlyChanges [.mem, .rfr, .ecc] s (resetControllers b s) := by
  unfold resetControllers
  repeat' first
    | with_reducible exact .refl _ _
    | (with_reducible apply OnlyChanges.step onEcc_frame; decide)
    | (with_reducible apply OnlyChanges.step onMem_frame; decide)
    | (with_reducible apply OnlyChanges.step onRfr_frame; decide)

theorem clearBent_frame {b : Nat} {s : State} : OnlyChanges [.joi, .mem, .rfr, .ecc, .bnt] s (clearBent b s) := by
  unfold clearBent
  repeat' first
    | with_reducible exact .refl _ _
    | (with_reducible apply OnlyChanges.step clearCounts_frame; decide)
    | (with_reducible apply OnlyChanges.step clearJoists_frame; decide)
    | (with_reducible apply OnlyChanges.step resetControllers_frame; decide)

theorem sweepSeqs_frame {bay : Nat} {s : State} : OnlyChanges [.rack] s (sweepSeqs bay s) := foldl_frame _ (fun _ _ => putSeq_frame) _ _

theorem reclaimBay_frame {bay : Nat} {s : State} : OnlyChanges [.cfg, .bay, .rack, .jig, .joi, .mem] s (reclaimBay bay s) := by
  unfold reclaimBay
  repeat' first
    | with_reducible exact .refl _ _
    | (with_reducible apply OnlyChanges.step freeBay_frame; decide)
    | (with_reducible apply OnlyChanges.step sweepSeqs_frame; decide)

theorem postLate_frame {r : PReset} {s : State} :
    OnlyChanges [.kp, .cfg, .qci, .bay, .rack, .jig, .joi, .mem, .net, .out] s (postLate r s) := foldl_frame _ (fun _ _ => finish_frame) _ _
theorem dropReset_frame {id : Nat} {s : State} : OnlyChanges [.pwr] s (dropReset id s) := onPwr_frame

theorem reloadLost_frame {missing : List (Nat × BitVec 32)} {s : State} : OnlyChanges [.kp, .bnt] s (reloadLost missing s) := by
  unfold reloadLost
  repeat' first
    | with_reducible exact .refl _ _
    | (with_reducible apply OnlyChanges.step bentOut_frame; decide)
    | (with_reducible apply OnlyChanges.step retireUnloaded_frame; decide)
    | (with_reducible apply OnlyChanges.fold; rotate_left; intros)

theorem reloadRound_frame {missed : List (Nat × BitVec 32)} {r : PReset} {s : State} :
    OnlyChanges [.kp, .joi, .mem, .bnt, .pwr, .out] s (reloadRound missed r s) := by
  unfold reloadRound
  dsimp only
  repeat' first
    | with_reducible exact .refl _ _
    | (with_reducible apply OnlyChanges.step reloadLost_frame; decide)
    | (with_reducible apply OnlyChanges.step reportJoist_frame; decide)
    | (with_reducible apply OnlyChanges.step resendUcode_frame; decide)
    | (with_reducible apply OnlyChanges.step sendBents_frame; decide)
    | (with_reducible apply OnlyChanges.step setReset_frame; decide)
    | (with_reducible apply OnlyChanges.step toPhase_frame; decide)
    | (with_reducible apply OnlyChanges.fold; rotate_left; intros)
    | split

theorem beginTrip_frame {b : Nat} {s : State} : OnlyChanges [.rfr, .bnt, .pwr] s (beginTrip b s) := by
  unfold beginTrip
  repeat' first
    | with_reducible exact .refl _ _
    | (with_reducible apply OnlyChanges.step requestReset_frame; decide)
    | (with_reducible apply OnlyChanges.step selfRefresh_frame; decide)
    | (with_reducible apply OnlyChanges.step stopBent_frame; decide)

theorem returnBent_frame {b : Nat} {s : State} : OnlyChanges [.clk, .cfg, .bnt, .net] s (returnBent b s) := by
  unfold returnBent
  repeat' first
    | with_reducible exact .refl _ _
    | (with_reducible apply OnlyChanges.step putSetting_frame; decide)
    | (with_reducible apply OnlyChanges.step setBent_frame; decide)
    | (with_reducible apply OnlyChanges.fold; rotate_left; intros)

theorem returnBents_frame {bents : List Nat} {s : State} : OnlyChanges [.clk, .cfg, .joi, .rfr, .bnt, .net] s (returnBents bents s) := by
  unfold returnBents
  dsimp only
  repeat' first
    | with_reducible exact .refl _ _
    | (with_reducible apply OnlyChanges.step onCfg_frame; decide)
    | (with_reducible apply OnlyChanges.step returnBent_frame; decide)
    | (with_reducible apply OnlyChanges.step syncPegs_frame; decide)
    | (with_reducible apply OnlyChanges.fold; rotate_left; intros)
    | split

theorem endTrips_frame {r : PReset} {s : State} : OnlyChanges [.kp, .bnt, .pwr] s (endTrips r s) := by
  unfold endTrips
  dsimp only
  repeat' first
    | with_reducible exact .refl _ _
    | (with_reducible apply OnlyChanges.step alertOff_frame; decide)
    | (with_reducible apply OnlyChanges.step logEvent_frame; decide)
    | (with_reducible apply OnlyChanges.step setBent_frame; decide)
    | (with_reducible apply OnlyChanges.fold; rotate_left; intros)
    | split

theorem donePhase_frame {r : PReset} {s : State} :
    OnlyChanges [.clk, .kp, .cfg, .qci, .bay, .rack, .jig, .joi, .mem, .rfr, .bnt, .net, .pwr, .out] s (donePhase r s) := by
  unfold donePhase
  repeat' first
    | with_reducible exact .refl _ _
    | (with_reducible apply OnlyChanges.step beginTrip_frame; decide)
    | (with_reducible apply OnlyChanges.step dropReset_frame; decide)
    | (with_reducible apply OnlyChanges.step endTrips_frame; decide)
    | (with_reducible apply OnlyChanges.step finish_frame; decide)
    | (with_reducible apply OnlyChanges.step postLate_frame; decide)
    | (with_reducible apply OnlyChanges.step returnBents_frame; decide)
    | (with_reducible apply OnlyChanges.step setBent_frame; decide)
    | (with_reducible apply OnlyChanges.fold; rotate_left; intros)

theorem setPegs_frame {r : Run} {d : PegDesc} {raise : Int} {s : State} : OnlyChanges [.joi, .rfr, .bnt] s (setPegs r d raise s) := by
  unfold setPegs
  repeat' first
    | with_reducible exact .refl _ _
    | (with_reducible apply OnlyChanges.step setGroup_frame; decide)
    | (with_reducible apply OnlyChanges.step setJoist_frame; decide)
    | (with_reducible apply OnlyChanges.step setPeg_frame; decide)
    | (with_reducible apply OnlyChanges.step startSegments_frame; decide)
    | (with_reducible apply OnlyChanges.fold; rotate_left; intros)

theorem endBank_frame {j bank : Nat} {halted : Bool} {stats : NMap Group} {s : State} :
    OnlyChanges [.joi] s (endBank j bank halted stats s) := by
  unfold endBank
  repeat' first
    | with_reducible exact .refl _ _
    | (with_reducible apply OnlyChanges.step setGroup_frame; decide)
    | (with_reducible apply OnlyChanges.step setJoist_frame; decide)
    | (with_reducible apply OnlyChanges.step setPeg_frame; decide)
    | (with_reducible apply OnlyChanges.fold; rotate_left; intros)
    | split

theorem finishPegs_frame {r : Run} {d : PegDesc} {a : Active} {s : State} :
    OnlyChanges [.clk, .jig, .joi, .rfr, .bnt] s (finishPegs r d a s) := by
  unfold finishPegs
  dsimp only
  repeat' first
    | with_reducible exact .refl _ _
    | (with_reducible apply OnlyChanges.step setActive_frame; decide)
    | (with_reducible apply OnlyChanges.step setJoist_frame; decide)
    | (with_reducible apply OnlyChanges.step setPegs_frame; decide)
    | (with_reducible apply OnlyChanges.step setStep_frame; decide)
    | (with_reducible apply OnlyChanges.fold; rotate_left; intros)
    | split

theorem noteSegment_frame {r : Run} {a : PegRun} {s : State} : OnlyChanges [.clk, .jig, .bnt] s (noteSegment r a s) := setActive_frame

theorem segmentEnd_frame {r : Run} {d : PegDesc} {j bank : Nat} {found : List Finding} {s : State} :
    OnlyChanges [.clk, .kp, .jig, .joi, .mem, .rfr, .ecc, .bnt] s (segmentEnd r d j bank found s) := by
  unfold segmentEnd
  dsimp only
  repeat' first
    | with_reducible exact .refl _ _
    | (with_reducible apply OnlyChanges.step endBank_frame; decide)
    | (with_reducible apply OnlyChanges.step finishPegs_frame; decide)
    | (with_reducible apply OnlyChanges.step noteSegment_frame; decide)
    | (with_reducible apply OnlyChanges.step runSegment_frame; decide)
    | (with_reducible apply OnlyChanges.step setPeg_frame; decide)
    | (with_reducible apply OnlyChanges.step setRefresh_frame; decide)
    | (with_reducible apply OnlyChanges.step startSegments_frame; decide)
    | split

theorem holdBank_frame {j bank : Nat} {s : State} : OnlyChanges [.joi, .bnt] s (holdBank j bank s) := by
  unfold holdBank
  repeat' first
    | with_reducible exact .refl _ _
    | (with_reducible apply OnlyChanges.step setBent_frame; decide)
    | (with_reducible apply OnlyChanges.step setPeg_frame; decide)
    | split

theorem freeBanks_frame {l : List (Nat × Nat)} {s : State} : OnlyChanges [.joi, .rfr, .bnt] s (freeBanks l s) := by
  unfold freeBanks
  repeat' first
    | with_reducible exact .refl _ _
    | (with_reducible apply OnlyChanges.step setPeg_frame; decide)
    | (with_reducible apply OnlyChanges.step startSegments_frame; decide)
    | (with_reducible apply OnlyChanges.fold; rotate_left; intros)

theorem readyBanks_frame {l : List (Nat × Nat)} {s : State} : OnlyChanges [.rfr] s (readyBanks l s) :=
  foldl_frame _ (fun _ _ => setRefresh_frame) _ _

theorem endBanks_frame {l : List (Nat × Nat)} {s : State} : OnlyChanges [.mem, .rfr] s (endBanks l s) := by
  unfold endBanks
  repeat' first
    | with_reducible exact .refl _ _
    | (with_reducible apply OnlyChanges.step setRefresh_frame; decide)
    | (with_reducible apply OnlyChanges.step writeBack_frame; decide)
    | (with_reducible apply OnlyChanges.fold; rotate_left; intros)

theorem ownSequence_frame {ps : List Part} {l : List (Nat × Nat)} {f : State → State} {s : State} (hf : ∀ s, OnlyChanges ps s (f s))
    (hp : ∀ p, p ∈ [Part.joi, .mem, .rfr, .bnt] → p ∈ ps) : OnlyChanges ps s (ownSequence l f s) := by
  unfold ownSequence
  split
  · exact (((readyBanks_frame.mono (fun p h => hp p (by revert p; decide))).trans (hf _)).trans
      (endBanks_frame.mono (fun p h => hp p (by revert p; decide)))).trans (freeBanks_frame.mono (fun p h => hp p (by revert p; decide)))
  · exact (foldl_frame _ (fun _ _ => holdBank_frame) _ _).mono (fun p h => hp p (by revert p; decide))

theorem endAllSteps_frame {status : Status} {s : State} :
    OnlyChanges [.kp, .cfg, .qci, .bay, .rack, .jig, .joi, .mem, .net, .out] s (endAllSteps status s) := by
  unfold endAllSteps
  repeat' first
    | with_reducible exact .refl _ _
    | (with_reducible apply OnlyChanges.step cancelStep_frame; decide)
    | (with_reducible apply OnlyChanges.step haltStep_frame; decide)
    | (with_reducible apply OnlyChanges.fold; rotate_left; intros)
    | split

theorem voidJoist_frame {n j : Nat} {s : State} : OnlyChanges [.jig] s (voidJoist n j s) := onJig_frame
theorem voidBay_frame {n bay : Nat} {s : State} : OnlyChanges [.jig] s (voidBay n bay s) := onJig_frame

theorem updateRth_frame {avg : Nat} {s : State} : OnlyChanges [.thm] s (updateRth avg s) := by
  unfold updateRth
  repeat' first
    | with_reducible exact .refl _ _
    | (with_reducible apply OnlyChanges.step onThm_frame; decide)
    | split

theorem writeWaiting_frame {s : State} : OnlyChanges [.qci, .net, .out] s (writeWaiting s) := by
  unfold writeWaiting
  repeat' first
    | with_reducible exact .refl _ _
    | (with_reducible apply OnlyChanges.step onQci_frame; decide)
    | (with_reducible apply OnlyChanges.step writeRecord_frame; decide)
    | (with_reducible apply OnlyChanges.fold; rotate_left; intros)

theorem countLost_frame {i : Nat} {s : State} : OnlyChanges [.qci] s (countLost i s) := setSession_frame
theorem refPages_frame {bay : Nat} {ps : List Nat} {s : State} : OnlyChanges [.rack] s (refPages bay ps s) :=
  foldl_frame _ (fun _ _ => onOwner_frame) _ _
theorem startRaise_frame {cold full : Bool} {s : State} : OnlyChanges [.kp] s (startRaise cold full s) := onKp_frame

theorem warmReset_frame {rate : Nat} {full : Bool} {s : State} :
    OnlyChanges [.kp, .cfg, .qci, .ten, .bay, .rack, .jig, .joi, .mem, .rfr, .ecc, .bnt, .lnk, .net, .thm, .pwr] s (warmReset rate full s) := by
  unfold warmReset
  repeat' first
    | with_reducible exact .refl _ _
    | (with_reducible apply OnlyChanges.step holdDies_frame; decide)
    | (with_reducible apply OnlyChanges.step startRaise_frame; decide)

theorem putRecovery_frame {r : Recovery} {s : State} : OnlyChanges [.kp] s (putRecovery r s) := onKp_frame
theorem answer_frame {port addr type : Nat} {body : List Byte} {s : State} : OnlyChanges [.net, .out] s (answer port addr type body s) :=
  sendFrame_frame
theorem refuse_frame {port addr : Nat} {st : Status} {s : State} : OnlyChanges [.net, .out] s (refuse port addr st s) := answer_frame

theorem hello_frame {port addr : Nat} {r : Recovery} {s : State} : OnlyChanges [.clk, .kp, .net, .out] s (hello port addr r s) := by
  unfold hello
  repeat' first
    | with_reducible exact .refl _ _
    | (with_reducible apply OnlyChanges.step answer_frame; decide)
    | (with_reducible apply OnlyChanges.step putRecovery_frame; decide)
    | (with_reducible apply OnlyChanges.step refuse_frame; decide)
    | (with_reducible apply OnlyChanges.step spend_frame; decide)
    | split

theorem beginTransfer_frame {port addr : Nat} {challenge : BitVec 128} {length version : Nat} {digest : BitVec 256} {sig : BitVec 512} {r : Recovery} {s : State} :
    OnlyChanges [.kp, .net, .out] s (beginTransfer port addr challenge length version digest sig r s) := by
  unfold beginTransfer
  repeat' first
    | with_reducible exact .refl _ _
    | (with_reducible apply OnlyChanges.step putRecovery_frame; decide)
    | (with_reducible apply OnlyChanges.step refuse_frame; decide)
    | split

theorem takeData_frame {port addr offset : Nat} {data : List Byte} {r : Recovery} {s : State} :
    OnlyChanges [.kp, .net, .out] s (takeData port addr offset data r s) := by
  unfold takeData
  repeat' first
    | with_reducible exact .refl _ _
    | (with_reducible apply OnlyChanges.step answer_frame; decide)
    | (with_reducible apply OnlyChanges.step refuse_frame; decide)
    | (with_reducible apply OnlyChanges.step storeImage_frame; decide)
    | split

theorem endTransfer_frame {port addr : Nat} {r : Recovery} {s : State} :
    OnlyChanges [.kp, .cfg, .qci, .ten, .bay, .rack, .jig, .joi, .mem, .rfr, .ecc, .bnt, .lnk, .net, .thm, .pwr, .out] s (endTransfer port addr r s) := by
  unfold endTransfer
  dsimp only
  repeat' first
    | with_reducible exact .refl _ _
    | (with_reducible apply OnlyChanges.step answer_frame; decide)
    | (with_reducible apply OnlyChanges.step commitImage_frame; decide)
    | (with_reducible apply OnlyChanges.step holdDies_frame; decide)
    | (with_reducible apply OnlyChanges.step onKp_frame; decide)
    | (with_reducible apply OnlyChanges.step putRecovery_frame; decide)
    | (with_reducible apply OnlyChanges.step refuse_frame; decide)
    | (with_reducible apply OnlyChanges.step startRaise_frame; decide)
    | split

theorem closeSilent_frame {js groups : List Nat} {s : State} : OnlyChanges [.joi] s (closeSilent js groups s) := by
  unfold closeSilent
  repeat' first
    | with_reducible exact .refl _ _
    | (with_reducible apply OnlyChanges.step setGroup_frame; decide)
    | (with_reducible apply OnlyChanges.fold; rotate_left; intros)

theorem mergeTree_frame {r : Run} {groups : List Nat} {s : State} : OnlyChanges [.joi] s (mergeTree r groups s) := by
  unfold mergeTree
  repeat' first
    | with_reducible exact .refl _ _
    | (with_reducible apply OnlyChanges.step setGroup_frame; decide)
    | (with_reducible apply OnlyChanges.fold; rotate_left; intros)
    | split

theorem emptyInbox_frame {r : Run} {s : State} : OnlyChanges [.joi] s (emptyInbox r s) := setJoist_frame
theorem clearPeak_frame {b : Nat} {s : State} : OnlyChanges [.bnt] s (clearPeak b s) := setBent_frame
theorem clearTrig_frame {n : Nat} {s : State} : OnlyChanges [.bay] s (clearTrig n s) := setBay_frame
theorem clearLaserFault_frame {p : Nat} {s : State} : OnlyChanges [.net] s (clearLaserFault p s) := setPort_frame
theorem clearDegraded_frame {p : Nat} {s : State} : OnlyChanges [.net] s (clearDegraded p s) := setPort_frame
theorem clearNeigh_frame {p : Nat} {s : State} : OnlyChanges [.net] s (clearNeigh p s) := setPort_frame
theorem clearSensorDisagree_frame {s : State} : OnlyChanges [.thm] s (clearSensorDisagree s) := onThm_frame
theorem clearInletDisagree_frame {s : State} : OnlyChanges [.thm] s (clearInletDisagree s) := onThm_frame
theorem clearPllLoss_frame {s : State} : OnlyChanges [.pwr] s (clearPllLoss s) := onPwr_frame

theorem OnlyChanges.when {ps : List Part} {c : Bool} {f : State → State} {s t : State} (h : OnlyChanges ps s t)
    (hf : ∀ s, OnlyChanges ps s (f s)) : OnlyChanges ps s (when c f t) := by
  unfold Sys2Proof.Machine.when
  split
  · exact h.trans (hf _)
  · exact h

theorem writeImmediate_frame {k : Block} {off ones : Nat} {s : State} :
    OnlyChanges [.bay, .bnt, .net, .thm, .pwr] s (writeImmediate k off ones s) := by
  unfold writeImmediate
  repeat' first
    | with_reducible exact .refl _ _
    | (with_reducible apply OnlyChanges.step clearDegraded_frame; decide)
    | (with_reducible apply OnlyChanges.step clearInletDisagree_frame; decide)
    | (with_reducible apply OnlyChanges.step clearLaserFault_frame; decide)
    | (with_reducible apply OnlyChanges.step clearNeigh_frame; decide)
    | (with_reducible apply OnlyChanges.step clearPeak_frame; decide)
    | (with_reducible apply OnlyChanges.step clearPllLoss_frame; decide)
    | (with_reducible apply OnlyChanges.step clearSensorDisagree_frame; decide)
    | (with_reducible apply OnlyChanges.step clearTrig_frame; decide)
    | (with_reducible apply OnlyChanges.when; rotate_left; intros)
    | split

theorem mgmtReplyTo_frame {f : MgmtFrame} {st : Status} {s : State} : OnlyChanges [.net, .out] s (mgmtReplyTo f st s) := sendFrame_frame

theorem takeMgmt_frame {f : MgmtFrame} {s : State} : OnlyChanges [.kp, .qci, .net, .out] s (takeMgmt f s) := by
  unfold takeMgmt
  repeat' first
    | with_reducible exact .refl _ _
    | (with_reducible apply OnlyChanges.step logEvent_frame; decide)
    | (with_reducible apply OnlyChanges.step mgmtReplyTo_frame; decide)
    | (with_reducible apply OnlyChanges.step onKp_frame; decide)
    | (with_reducible apply OnlyChanges.step setSession_frame; decide)
    | split

theorem beginExit_frame {s : State} : OnlyChanges [.pwr] s (beginExit s) := onPwr_frame

theorem wake_frame {cause port : Nat} {s : State} : OnlyChanges [.pwr] s (wake cause port s) := by
  unfold wake
  dsimp only
  repeat' first
    | with_reducible exact .refl _ _
    | (with_reducible apply OnlyChanges.step beginExit_frame; decide)
    | (with_reducible apply OnlyChanges.step onPwr_frame; decide)
    | split

theorem mgmtInRetain_frame {f : MgmtFrame} {s : State} : OnlyChanges [.kp, .qci, .net, .pwr, .out] s (mgmtInRetain f s) := by
  unfold mgmtInRetain
  repeat' first
    | with_reducible exact .refl _ _
    | (with_reducible apply OnlyChanges.step logEvent_frame; decide)
    | (with_reducible apply OnlyChanges.step takeMgmt_frame; decide)
    | (with_reducible apply OnlyChanges.step wake_frame; decide)
    | split

theorem mgmtReset_frame {f : MgmtFrame} {x : Session} {s : State} : OnlyChanges [.net, .pwr, .out] s (mgmtReset f x s) := by
  unfold mgmtReset
  dsimp only
  repeat' first
    | with_reducible exact .refl _ _
    | (with_reducible apply OnlyChanges.step mgmtReplyTo_frame; decide)
    | (with_reducible apply OnlyChanges.step requestReset_frame; decide)
    | split

theorem mgmtDevice_frame {f : MgmtFrame} {x : Session} {s : State} :
    OnlyChanges [.kp, .cfg, .qci, .ten, .bay, .rack, .jig, .joi, .mem, .rfr, .ecc, .bnt, .lnk, .net, .thm, .pwr, .out] s (mgmtDevice f x s) := by
  unfold mgmtDevice
  repeat' first
    | with_reducible exact .refl _ _
    | (with_reducible apply OnlyChanges.step mgmtReplyTo_frame; decide)
    | (with_reducible apply OnlyChanges.step warmReset_frame; decide)
    | split

theorem goDark_frame {s : State} : OnlyChanges [.net] s (goDark s) := by
  unfold goDark
  repeat' first
    | with_reducible exact .refl _ _
    | (with_reducible apply OnlyChanges.step dropLink_frame; decide)
    | (with_reducible apply OnlyChanges.step setEngine_frame; decide)
    | (with_reducible apply OnlyChanges.fold; rotate_left; intros)
    | split

theorem gatePower_frame {s : State} : OnlyChanges [.bnt, .net, .pwr] s (gatePower s) := by
  unfold gatePower
  repeat' first
    | with_reducible exact .refl _ _
    | (with_reducible apply OnlyChanges.step onPwr_frame; decide)
    | (with_reducible apply OnlyChanges.step setBent_frame; decide)
    | (with_reducible apply OnlyChanges.step setEngine_frame; decide)
    | (with_reducible apply OnlyChanges.fold; rotate_left; intros)
    | split

theorem nameTenancy_frame {t : Nat} {s : State} : OnlyChanges [.pwr] s (nameTenancy t s) := by
  unfold nameTenancy
  repeat' first
    | with_reducible exact .refl _ _
    | (with_reducible apply OnlyChanges.step onPwr_frame; decide)
    | split

theorem resumeHub_frame {s : State} : OnlyChanges [.qci, .net, .pwr] s (resumeHub s) := by
  unfold resumeHub
  repeat' first
    | with_reducible exact .refl _ _
    | (with_reducible apply OnlyChanges.step lightLasers_frame; decide)
    | (with_reducible apply OnlyChanges.step onPwr_frame; decide)
    | (with_reducible apply OnlyChanges.step onQci_frame; decide)
    | (with_reducible apply OnlyChanges.step setEngine_frame; decide)
    | (with_reducible apply OnlyChanges.fold; rotate_left; intros)
    | split

theorem restoreBent_frame {b : Nat} {s : State} : OnlyChanges [.bnt] s (restoreBent b s) := by
  unfold restoreBent
  repeat' first
    | with_reducible exact .refl _ _
    | (with_reducible apply OnlyChanges.step resumeRefresh_frame; decide)
    | (with_reducible apply OnlyChanges.step setBent_frame; decide)
    | (with_reducible apply OnlyChanges.step startBent_frame; decide)
    | (with_reducible apply OnlyChanges.step startTransit_frame; decide)
    | split

theorem latchBoot_frame {p : Pkt} {s : State} : OnlyChanges [.net] s (latchBoot p s) := by
  unfold latchBoot
  repeat' first
    | with_reducible exact .refl _ _
    | (with_reducible apply OnlyChanges.step setPort_frame; decide)
    | (with_reducible apply OnlyChanges.step setQp_frame; decide)
    | split

theorem sendCnp_frame {key : Nat} {q : Qp} {s : State} : OnlyChanges [.net, .out] s (sendCnp key q s) := by
  unfold sendCnp
  repeat' first
    | with_reducible exact .refl _ _
    | (with_reducible apply OnlyChanges.step frameOut_frame; decide)
    | (with_reducible apply OnlyChanges.step setQp_frame; decide)
    | split

theorem duplicatePkt_frame {q : Qp} {p : Pkt} {s : State} : OnlyChanges [.net, .out] s (duplicatePkt q p s) := by
  unfold duplicatePkt
  dsimp only
  repeat' first
    | with_reducible exact .refl _ _
    | (with_reducible apply OnlyChanges.step frameOut_frame; decide)
    | (with_reducible apply OnlyChanges.step onNet_frame; decide)
    | (with_reducible apply OnlyChanges.step sendFrame_frame; decide)
    | (with_reducible apply OnlyChanges.fold; rotate_left; intros)
    | split

theorem sealFail_frame {p : Pkt} {s : State} : OnlyChanges [.net] s (sealFail p s) := countPort_frame

theorem accessFail_frame {p : Pkt} {s : State} : OnlyChanges [.net, .out] s (accessFail p s) := by
  unfold accessFail
  repeat' first
    | with_reducible exact .refl _ _
    | (with_reducible apply OnlyChanges.step qpError_frame; decide)
    | (with_reducible apply OnlyChanges.step sendNak_frame; decide)

theorem placeRx_frame {q : Qp} {p : Pkt} {cells : Nat} {headroom : Bool} {bents : List Nat} {s : State} :
    OnlyChanges [.net, .out] s (placeRx q p cells headroom bents s) := by
  unfold placeRx
  repeat' first
    | with_reducible exact .refl _ _
    | (with_reducible apply OnlyChanges.step checkXoff_frame; decide)
    | (with_reducible apply OnlyChanges.step onNet_frame; decide)
    | (with_reducible apply OnlyChanges.step setQp_frame; decide)
    | split

theorem bufferRx_frame {q : Qp} {p : Pkt} {bents : List Nat} {s : State} : OnlyChanges [.net, .out] s (bufferRx q p bents s) := by
  unfold bufferRx
  repeat' first
    | with_reducible exact .refl _ _
    | (with_reducible apply OnlyChanges.step countPort_frame; decide)
    | (with_reducible apply OnlyChanges.step placeRx_frame; decide)
    | (with_reducible apply OnlyChanges.step sendNak_frame; decide)
    | split

theorem windowRx_frame {q : Qp} {p : Pkt} {s : State} : OnlyChanges [.bnt, .net, .out] s (windowRx q p s) := by
  unfold windowRx
  dsimp only
  repeat' first
    | with_reducible exact .refl _ _
    | (with_reducible apply OnlyChanges.step accessFail_frame; decide)
    | (with_reducible apply OnlyChanges.step bufferRx_frame; decide)
    | (with_reducible apply OnlyChanges.step countStale_frame; decide)
    | (with_reducible apply OnlyChanges.step discard_frame; decide)
    | (with_reducible apply OnlyChanges.step placeRx_frame; decide)
    | (with_reducible apply OnlyChanges.step qpError_frame; decide)
    | (with_reducible apply OnlyChanges.step sealFail_frame; decide)
    | (with_reducible apply OnlyChanges.step sendNak_frame; decide)
    | split

theorem sequenceRx_frame {q : Qp} {p : Pkt} {s : State} : OnlyChanges [.bnt, .net, .out] s (sequenceRx q p s) := by
  unfold sequenceRx
  dsimp only
  repeat' first
    | with_reducible exact .refl _ _
    | (with_reducible apply OnlyChanges.step bufferRx_frame; decide)
    | (with_reducible apply OnlyChanges.step duplicatePkt_frame; decide)
    | (with_reducible apply OnlyChanges.step sealFail_frame; decide)
    | (with_reducible apply OnlyChanges.step sendNak_frame; decide)
    | (with_reducible apply OnlyChanges.step windowRx_frame; decide)
    | split

theorem rocePacket_frame {p : Pkt} {s : State} : OnlyChanges [.bnt, .net, .out] s (rocePacket p s) := by
  unfold rocePacket
  dsimp only
  repeat' first
    | with_reducible exact .refl _ _
    | (with_reducible apply OnlyChanges.step discard_frame; decide)
    | (with_reducible apply OnlyChanges.step frameIn_frame; decide)
    | (with_reducible apply OnlyChanges.step latchBoot_frame; decide)
    | (with_reducible apply OnlyChanges.step sendCnp_frame; decide)
    | (with_reducible apply OnlyChanges.step sequenceRx_frame; decide)
    | split

theorem setRx_frame {id : Nat} {f : RxPkt → RxPkt} {s : State} : OnlyChanges [.net] s (setRx id f s) := onNet_frame
theorem dropRx_frame {id : Nat} {s : State} : OnlyChanges [.net] s (dropRx id s) := onNet_frame

theorem loseRx_frame {r : RxPkt} {s : State} : OnlyChanges [.net] s (loseRx r s) := by
  unfold loseRx
  repeat' first
    | with_reducible exact .refl _ _
    | (with_reducible apply OnlyChanges.step dropRx_frame; decide)
    | (with_reducible apply OnlyChanges.step onNet_frame; decide)
    | (with_reducible apply OnlyChanges.step setQp_frame; decide)
    | split

theorem landRun_frame {g : Target} {inSlice : Bool} {j a : Nat} {data : List Byte} {owner : Nat} {found : List Finding} {s : State} :
    OnlyChanges [.clk, .kp, .bay, .jig, .joi, .mem, .ecc] s (landRun g inSlice j a data owner found s) := by
  unfold landRun
  dsimp only
  repeat' first
    | with_reducible exact .refl _ _
    | (with_reducible apply OnlyChanges.step haltTarget_frame; decide)
    | (with_reducible apply OnlyChanges.step meetShared_frame; decide)
    | (with_reducible apply OnlyChanges.step onMem_frame; decide)
    | (with_reducible apply OnlyChanges.step setJoist_frame; decide)
    | split

theorem landData_frame {g : Target} {p : Pkt} {owner : Nat} {found : List Finding} {s : State} :
    OnlyChanges [.clk, .kp, .bay, .jig, .joi, .mem, .ecc] s (landData g p owner found s) := by
  unfold landData
  dsimp only
  repeat' first
    | with_reducible exact .refl _ _
    | (with_reducible apply OnlyChanges.foldPair; rotate_left; intros)
    | (with_reducible apply OnlyChanges.step landRun_frame; decide)
    | (with_reducible apply OnlyChanges.step voidBay_frame; decide)
    | split

theorem refuseRx_frame {r : RxPkt} {q : Qp} {s : State} : OnlyChanges [.net, .out] s (refuseRx r q s) := by
  unfold refuseRx
  repeat' first
    | with_reducible exact .refl _ _
    | (with_reducible apply OnlyChanges.step dropRx_frame; decide)
    | (with_reducible apply OnlyChanges.step freeCells_frame; decide)
    | (with_reducible apply OnlyChanges.step sendNak_frame; decide)

theorem framerStops_frame {found : List Finding} {s : State} :
    OnlyChanges [.kp, .cfg, .qci, .bay, .rack, .jig, .joi, .mem, .net, .pwr, .out] s (framerStops found s) := by
  unfold framerStops
  repeat' first
    | with_reducible exact .refl _ _
    | (with_reducible apply OnlyChanges.step enterFailed_frame; decide)
    | (with_reducible apply OnlyChanges.step onQci_frame; decide)
    | split

theorem writeRx_frame {r : RxPkt} {q : Qp} {found : List Finding} {s : State} :
    OnlyChanges [.clk, .kp, .cfg, .qci, .bay, .rack, .jig, .joi, .mem, .ecc, .net, .pwr, .out] s (writeRx r q found s) := by
  unfold writeRx
  dsimp only
  repeat' first
    | with_reducible exact .refl _ _
    | (with_reducible apply OnlyChanges.step framerStops_frame; decide)
    | (with_reducible apply OnlyChanges.step landData_frame; decide)
    | (with_reducible apply OnlyChanges.step loseRx_frame; decide)
    | (with_reducible apply OnlyChanges.step meetShared_frame; decide)
    | (with_reducible apply OnlyChanges.step refuseRx_frame; decide)
    | (with_reducible apply OnlyChanges.step setRx_frame; decide)
    | (with_reducible apply OnlyChanges.step storeSlots_frame; decide)
    | split

theorem readRx_frame {r : RxPkt} {q : Qp} {found : List Finding} {s : State} :
    OnlyChanges [.clk, .kp, .cfg, .qci, .bay, .rack, .jig, .joi, .mem, .ecc, .net, .pwr, .out] s (readRx r q found s) := by
  unfold readRx
  dsimp only
  repeat' first
    | with_reducible exact .refl _ _
    | (with_reducible apply OnlyChanges.step accessFail_frame; decide)
    | (with_reducible apply OnlyChanges.step dropRx_frame; decide)
    | (with_reducible apply OnlyChanges.step framerStops_frame; decide)
    | (with_reducible apply OnlyChanges.step haltTarget_frame; decide)
    | (with_reducible apply OnlyChanges.step loseRx_frame; decide)
    | (with_reducible apply OnlyChanges.step meetShared_frame; decide)
    | (with_reducible apply OnlyChanges.step respondAll_frame; decide)
    | (with_reducible apply OnlyChanges.step sendNak_frame; decide)
    | split

theorem retireRx_frame {id : Nat} {s : State} : OnlyChanges [.net] s (retireRx id s) := onNet_frame

theorem deliver_frame {r : RxPkt} {q : Qp} {s : State} : OnlyChanges [.net, .out] s (deliver r q s) := by
  unfold deliver
  repeat' first
    | with_reducible exact .refl _ _
    | (with_reducible apply OnlyChanges.step checkXon_frame; decide)
    | (with_reducible apply OnlyChanges.step freeCells_frame; decide)
    | (with_reducible apply OnlyChanges.step retireRx_frame; decide)
    | (with_reducible apply OnlyChanges.step sendAck_frame; decide)
    | (with_reducible apply OnlyChanges.step setQp_frame; decide)
    | (with_reducible apply OnlyChanges.step setRx_frame; decide)
    | split

theorem arrive_frame {r : RxPkt} {q : Qp} {s : State} : OnlyChanges [.bay, .jig, .net] s (arrive r q s) := by
  unfold arrive
  repeat' first
    | with_reducible exact .refl _ _
    | (with_reducible apply OnlyChanges.step closeTransfer_frame; decide)
    | (with_reducible apply OnlyChanges.step retireRx_frame; decide)
    | (with_reducible apply OnlyChanges.step setRx_frame; decide)
    | split

theorem takeReturn_frame {t k : Nat} {p : Pkt} {s : State} : OnlyChanges [.clk, .jig, .bnt, .net, .out] s (takeReturn t k p s) := by
  unfold takeReturn
  repeat' first
    | with_reducible exact .refl _ _
    | (with_reducible apply OnlyChanges.step flushAll_frame; decide)
    | (with_reducible apply OnlyChanges.step setPeer_frame; decide)
    | split

theorem freeStore_frame {key psn : Nat} {responses : Bool} {s : State} : OnlyChanges [.net] s (freeStore key psn responses s) := onNet_frame
theorem ackFrame_frame {key further : Nat} {s : State} : OnlyChanges [.net] s (ackFrame key further s) := frameIn_frame
theorem resendFrom_frame {key psn : Nat} {s : State} : OnlyChanges [.net, .out] s (resendFrom key psn s) :=
  foldl_frame _ (fun _ _ => frameOut_frame) _ _

theorem takeNak_frame {key psn kind : Nat} {s : State} : OnlyChanges [.clk, .qci, .jig, .bnt, .net, .out] s (takeNak key psn kind s) := by
  unfold takeNak
  repeat' first
    | with_reducible exact .refl _ _
    | (with_reducible apply OnlyChanges.step countPort_frame; decide)
    | (with_reducible apply OnlyChanges.step failQp_frame; decide)
    | (with_reducible apply OnlyChanges.step flushAll_frame; decide)
    | (with_reducible apply OnlyChanges.step freeStore_frame; decide)
    | (with_reducible apply OnlyChanges.step resendFrom_frame; decide)
    | split

theorem ackTimedOut_frame {key : Nat} {p : TxPkt} {s : State} :
    OnlyChanges [.clk, .qci, .jig, .bnt, .net, .out] s (ackTimedOut key p s) := by
  unfold ackTimedOut
  repeat' first
    | with_reducible exact .refl _ _
    | (with_reducible apply OnlyChanges.step failQp_frame; decide)
    | (with_reducible apply OnlyChanges.step onNet_frame; decide)
    | (with_reducible apply OnlyChanges.step resendFrom_frame; decide)
    | split

theorem dropQueued_frame {l : List Finding} {s : State} : OnlyChanges [.mem] s (dropQueued l s) := onMem_frame

theorem scrubVisit_frame {joist bank : Nat} {found : List Finding} {s : State} :
    OnlyChanges [.clk, .kp, .jig, .joi, .mem, .ecc, .bnt] s (scrubVisit joist bank found s) := by
  unfold scrubVisit
  dsimp only
  repeat' first
    | with_reducible exact .refl _ _
    | (with_reducible apply OnlyChanges.step dropQueued_frame; decide)
    | (with_reducible apply OnlyChanges.step meetAll_frame; decide)
    | (with_reducible apply OnlyChanges.step onEcc_frame; decide)
    | (with_reducible apply OnlyChanges.step poisonRow_frame; decide)
    | (with_reducible apply OnlyChanges.step setBent_frame; decide)
    | (with_reducible apply OnlyChanges.step voidBank_frame; decide)
    | split

theorem leaveToReset_frame {r : Remap} {s : State} : OnlyChanges [.kp] s (leaveToReset r s) := onKp_frame

theorem copyAtBoundary_frame {r : Remap} {found : List Finding} {s : State} :
    OnlyChanges [.clk, .kp, .jig, .joi, .mem, .rfr, .ecc] s (copyAtBoundary r found s) := by
  unfold copyAtBoundary
  repeat' first
    | with_reducible exact .refl _ _
    | (with_reducible apply OnlyChanges.step copyRow_frame; decide)
    | (with_reducible apply OnlyChanges.step setRefresh_frame; decide)

theorem runPending_frame {bents : List Nat} {s : State} : OnlyChanges [.clk, .kp, .jig, .joi, .mem, .ecc] s (runPending bents s) :=
  foldl_frame _ (fun _ _ => copyRow_frame) _ _

theorem logBroken_frame {site sensor : Nat} {was : Bool} {cause : Option Nat} {s : State} :
    OnlyChanges [.kp, .thm] s (logBroken site sensor was cause s) := by
  unfold logBroken
  repeat' first
    | with_reducible exact .refl _ _
    | (with_reducible apply OnlyChanges.step logEvent_frame; decide)
    | (with_reducible apply OnlyChanges.step onThm_frame; decide)
    | split

theorem sampleSite_frame {r : SiteReading} {s : State} : OnlyChanges [.kp, .thm] s (sampleSite r s) := by
  unfold sampleSite
  dsimp only
  repeat' first
    | with_reducible exact .refl _ _
    | (with_reducible apply OnlyChanges.step logBroken_frame; decide)
    | (with_reducible apply OnlyChanges.step logEvent_frame; decide)
    | (with_reducible apply OnlyChanges.step onThm_frame; decide)
    | (with_reducible apply OnlyChanges.step setSite_frame; decide)
    | split

theorem setInterval_frame {g : Nat} {distance : Int} {s : State} : OnlyChanges [.thm] s (setInterval g distance s) := onThm_frame
theorem countCycle_frame {b : Nat} {s : State} : OnlyChanges [.kp] s (countCycle b s) := onKp_frame

theorem tripBent_frame {b : Nat} {at_ : Nat × Int} {s : State} : OnlyChanges [.kp, .jig, .joi, .rfr, .bnt, .pwr] s (tripBent b at_ s) := by
  unfold tripBent
  dsimp only
  repeat' first
    | with_reducible exact .refl _ _
    | (with_reducible apply OnlyChanges.step alertOn_frame; decide)
    | (with_reducible apply OnlyChanges.step beginTrip_frame; decide)
    | (with_reducible apply OnlyChanges.step logEvent_frame; decide)
    | (with_reducible apply OnlyChanges.step noteSteps_frame; decide)
    | (with_reducible apply OnlyChanges.step onKp_frame; decide)
    | (with_reducible apply OnlyChanges.step onPwr_frame; decide)
    | (with_reducible apply OnlyChanges.step selfRefresh_frame; decide)
    | (with_reducible apply OnlyChanges.step setBent_frame; decide)
    | (with_reducible apply OnlyChanges.step stopBent_frame; decide)
    | (with_reducible apply OnlyChanges.step syncPegs_frame; decide)
    | split

theorem sampleBent_frame {b : Nat} {s : State} : OnlyChanges [.kp, .jig, .joi, .rfr, .bnt, .thm, .pwr] s (sampleBent b s) := by
  unfold sampleBent
  dsimp only
  repeat' first
    | with_reducible exact .refl _ _
    | (with_reducible apply OnlyChanges.step countCycle_frame; decide)
    | (with_reducible apply OnlyChanges.step noteSteps_frame; decide)
    | (with_reducible apply OnlyChanges.step setBent_frame; decide)
    | (with_reducible apply OnlyChanges.step setInterval_frame; decide)
    | (with_reducible apply OnlyChanges.step syncPegs_frame; decide)
    | (with_reducible apply OnlyChanges.step tripBent_frame; decide)
    | split

theorem cutReset_frame {r : PReset} {s : State} :
    OnlyChanges [.kp, .cfg, .qci, .bay, .rack, .jig, .joi, .mem, .bnt, .net, .out] s (cutReset r s) := by
  unfold cutReset
  repeat' first
    | with_reducible exact .refl _ _
    | (with_reducible apply OnlyChanges.step finish_frame; decide)
    | (with_reducible apply OnlyChanges.step setBent_frame; decide)
    | (with_reducible apply OnlyChanges.fold; rotate_left; intros)

theorem cutMargin_frame {b : Nat} {s : State} :
    OnlyChanges [.kp, .cfg, .qci, .bay, .rack, .jig, .joi, .mem, .bnt, .net, .out] s (cutMargin b s) := by
  unfold cutMargin
  repeat' first
    | with_reducible exact .refl _ _
    | (with_reducible apply OnlyChanges.step finish_frame; decide)
    | (with_reducible apply OnlyChanges.step setBent_frame; decide)
    | split

theorem stopAll_frame {s : State} :
    OnlyChanges [.kp, .cfg, .qci, .bay, .rack, .jig, .joi, .mem, .rfr, .bnt, .net, .pwr, .out] s (stopAll s) := by
  unfold stopAll
  repeat' first
    | with_reducible exact .refl _ _
    | (with_reducible apply OnlyChanges.step cutMargin_frame; decide)
    | (with_reducible apply OnlyChanges.step cutReset_frame; decide)
    | (with_reducible apply OnlyChanges.step endAllSteps_frame; decide)
    | (with_reducible apply OnlyChanges.step onPwr_frame; decide)
    | (with_reducible apply OnlyChanges.step selfRefresh_frame; decide)
    | (with_reducible apply OnlyChanges.step stopBent_frame; decide)
    | (with_reducible apply OnlyChanges.step stopTransit_frame; decide)
    | (with_reducible apply OnlyChanges.fold; rotate_left; intros)

theorem drop_frame {s : State} : OnlyChanges [.kp, .cfg, .qci, .bay, .rack, .jig, .joi, .mem, .rfr, .bnt, .net, .pwr, .out] s (drop s) := by
  unfold drop
  repeat' first
    | with_reducible exact .refl _ _
    | (with_reducible apply OnlyChanges.step onKp_frame; decide)
    | (with_reducible apply OnlyChanges.step onPwr_frame; decide)
    | (with_reducible apply OnlyChanges.step stopAll_frame; decide)
    | split

theorem tripHub_frame {s : State} :
    OnlyChanges [.kp, .cfg, .qci, .bay, .rack, .jig, .joi, .mem, .rfr, .bnt, .net, .thm, .pwr, .out] s (tripHub s) := by
  unfold tripHub
  repeat' first
    | with_reducible exact .refl _ _
    | (with_reducible apply OnlyChanges.step onKp_frame; decide)
    | (with_reducible apply OnlyChanges.step onPwr_frame; decide)
    | (with_reducible apply OnlyChanges.step onThm_frame; decide)
    | (with_reducible apply OnlyChanges.step stopAll_frame; decide)
    | split

theorem sampleHub_frame {s : State} :
    OnlyChanges [.kp, .cfg, .qci, .bay, .rack, .jig, .joi, .mem, .rfr, .bnt, .net, .thm, .pwr, .out] s (sampleHub s) := by
  unfold sampleHub
  dsimp only
  repeat' first
    | with_reducible exact .refl _ _
    | (with_reducible apply OnlyChanges.step alertOff_frame; decide)
    | (with_reducible apply OnlyChanges.step alertOn_frame; decide)
    | (with_reducible apply OnlyChanges.step onThm_frame; decide)
    | (with_reducible apply OnlyChanges.step setInterval_frame; decide)
    | (with_reducible apply OnlyChanges.step tripHub_frame; decide)
    | split

theorem tripEngine_frame {e : Nat} {s : State} : OnlyChanges [.net] s (tripEngine e s) := by
  unfold tripEngine
  repeat' first
    | with_reducible exact .refl _ _
    | (with_reducible apply OnlyChanges.step dropEnginePorts_frame; decide)
    | (with_reducible apply OnlyChanges.step setEngine_frame; decide)
    | split

theorem sampleEngine_frame {e : Nat} {s : State} : OnlyChanges [.net, .thm, .pwr] s (sampleEngine e s) := by
  unfold sampleEngine
  dsimp only
  repeat' first
    | with_reducible exact .refl _ _
    | (with_reducible apply OnlyChanges.step alertOff_frame; decide)
    | (with_reducible apply OnlyChanges.step alertOn_frame; decide)
    | (with_reducible apply OnlyChanges.step setEngine_frame; decide)
    | (with_reducible apply OnlyChanges.step setInterval_frame; decide)
    | (with_reducible apply OnlyChanges.step tripEngine_frame; decide)
    | split

theorem sampleKeeper_frame {s : State} :
    OnlyChanges [.kp, .cfg, .qci, .ten, .bay, .rack, .jig, .joi, .mem, .rfr, .ecc, .bnt, .lnk, .net, .thm, .pwr] s (sampleKeeper s) := by
  unfold sampleKeeper
  dsimp only
  repeat' first
    | with_reducible exact .refl _ _
    | (with_reducible apply OnlyChanges.step alertOff_frame; decide)
    | (with_reducible apply OnlyChanges.step alertOn_frame; decide)
    | (with_reducible apply OnlyChanges.step holdDies_frame; decide)
    | (with_reducible apply OnlyChanges.step onKp_frame; decide)
    | (with_reducible apply OnlyChanges.step onPwr_frame; decide)
    | (with_reducible apply OnlyChanges.step onThm_frame; decide)
    | (with_reducible apply OnlyChanges.step setInterval_frame; decide)
    | split

theorem judgeGroups_frame {ids : List Nat} {s : State} :
    OnlyChanges [.kp, .cfg, .qci, .ten, .bay, .rack, .jig, .joi, .mem, .rfr, .ecc, .bnt, .lnk, .net, .thm, .pwr, .out] s (judgeGroups ids s) := by
  unfold judgeGroups
  repeat' first
    | with_reducible exact .refl _ _
    | (with_reducible apply OnlyChanges.step sampleBent_frame; decide)
    | (with_reducible apply OnlyChanges.step sampleEngine_frame; decide)
    | (with_reducible apply OnlyChanges.step sampleHub_frame; decide)
    | (with_reducible apply OnlyChanges.step sampleKeeper_frame; decide)
    | (with_reducible apply OnlyChanges.fold; rotate_left; intros)
    | split

theorem restartSeries_frame {cx : Cmd} {s : State} : OnlyChanges [.qci] s (restartSeries cx s) := by
  unfold restartSeries
  repeat' first
    | with_reducible exact .refl _ _
    | (with_reducible apply OnlyChanges.step putSession_frame; decide)
    | split

theorem showStage_frame {step bay : Nat} {s : State} : OnlyChanges [.clk, .bay, .bnt] s (showStage step bay s) := by
  unfold showStage
  repeat' first
    | with_reducible exact .refl _ _
    | (with_reducible apply OnlyChanges.step setBay_frame; decide)
    | split

theorem enterStage_frame {r : Run} {a : Active} {s : State} : OnlyChanges [.clk, .bay, .jig, .bnt] s (enterStage r a s) := by
  unfold enterStage
  repeat' first
    | with_reducible exact .refl _ _
    | (with_reducible apply OnlyChanges.step setStep_frame; decide)
    | (with_reducible apply OnlyChanges.step showStage_frame; decide)

theorem sendSection_frame {j : Nat} {s : State} : OnlyChanges [.out] s (sendSection j s) := foldl_frame _ (fun _ _ => sendUcode_frame) _ _

theorem markReload_frame {found : List Finding} {s : State} : OnlyChanges [.joi, .out] s (markReload found s) := by
  unfold markReload
  repeat' first
    | with_reducible exact .refl _ _
    | (with_reducible apply OnlyChanges.step sendSection_frame; decide)
    | (with_reducible apply OnlyChanges.step setJoist_frame; decide)
    | (with_reducible apply OnlyChanges.fold; rotate_left; intros)

theorem haltBayDma_frame {bay : Nat} {s : State} : OnlyChanges [.bay] s (haltBayDma bay s) := setBay_frame

theorem runStage_frame {ps : List Part} {r : Run} {f : State → State × Active} {s : State} (hf : ∀ s, OnlyChanges ps s (f s).1)
    (hp : ∀ p, p ∈ [Part.clk, .kp, .cfg, .qci, .bay, .rack, .jig, .joi, .mem, .ecc, .bnt, .net, .pwr, .out] → p ∈ ps) :
    OnlyChanges ps s (runStage r f s) := by
  have hm : OnlyChanges ps s (meetStage r.x.id (mine r r.found) (startCapture r s)) :=
    OnlyChanges.mono (ps := [.clk, .kp, .cfg, .qci, .bay, .rack, .jig, .joi, .mem, .ecc, .bnt, .net, .pwr, .out])
      ((startCapture_frame.mono (by decide)).trans (meetStage_frame.mono (by decide))) hp
  unfold runStage
  dsimp only
  split
  · exact hm.trans (framerStops_frame.mono (fun p h => hp p (by revert p; decide)))
  · split
    · exact (hm.trans (markReload_frame.mono (fun p h => hp p (by revert p; decide)))).trans
        (enterStage_frame.mono (fun p h => hp p (by revert p; decide)))
    · exact (hm.trans (hf _)).trans (enterStage_frame.mono (fun p h => hp p (by revert p; decide)))

theorem captureClose_frame {d : StatsDesc} {j : Nat} {g : Group} {s : State} : OnlyChanges [.joi] s (captureClose d j g s) := by
  unfold captureClose
  repeat' first
    | with_reducible exact .refl _ _
    | (with_reducible apply OnlyChanges.step capAdd_frame; decide)
    | (with_reducible apply OnlyChanges.step capMax_frame; decide)
    | split

theorem captureRun_frame {r : Run} {closed : List (Nat × Group)} {s : State} : OnlyChanges [.joi] s (captureRun r closed s) := by
  unfold captureRun
  repeat' first
    | with_reducible exact .refl _ _
    | (with_reducible apply OnlyChanges.step captureClose_frame; decide)
    | (with_reducible apply OnlyChanges.step clearCapture_frame; decide)
    | (with_reducible apply OnlyChanges.fold; rotate_left; intros)
    | split

theorem placeShare_frame {r : Run} {ti j b : Nat} {data : List Byte} {poison : Bool} {s : State} :
    OnlyChanges [.joi, .mem] s (placeShare r ti j b data poison s) := by
  unfold placeShare
  repeat' first
    | with_reducible exact .refl _ _
    | (with_reducible apply OnlyChanges.step onMem_frame; decide)
    | (with_reducible apply OnlyChanges.step stampJoist_frame; decide)

theorem freshOut_frame {r : Run} {ti n : Nat} {s : State} : OnlyChanges [.mem] s (freshOut r ti n s) := onMem_frame
theorem cacheLines_frame {path : Nat → PortPath} {isWrite : Bool} {r : Run} {ti : Nat} {s : State} :
    OnlyChanges [.joi] s (cacheLines path isWrite r ti s) := onJoi_frame
theorem throughCache_frame {own : PortPath} {isWrite : Bool} {r : Run} {ti : Nat} {s : State} :
    OnlyChanges [.joi] s (throughCache own isWrite r ti s) := cacheLines_frame

theorem holdTrusses_frame {js : List Nat} {s : State} : OnlyChanges [.clk, .joi] s (holdTrusses js s) := by
  unfold holdTrusses
  repeat' first
    | with_reducible exact .refl _ _
    | (with_reducible apply OnlyChanges.step setJoist_frame; decide)
    | (with_reducible apply OnlyChanges.step spend_frame; decide)
    | (with_reducible apply OnlyChanges.fold; rotate_left; intros)

theorem useVectors_frame {js : List Nat} {s : State} : OnlyChanges [.clk, .joi] s (useVectors js s) := by
  unfold useVectors
  repeat' first
    | with_reducible exact .refl _ _
    | (with_reducible apply OnlyChanges.step setJoist_frame; decide)
    | (with_reducible apply OnlyChanges.step spend_frame; decide)
    | (with_reducible apply OnlyChanges.fold; rotate_left; intros)

theorem storeParts_frame {j : Nat} {l : List (Nat × List Byte)} {s : State} : OnlyChanges [.mem] s (storeParts j l s) :=
  foldl_frame _ (fun _ _ => storeBench_frame) _ _

theorem scrambleState_frame {js : List Nat} {d : AttDesc} {s : State} : OnlyChanges [.clk, .mem] s (scrambleState js d s) := by
  unfold scrambleState
  repeat' first
    | with_reducible exact .refl _ _
    | (with_reducible apply OnlyChanges.step spend_frame; decide)
    | (with_reducible apply OnlyChanges.step storeBench_frame; decide)
    | (with_reducible apply OnlyChanges.fold; rotate_left; intros)

theorem copyWords_frame {j : Nat} {fromSlice : Bool} {src a n : Nat} {s : State} :
    OnlyChanges [.mem] s (copyWords j fromSlice src a n s) := foldl_frame _ (fun _ _ => onMem_frame) _ _
theorem stagingFound_frame {found : List Finding} {j b n : Nat} {s : State} : OnlyChanges [.mem] s (stagingFound found j b n s) :=
  foldl_frame _ (fun _ _ => markUnit_frame) _ _
theorem dropRow_frame {j a : Nat} {s : State} : OnlyChanges [.joi] s (dropRow j a s) := onJoi_frame
theorem stageWords_frame {m : Mem} {t : Tensor} {j b n a : Nat} {s : State} : OnlyChanges [.mem] s (stageWords m t j b n a s) :=
  foldl_frame _ (fun _ _ => storeBench_frame) _ _

theorem stageRun_frame {m : Mem} {r : Run} {d : MatDesc} {j n : Nat} {e : Nat × Nat} {s : State} :
    OnlyChanges [.mem] s (stageRun m r d j n e s) := by
  unfold stageRun
  dsimp only
  repeat' first
    | with_reducible exact .refl _ _
    | (with_reducible apply OnlyChanges.step stageWords_frame; decide)
    | split

theorem commitLengths_frame {y : Bay} {x : Step} {s : State} : OnlyChanges [.bay, .rack, .joi, .mem] s (commitLengths y x s) := by
  unfold commitLengths
  repeat' first
    | with_reducible exact .refl _ _
    | (with_reducible apply OnlyChanges.step putRecord_frame; decide)
    | (with_reducible apply OnlyChanges.fold; rotate_left; intros)
    | split

theorem settleGrant_frame {y : Bay} {x : Step} {s : State} : OnlyChanges [.bay, .rack, .jig, .joi, .mem] s (settleGrant y x s) := by
  unfold settleGrant
  repeat' first
    | with_reducible exact .refl _ _
    | (with_reducible apply OnlyChanges.step commitLengths_frame; decide)
    | (with_reducible apply OnlyChanges.step dropGrant_frame; decide)
    | (with_reducible apply OnlyChanges.step releasePages_frame; decide)
    | split

theorem completeStep_frame {y : Bay} {x : Step} {s : State} :
    OnlyChanges [.kp, .cfg, .qci, .bay, .rack, .jig, .joi, .mem, .net, .out] s (completeStep y x s) := by
  unfold completeStep
  repeat' first
    | with_reducible exact .refl _ _
    | (with_reducible apply OnlyChanges.step dropPins_frame; decide)
    | (with_reducible apply OnlyChanges.step dropStep_frame; decide)
    | (with_reducible apply OnlyChanges.step finish_frame; decide)
    | (with_reducible apply OnlyChanges.step freeClosed_frame; decide)
    | (with_reducible apply OnlyChanges.step setBay_frame; decide)
    | (with_reducible apply OnlyChanges.step settleGrant_frame; decide)

theorem unpinStage_frame {ix : Nat} {x : Step} {s : State} : OnlyChanges [.rack, .jig] s (unpinStage ix x s) := by
  unfold unpinStage
  repeat' first
    | with_reducible exact .refl _ _
    | (with_reducible apply OnlyChanges.step setStep_frame; decide)
    | (with_reducible apply OnlyChanges.step unpinPages_frame; decide)

theorem endStage_frame {a : Active} {x : Step} {s : State} : OnlyChanges [.clk, .qci, .bay, .rack, .jig, .bnt] s (endStage a x s) := by
  unfold endStage
  repeat' first
    | with_reducible exact .refl _ _
    | (with_reducible apply OnlyChanges.step onQci_frame; decide)
    | (with_reducible apply OnlyChanges.step setBay_frame; decide)
    | (with_reducible apply OnlyChanges.step setStep_frame; decide)
    | (with_reducible apply OnlyChanges.step showStage_frame; decide)
    | (with_reducible apply OnlyChanges.step unpinStage_frame; decide)

theorem stepDeadline_frame {x : Step} {s : State} :
    OnlyChanges [.clk, .kp, .bay, .rack, .jig, .joi, .mem, .ecc, .bnt, .net, .pwr] s (stepDeadline x s) := by
  unfold stepDeadline
  dsimp only
  repeat' first
    | with_reducible exact .refl _ _
    | (with_reducible apply OnlyChanges.step requestReset_frame; decide)
    | (with_reducible apply OnlyChanges.step shelveStep_frame; decide)
    | (with_reducible apply OnlyChanges.step tearStep_frame; decide)
    | split

theorem lateDeadline_frame {session seq : Nat} {s : State} : OnlyChanges [.pwr] s (lateDeadline session seq s) := onPwr_frame

theorem marginDeadline_frame {cx : Cmd} {s : State} :
    OnlyChanges [.kp, .cfg, .qci, .bay, .rack, .jig, .joi, .mem, .bnt, .net, .pwr, .out] s (marginDeadline cx s) := by
  unfold marginDeadline
  repeat' first
    | with_reducible exact .refl _ _
    | (with_reducible apply OnlyChanges.step finish_frame; decide)
    | (with_reducible apply OnlyChanges.step requestReset_frame; decide)
    | (with_reducible apply OnlyChanges.step setBent_frame; decide)
    | (with_reducible apply OnlyChanges.fold; rotate_left; intros)
    | split

theorem expire_frame {t : Taken} {s : State} :
    OnlyChanges [.clk, .kp, .cfg, .qci, .bay, .rack, .jig, .joi, .mem, .ecc, .bnt, .net, .pwr, .out] s (expire t s) := by
  unfold expire
  repeat' first
    | with_reducible exact .refl _ _
    | (with_reducible apply OnlyChanges.step abandon_frame; decide)
    | (with_reducible apply OnlyChanges.step finish_frame; decide)
    | (with_reducible apply OnlyChanges.step lateDeadline_frame; decide)
    | (with_reducible apply OnlyChanges.step marginDeadline_frame; decide)
    | (with_reducible apply OnlyChanges.step stepDeadline_frame; decide)
    | split

theorem clearTenantJoists_frame {js : List Nat} {s : State} : OnlyChanges [.joi, .mem] s (clearTenantJoists js s) := by
  unfold clearTenantJoists
  repeat' first
    | with_reducible exact .refl _ _
    | (with_reducible apply OnlyChanges.step onJoi_frame; decide)
    | (with_reducible apply OnlyChanges.step onMem_frame; decide)

theorem dropTenantHub_frame {t : Nat} {s : State} : OnlyChanges [.qci, .bay, .net] s (dropTenantHub t s) := by
  unfold dropTenantHub
  repeat' first
    | with_reducible exact .refl _ _
    | (with_reducible apply OnlyChanges.step onBay_frame; decide)
    | (with_reducible apply OnlyChanges.step onNet_frame; decide)
    | (with_reducible apply OnlyChanges.step onQci_frame; decide)
    | (with_reducible apply OnlyChanges.step putBinding_frame; decide)
    | (with_reducible apply OnlyChanges.step putJob_frame; decide)

theorem dropTenantFlags_frame {s : State} : OnlyChanges [.kp] s (dropTenantFlags s) := by
  unfold dropTenantFlags
  repeat' first
    | with_reducible exact .refl _ _
    | (with_reducible apply OnlyChanges.step onKp_frame; decide)
    | split

theorem zeroiseTenancy_frame {t : Nat} {s : State} :
    OnlyChanges [.clk, .kp, .cfg, .qci, .ten, .bay, .rack, .jig, .joi, .mem, .ecc, .net, .out] s (zeroiseTenancy t s) := by
  unfold zeroiseTenancy
  repeat' first
    | with_reducible exact .refl _ _
    | (with_reducible apply OnlyChanges.step buryKey_frame; decide)
    | (with_reducible apply OnlyChanges.step clearTenantJoists_frame; decide)
    | (with_reducible apply OnlyChanges.step dropTenantFlags_frame; decide)
    | (with_reducible apply OnlyChanges.step dropTenantHub_frame; decide)
    | (with_reducible apply OnlyChanges.step endSession_frame; decide)
    | (with_reducible apply OnlyChanges.step onMem_frame; decide)
    | (with_reducible apply OnlyChanges.step putTenancy_frame; decide)
    | (with_reducible apply OnlyChanges.step releaseBay_frame; decide)
    | (with_reducible apply OnlyChanges.fold; rotate_left; intros)

theorem judgeCooling_frame {s : State} : OnlyChanges [.thm] s (judgeCooling s) := onThm_frame

theorem putBaseline_frame {v : Nat} {s : State} : OnlyChanges [.kp, .thm] s (putBaseline v s) := by
  unfold putBaseline
  repeat' first
    | with_reducible exact .refl _ _
    | (with_reducible apply OnlyChanges.step judgeCooling_frame; decide)
    | (with_reducible apply OnlyChanges.step onKp_frame; decide)

theorem tick_frame {s : State} : OnlyChanges [.clk, .bnt] s (tick s) := by
  unfold tick
  repeat' first
    | with_reducible exact .refl _ _
    | (with_reducible apply OnlyChanges.step onClk_frame; decide)
    | (with_reducible apply OnlyChanges.step setBent_frame; decide)
    | (with_reducible apply OnlyChanges.fold; rotate_left; intros)
    | split

theorem toCloseBuf_frame {j : Nat} {g : Group} {s : State} : OnlyChanges [.joi] s (toCloseBuf j g s) := setJoist_frame
theorem fromCloseBuf_frame {j n : Nat} {s : State} : OnlyChanges [.joi] s (fromCloseBuf j n s) := setJoist_frame

theorem markTaken_frame {i : Nat} {x : Session} {c : SlotCopy} {s : State} : OnlyChanges [.qci] s (markTaken i x c s) := by
  unfold markTaken
  repeat' first
    | with_reducible exact .refl _ _
    | (with_reducible apply OnlyChanges.step onQci_frame; decide)
    | (with_reducible apply OnlyChanges.step putSession_frame; decide)

theorem slotLanded_frame {w : SlotWrite} {s : State} : OnlyChanges [.qci] s (slotLanded w s) := storeSlots_frame

end Sys2Proof.Machine
end

