-- ==== Sys2Proof/Laws/Kept.lean ====
section
/-! SUPPORT. The operations that write a memory keep its canonical form: one lemma for each operation that can change the memories,
from one joist's write to a stage, a reset or a bring-up stage. -/

namespace Sys2Proof.Machine

-- one proof after another: each proof in a thread of its own takes more memory than the check allows
set_option Elab.async false

/-- What does not change the memories keeps their form. -/
theorem OnlyChanges.keeps {qs : List Part} {t u : State} (k : OnlyChanges qs t u) (hm : Part.mem ∉ qs) (h : MemoryKept t) :
    MemoryKept u := k.kept h hm

theorem MemoryKept.fold {β : Type} {f : State → β → State} {l : List β} {s : State} (h : MemoryKept s)
    (hf : ∀ s b, MemoryKept s → MemoryKept (f s b)) : MemoryKept (l.foldl f s) := foldl_kept f hf l h

theorem MemoryKept.foldPair {β γ : Type} {f : State × γ → β → State × γ} {l : List β} {a : State × γ} (h : MemoryKept a.1)
    (hf : ∀ a b, MemoryKept a.1 → MemoryKept (f a b).1) : MemoryKept (l.foldl f a).1 := by
  induction l generalizing a with
  | nil => exact h
  | cons b l ih => exact ih (hf a b h)

theorem MemoryKept.when {c : Bool} {f : State → State} {s : State} (h : MemoryKept s)
    (hf : ∀ s, MemoryKept s → MemoryKept (f s)) : MemoryKept (when c f s) := by
  unfold Sys2Proof.Machine.when
  split
  · exact hf _ h
  · exact h

theorem loseLine_kept {f : Finding} {s : State} (h : MemoryKept s) : MemoryKept (loseLine f s) := by
  unfold loseLine
  repeat' first
    | with_reducible assumption
    | (with_reducible apply OnlyChanges.keeps onJoi_frame; decide)
    | split
    | refine onMem_kept ?_ (fun m hm => hm)

theorem markUnit_kept {f : Finding} {v : Nat} {s : State} (h : MemoryKept s) : MemoryKept (markUnit f v s) := by
  unfold markUnit
  repeat' first
    | with_reducible assumption
    | split
    | refine onMem_kept ?_ (fun m hm => hm)

theorem queueCe2_kept {f : Finding} {s : State} (h : MemoryKept s) : MemoryKept (queueCe2 f s) := by
  unfold queueCe2
  repeat' first
    | with_reducible assumption
    | split
    | refine onMem_kept ?_ (fun m hm => hm)

theorem meet_kept {f : Finding} {s : State} (h : MemoryKept s) : MemoryKept (meet f s) := by
  unfold meet
  dsimp only
  repeat' first
    | with_reducible assumption
    | (with_reducible apply OnlyChanges.keeps countCe_frame; decide)
    | (with_reducible apply OnlyChanges.keeps countPoison_frame; decide)
    | (with_reducible apply OnlyChanges.keeps countUe_frame; decide)
    | (with_reducible apply OnlyChanges.keeps eccLog_frame; decide)
    | (with_reducible apply OnlyChanges.keeps logEvent_frame; decide)
    | (with_reducible apply OnlyChanges.keeps noteCe2_frame; decide)
    | (with_reducible apply OnlyChanges.keeps queueWord_frame; decide)
    | (with_reducible apply OnlyChanges.keeps scheduleRemap_frame; decide)
    | (with_reducible apply OnlyChanges.keeps spend_frame; decide)
    | with_reducible apply loseLine_kept
    | with_reducible apply markUnit_kept
    | with_reducible apply queueCe2_kept
    | split

theorem meetAll_kept {fs : List Finding} {s : State} (h : MemoryKept s) : MemoryKept (meetAll fs s) := by
  unfold meetAll
  repeat' first
    | with_reducible assumption
    | with_reducible apply meet_kept
    | (with_reducible apply MemoryKept.fold; rotate_left; intros)

theorem poisonRow_kept {joist bank row : Nat} {s : State} (h : MemoryKept s) : MemoryKept (poisonRow joist bank row s) := by
  unfold poisonRow
  repeat' first
    | with_reducible assumption
    | split
    | refine onMem_kept ?_ (fun m hm => hm)

theorem copyRow_kept {r : Remap} {found : List Finding} {s : State} (h : MemoryKept s) : MemoryKept (copyRow r found s) := by
  unfold copyRow
  repeat' first
    | with_reducible assumption
    | (with_reducible apply OnlyChanges.keeps logRemap_frame; decide)
    | (with_reducible apply OnlyChanges.keeps onJoi_frame; decide)
    | (with_reducible apply OnlyChanges.keeps onKp_frame; decide)
    | (with_reducible apply OnlyChanges.keeps voidBank_frame; decide)
    | with_reducible apply meetAll_kept
    | with_reducible apply poisonRow_kept
    | with_reducible apply switchRow_kept

theorem moveRemap_kept {r : Remap} {s : State} (h : MemoryKept s) : MemoryKept (moveRemap r s).1 := by
  unfold moveRemap
  dsimp only
  repeat' first
    | with_reducible assumption
    | with_reducible apply addRemap_kept
    | with_reducible apply eccLog_kept
    | with_reducible apply logRemap_kept
    | (with_reducible apply OnlyChanges.keeps eccLog_frame; decide)
    | (with_reducible apply OnlyChanges.keeps logRemap_frame; decide)
    | (with_reducible apply OnlyChanges.keeps addRemap_frame; decide)
    | (with_reducible apply OnlyChanges.keeps onKp_frame; decide)
    | (with_reducible apply OnlyChanges.keeps onEcc_frame; decide)
    | split

theorem moveRemaps_kept {l : List Remap} {s : State} (h : MemoryKept s) : MemoryKept (moveRemaps l s).1 := by
  unfold moveRemaps
  dsimp only
  repeat' first
    | with_reducible assumption
    | (with_reducible apply MemoryKept.fold; rotate_left; intros)
    | (with_reducible apply MemoryKept.foldPair; rotate_left; intros)
    | with_reducible apply moveRemap_kept
    | with_reducible apply copyRow_kept
    | split

theorem marginDone_kept {b : Nat} {sweep : Sweep MarginOutcome} {s : State} (h : MemoryKept s) : MemoryKept (marginDone b sweep s) := by
  unfold marginDone
  repeat' first
    | with_reducible assumption
    | (with_reducible apply OnlyChanges.keeps bankOutcome_frame; decide)
    | (with_reducible apply OnlyChanges.keeps clearFindings_frame; decide)
    | (with_reducible apply OnlyChanges.keeps onEcc_frame; decide)
    | (with_reducible apply OnlyChanges.keeps retireJoist_frame; decide)
    | with_reducible apply moveRemaps_kept
    | with_reducible apply zeroBent_kept
    | (with_reducible apply MemoryKept.fold; rotate_left; intros)

theorem testsStage_kept {selfTestFailed sliceFailed absentLams : List Nat} {margin : Sweep (Nat × MarginOutcome)} {s : State} (h : MemoryKept s) :
    MemoryKept (testsStage selfTestFailed sliceFailed absentLams margin s) := by
  unfold testsStage
  repeat' first
    | with_reducible assumption
    | (with_reducible apply OnlyChanges.keeps addAbsentLams_frame; decide)
    | (with_reducible apply OnlyChanges.keeps countSelfTest_frame; decide)
    | (with_reducible apply OnlyChanges.keeps keptOutcomes_frame; decide)
    | (with_reducible apply OnlyChanges.keeps retireJoist_frame; decide)
    | (with_reducible apply OnlyChanges.keeps toStage_frame; decide)
    | with_reducible apply marginDone_kept
    | (with_reducible apply MemoryKept.fold; rotate_left; intros)
    | split

theorem zeroStage_kept {s : State} (h : MemoryKept s) : MemoryKept (zeroStage s) := by
  unfold zeroStage
  repeat' first
    | with_reducible assumption
    | (with_reducible apply OnlyChanges.keeps onKp_frame; decide)
    | (with_reducible apply OnlyChanges.keeps toStage_frame; decide)
    | with_reducible apply zeroBent_kept
    | (with_reducible apply MemoryKept.fold; rotate_left; intros)
    | split

theorem loadJoist_kept {s : State} {j : Nat} {t : State} (h : MemoryKept t) : MemoryKept (loadJoist s j t) := by
  unfold loadJoist
  repeat' first
    | with_reducible assumption
    | (with_reducible apply OnlyChanges.keeps setJoist_frame; decide)
    | refine onMem_kept ?_ (fun m hm => hm)

theorem reportJoist_kept {s : State} {missed : List (Nat × BitVec 32)} {j : Nat} {t : State} (h : MemoryKept t) :
    MemoryKept (reportJoist s missed j t) := by
  unfold reportJoist
  dsimp only
  repeat' first
    | with_reducible assumption
    | (with_reducible apply OnlyChanges.keeps setJoist_frame; decide)
    | with_reducible apply loadJoist_kept
    | split

theorem broadcastStage_kept {missed : List (Nat × BitVec 32)} {s : State} (h : MemoryKept s) : MemoryKept (broadcastStage missed s) := by
  unfold broadcastStage
  repeat' first
    | with_reducible assumption
    | (with_reducible apply OnlyChanges.keeps afterRound_frame; decide)
    | (with_reducible apply OnlyChanges.keeps sendBents_frame; decide)
    | with_reducible apply reportJoist_kept
    | (with_reducible apply MemoryKept.fold; rotate_left; intros)

theorem reloadReport_kept {j : Nat} {missing : BitVec 32} {s : State} (h : MemoryKept s) : MemoryKept (reloadReport j missing s) := by
  unfold reloadReport
  dsimp only
  repeat' first
    | with_reducible assumption
    | (with_reducible apply OnlyChanges.keeps reloadFailed_frame; decide)
    | (with_reducible apply OnlyChanges.keeps resendUcode_frame; decide)
    | (with_reducible apply OnlyChanges.keeps setJoist_frame; decide)
    | with_reducible apply loadJoist_kept
    | split

theorem clearDies_kept {rate : Nat} {s : State} (h : MemoryKept s) : MemoryKept (clearDies rate s) := by
  simp only [MemoryKept, clearDies, Memory.wf_def] at *
  exact ⟨rfl, h.2.1, h.2.2⟩

theorem holdDies_kept {rate : Nat} {s : State} (h : MemoryKept s) : MemoryKept (holdDies rate s) := by
  unfold holdDies
  repeat' first
    | with_reducible assumption
    | (with_reducible apply OnlyChanges.keeps onKp_frame; decide)
    | with_reducible apply clearDies_kept

theorem loseClock_kept {hubPll : Bool} {s : State} (h : MemoryKept s) : MemoryKept (loseClock hubPll s) := by
  unfold loseClock
  repeat' first
    | with_reducible assumption
    | (with_reducible apply OnlyChanges.keeps alertOn_frame; decide)
    | (with_reducible apply OnlyChanges.keeps logEvent_frame; decide)
    | (with_reducible apply OnlyChanges.keeps onPwr_frame; decide)
    | with_reducible apply holdDies_kept
    | split

theorem writeAll_kept {y : Bay} {a : Nat} {data : List Byte} {js : List Nat} {s : State} (h : MemoryKept s) :
    MemoryKept (writeAll y a data js s) := by
  unfold writeAll
  repeat' first
    | with_reducible assumption
    | (with_reducible apply OnlyChanges.keeps setJoist_frame; decide)
    | (with_reducible apply MemoryKept.fold; rotate_left; intros)
    | refine onMem_kept ?_ (fun m hm => writeMem_wf hm ..)

theorem putRecord_kept {q : Nat} {r : SeqRec} {s : State} (h : MemoryKept s) : MemoryKept (putRecord q r s) := by
  unfold putRecord
  repeat' first
    | with_reducible assumption
    | (with_reducible apply OnlyChanges.keeps putSeq_frame; decide)
    | (with_reducible apply OnlyChanges.keeps setBay_frame; decide)
    | with_reducible apply writeAll_kept
    | split

theorem dropGrant_kept {x : Step} {s : State} (h : MemoryKept s) : MemoryKept (dropGrant x s) := by
  unfold dropGrant
  dsimp only
  repeat' first
    | with_reducible assumption
    | (with_reducible apply OnlyChanges.keeps keepCopies_frame; decide)
    | (with_reducible apply OnlyChanges.keeps releasePages_frame; decide)
    | with_reducible apply putRecord_kept
    | (with_reducible apply MemoryKept.fold; rotate_left; intros)
    | split

theorem cancelOne_kept {status : Status} {x : Step} {s : State} (h : MemoryKept s) : MemoryKept (cancelOne status x s) := by
  unfold cancelOne
  repeat' first
    | with_reducible assumption
    | (with_reducible apply OnlyChanges.keeps dropStep_frame; decide)
    | (with_reducible apply OnlyChanges.keeps post_frame; decide)
    | with_reducible apply dropGrant_kept
    | split

theorem endWork_kept {i keepSeq : Nat} {s : State} (h : MemoryKept s) : MemoryKept (endWork i keepSeq s) := by
  unfold endWork
  repeat' first
    | with_reducible assumption
    | (with_reducible apply OnlyChanges.keeps abandon_frame; decide)
    | (with_reducible apply OnlyChanges.keeps post_frame; decide)
    | with_reducible apply cancelOne_kept
    | (with_reducible apply MemoryKept.fold; rotate_left; intros)

theorem endSession_kept {i keepSeq : Nat} {s : State} (h : MemoryKept s) : MemoryKept (endSession i keepSeq s) := by
  unfold endSession
  repeat' first
    | with_reducible assumption
    | (with_reducible apply OnlyChanges.keeps dropSession_frame; decide)
    | with_reducible apply endWork_kept

theorem closeLast_kept {cx : Cmd} {s : State} (h : MemoryKept s) : MemoryKept (closeLast cx s) := by
  unfold closeLast
  repeat' first
    | with_reducible assumption
    | with_reducible apply endSession_kept
    | split

theorem finish_kept {cx : Cmd} {op : Nat} {v : Verdict} {s : State} (h : MemoryKept s) : MemoryKept (finish cx op v s) := by
  unfold finish
  repeat' first
    | with_reducible assumption
    | (with_reducible apply OnlyChanges.keeps post_frame; decide)
    | with_reducible apply closeLast_kept

theorem stopStep_kept {x : Step} {s : State} (h : MemoryKept s) : MemoryKept (stopStep x s) := by
  unfold stopStep
  repeat' first
    | with_reducible assumption
    | (with_reducible apply OnlyChanges.keeps dropPins_frame; decide)
    | (with_reducible apply OnlyChanges.keeps dropStep_frame; decide)
    | (with_reducible apply OnlyChanges.keeps freeClosed_frame; decide)
    | (with_reducible apply OnlyChanges.keeps idleJoists_frame; decide)
    | (with_reducible apply OnlyChanges.keeps setBay_frame; decide)
    | with_reducible apply dropGrant_kept

theorem haltStep_kept {status : Status} {x : Step} {s : State} (h : MemoryKept s) : MemoryKept (haltStep status x s) := by
  unfold haltStep
  repeat' first
    | with_reducible assumption
    | with_reducible apply finish_kept
    | with_reducible apply stopStep_kept

theorem cancelStep_kept {status : Status} {x : Step} {s : State} (h : MemoryKept s) : MemoryKept (cancelStep status x s) := by
  unfold cancelStep
  repeat' first
    | with_reducible assumption
    | with_reducible apply cancelOne_kept
    | with_reducible apply closeLast_kept

theorem cancelWaiting_kept {status : Status} {bay : Nat} {s : State} (h : MemoryKept s) : MemoryKept (cancelWaiting status bay s) := by
  unfold cancelWaiting
  repeat' first
    | with_reducible assumption
    | with_reducible apply cancelStep_kept
    | (with_reducible apply MemoryKept.fold; rotate_left; intros)

theorem copyPage_kept {y : Bay} {src dst : Nat} {js : List Nat} {s : State} (h : MemoryKept s) : MemoryKept (copyPage y src dst js s) := by
  unfold copyPage
  repeat' first
    | with_reducible assumption
    | (with_reducible apply OnlyChanges.keeps onJoi_frame; decide)
    | (with_reducible apply OnlyChanges.keeps setJoist_frame; decide)
    | (with_reducible apply MemoryKept.fold; rotate_left; intros)
    | refine onMem_kept ?_ (fun m hm => by simpa [Memory.wf] using copyRange_wf hm _ _ _)

theorem meetShared_kept {l : List Finding} {s : State} (h : MemoryKept s) : MemoryKept (meetShared l s) := by
  unfold meetShared
  repeat' first
    | with_reducible assumption
    | (with_reducible apply OnlyChanges.keeps voidBank_frame; decide)
    | with_reducible apply meetAll_kept
    | (with_reducible apply MemoryKept.fold; rotate_left; intros)

theorem copyMeeting_kept {y : Bay} {src dst : Nat} {found : List Finding} {s : State} (h : MemoryKept s) :
    MemoryKept (copyMeeting y src dst found s) := by
  unfold copyMeeting
  repeat' first
    | with_reducible assumption
    | with_reducible apply copyPage_kept
    | with_reducible apply meetShared_kept

theorem endOrphans_kept {bay : Nat} {s : State} (h : MemoryKept s) : MemoryKept (endOrphans bay s) := by
  unfold endOrphans
  repeat' first
    | with_reducible assumption
    | (with_reducible apply OnlyChanges.keeps dropOrphans_frame; decide)
    | with_reducible apply copyMeeting_kept
    | (with_reducible apply MemoryKept.fold; rotate_left; intros)
    | split

theorem freeSeq_kept {q : Nat} {r : SeqRec} {s : State} (h : MemoryKept s) : MemoryKept (freeSeq q r s) := by
  unfold freeSeq
  repeat' first
    | with_reducible assumption
    | (with_reducible apply OnlyChanges.keeps putSeq_frame; decide)
    | with_reducible apply putRecord_kept

theorem closeSeqs_kept {bay : Nat} {s : State} (h : MemoryKept s) : MemoryKept (closeSeqs bay s) := by
  unfold closeSeqs
  repeat' first
    | with_reducible assumption
    | (with_reducible apply OnlyChanges.keeps dropPages_frame; decide)
    | with_reducible apply freeSeq_kept
    | (with_reducible apply MemoryKept.fold; rotate_left; intros)

theorem freeBay_kept {bay : Nat} {s : State} (h : MemoryKept s) : MemoryKept (freeBay bay s) := by
  unfold freeBay
  repeat' first
    | with_reducible assumption
    | (with_reducible apply OnlyChanges.keeps buryKeys_frame; decide)
    | (with_reducible apply OnlyChanges.keeps dropOrphans_frame; decide)
    | (with_reducible apply OnlyChanges.keeps dropSlices_frame; decide)
    | (with_reducible apply OnlyChanges.keeps onCfg_frame; decide)
    | (with_reducible apply OnlyChanges.keeps onJoi_frame; decide)
    | (with_reducible apply OnlyChanges.keeps onRack_frame; decide)
    | (with_reducible apply OnlyChanges.keeps putBay_frame; decide)
    | (with_reducible apply OnlyChanges.keeps retireKeys_frame; decide)
    | with_reducible apply closeSeqs_kept
    | split

theorem releaseBay_kept {bay : Nat} {s : State} (h : MemoryKept s) : MemoryKept (releaseBay bay s) := by
  unfold releaseBay
  repeat' first
    | with_reducible assumption
    | with_reducible apply cancelWaiting_kept
    | with_reducible apply endOrphans_kept
    | with_reducible apply freeBay_kept

theorem abandonBay_kept {bay : Nat} {s : State} (h : MemoryKept s) : MemoryKept (abandonBay bay s) := by
  unfold abandonBay
  repeat' first
    | with_reducible assumption
    | with_reducible apply haltStep_kept
    | with_reducible apply releaseBay_kept
    | split

theorem giveUpSill_kept {b : Nat} {s : State} (h : MemoryKept s) : MemoryKept (giveUpSill b s) := by
  unfold giveUpSill
  repeat' first
    | with_reducible assumption
    | (with_reducible apply OnlyChanges.keeps bentOut_frame; decide)
    | with_reducible apply abandonBay_kept
    | (with_reducible apply MemoryKept.fold; rotate_left; intros)

theorem powerOff_kept {s : State} (h : MemoryKept s) : MemoryKept (powerOff s) := by
  unfold powerOff
  repeat' first
    | with_reducible assumption
    | (with_reducible apply OnlyChanges.keeps onBnt_frame; decide)
    | (with_reducible apply OnlyChanges.keeps onPwr_frame; decide)
    | with_reducible apply holdDies_kept
    | with_reducible refine onMem_kept ?_ (fun _ _ => rfl)

theorem storeBench_kept {j a : Nat} {data : List Byte} {poison : Bool} {s : State} (h : MemoryKept s) :
    MemoryKept (storeBench j a data poison s) := by
  unfold storeBench
  repeat' first
    | with_reducible assumption
    | refine onMem_kept ?_ (fun m hm => writeMem_wf hm ..)

theorem writePieces_kept {j dst : Nat} {l : List Piece} {s : State} (h : MemoryKept s) : MemoryKept (writePieces j dst l s) := by
  unfold writePieces
  repeat' first
    | with_reducible assumption
    | with_reducible apply storeBench_kept
    | (with_reducible apply MemoryKept.fold; rotate_left; intros)
    | split

theorem applyPlan_kept {x : Step} {pl : Plan} {staging : List Nat} {s : State} (h : MemoryKept s) :
    MemoryKept (applyPlan x pl staging s) := by
  unfold applyPlan
  dsimp only
  repeat' first
    | with_reducible assumption
    | (with_reducible apply OnlyChanges.keeps onOwner_frame; decide)
    | (with_reducible apply OnlyChanges.keeps ownPages_frame; decide)
    | (with_reducible apply OnlyChanges.keeps setStep_frame; decide)
    | with_reducible apply putRecord_kept
    | (with_reducible apply MemoryKept.fold; rotate_left; intros)
    | split

theorem copyDone_kept {read : PageRead} {y : Bay} {x : Step} {s : State} (h : MemoryKept s) : MemoryKept (copyDone read y x s) := by
  unfold copyDone
  repeat' first
    | with_reducible assumption
    | (with_reducible apply OnlyChanges.keeps setStep_frame; decide)
    | with_reducible apply copyMeeting_kept
    | (with_reducible apply MemoryKept.fold; rotate_left; intros)

theorem orphanDone_kept {bay : Nat} {read : PageRead} {y : Bay} {s : State} (h : MemoryKept s) : MemoryKept (orphanDone bay read y s) := by
  unfold orphanDone
  repeat' first
    | with_reducible assumption
    | (with_reducible apply OnlyChanges.keeps onJig_frame; decide)
    | with_reducible apply copyMeeting_kept
    | (with_reducible apply MemoryKept.fold; rotate_left; intros)

theorem startStep_kept {kind : Nat} {x : Step} {y : Bay} {s : State} (h : MemoryKept s) : MemoryKept (startStep kind x y s) := by
  unfold startStep
  repeat' first
    | with_reducible assumption
    | (with_reducible apply OnlyChanges.keeps clearHolds_frame; decide)
    | (with_reducible apply OnlyChanges.keeps noteSteps_frame; decide)
    | (with_reducible apply OnlyChanges.keeps setBay_frame; decide)
    | (with_reducible apply OnlyChanges.keeps setStep_frame; decide)
    | with_reducible apply cancelStep_kept
    | (with_reducible apply MemoryKept.fold; rotate_left; intros)
    | split
    | refine onMem_kept ?_ (fun m hm => writeMem_wf hm ..)

theorem trigger_kept {bay : Nat} {y : Bay} {imm : BitVec 32} {s : State} (h : MemoryKept s) : MemoryKept (trigger bay y imm s) := by
  unfold trigger
  dsimp only
  repeat' first
    | with_reducible assumption
    | (with_reducible apply OnlyChanges.keeps atBoundary_frame; decide)
    | (with_reducible apply OnlyChanges.keeps latchTrigger_frame; decide)
    | (with_reducible apply OnlyChanges.keeps missTrigger_frame; decide)
    | with_reducible apply startStep_kept
    | split

theorem failBinding_kept {t peer check : Nat} {j : Job} {s : State} (h : MemoryKept s) : MemoryKept (failBinding t peer check j s) := by
  unfold failBinding
  repeat' first
    | with_reducible assumption
    | (with_reducible apply OnlyChanges.keeps dropBinding_frame; decide)
    | (with_reducible apply OnlyChanges.keeps logEvent_frame; decide)
    | with_reducible apply finish_kept

theorem startHandshake_kept {t : Nat} {j : Job} {s : State} (h : MemoryKept s) : MemoryKept (startHandshake t j s) := by
  unfold startHandshake
  repeat' first
    | with_reducible assumption
    | (with_reducible apply OnlyChanges.keeps dropBinding_frame; decide)
    | (with_reducible apply OnlyChanges.keeps greetAll_frame; decide)
    | (with_reducible apply OnlyChanges.keeps onNet_frame; decide)
    | (with_reducible apply OnlyChanges.keeps putBinding_frame; decide)
    | with_reducible apply finish_kept
    | split

theorem judgeLldp_kept {t : Nat} {j : Job} {s : State} (h : MemoryKept s) : MemoryKept (judgeLldp t j s) := by
  unfold judgeLldp
  repeat' first
    | with_reducible assumption
    | (with_reducible apply OnlyChanges.keeps dropBinding_frame; decide)
    | (with_reducible apply OnlyChanges.keeps setPort_frame; decide)
    | with_reducible apply finish_kept
    | with_reducible apply startHandshake_kept
    | (with_reducible apply MemoryKept.fold; rotate_left; intros)
    | split

theorem tryLldp_kept {t : Nat} {s : State} (h : MemoryKept s) : MemoryKept (tryLldp t s) := by
  unfold tryLldp
  repeat' first
    | with_reducible assumption
    | with_reducible apply judgeLldp_kept
    | split

theorem bindJob_kept {t : Nat} {j : Job} {s : State} (h : MemoryKept s) : MemoryKept (bindJob t j s) := by
  unfold bindJob
  repeat' first
    | with_reducible assumption
    | (with_reducible apply OnlyChanges.keeps deliverKeys_frame; decide)
    | (with_reducible apply OnlyChanges.keeps onBay_frame; decide)
    | (with_reducible apply OnlyChanges.keeps putBinding_frame; decide)
    | (with_reducible apply OnlyChanges.keeps putJob_frame; decide)
    | (with_reducible apply OnlyChanges.keeps removeQp_frame; decide)
    | (with_reducible apply OnlyChanges.keeps setPort_frame; decide)
    | (with_reducible apply OnlyChanges.keeps setQp_frame; decide)
    | with_reducible apply finish_kept
    | (with_reducible apply MemoryKept.fold; rotate_left; intros)
    | split

theorem enterFailed_kept {cause : Nat} {s : State} (h : MemoryKept s) : MemoryKept (enterFailed cause s) := by
  unfold enterFailed
  repeat' first
    | with_reducible assumption
    | (with_reducible apply OnlyChanges.keeps alertOn_frame; decide)
    | (with_reducible apply OnlyChanges.keeps logEvent_frame; decide)
    | (with_reducible apply OnlyChanges.keeps onKp_frame; decide)
    | with_reducible apply cancelStep_kept
    | (with_reducible apply MemoryKept.fold; rotate_left; intros)
    | split

theorem retireLink_kept {n : Nat} {s : State} (h : MemoryKept s) : MemoryKept (retireLink n s) := by
  unfold retireLink
  dsimp only
  repeat' first
    | with_reducible assumption
    | (with_reducible apply OnlyChanges.keeps onKp_frame; decide)
    | (with_reducible apply OnlyChanges.keeps resend_frame; decide)
    | (with_reducible apply OnlyChanges.keeps setLink_frame; decide)
    | with_reducible apply enterFailed_kept
    | split

theorem flitBad_kept {n : Nat} {back : Bool} {s : State} (h : MemoryKept s) : MemoryKept (flitBad n back s) := by
  unfold flitBad
  dsimp only
  repeat' first
    | with_reducible assumption
    | (with_reducible apply OnlyChanges.keeps send_frame; decide)
    | (with_reducible apply OnlyChanges.keeps setLink_frame; decide)
    | with_reducible apply retireLink_kept
    | split

theorem scrambleRegion_kept {t : Nat} {js : List Nat} {r : Region} {s : State} (h : MemoryKept s) :
    MemoryKept (scrambleRegion t js r s) := by
  unfold scrambleRegion
  repeat' first
    | with_reducible assumption
    | (with_reducible apply OnlyChanges.keeps setJoist_frame; decide)
    | (with_reducible apply OnlyChanges.keeps spend_frame; decide)
    | (with_reducible apply MemoryKept.fold; rotate_left; intros)
    | split
    | refine onMem_kept ?_ (fun m hm => writeMem_wf hm ..)

theorem meetStage_kept {step : Nat} {l : List Finding} {s : State} (h : MemoryKept s) : MemoryKept (meetStage step l s) := by
  unfold meetStage
  repeat' first
    | with_reducible assumption
    | (with_reducible apply OnlyChanges.keeps setStep_frame; decide)
    | with_reducible apply meetAll_kept
    | split

theorem pegStore_kept {p : PegPlace} {row col : Nat} {bytes : List Byte} {bad : Nat → Bool} {s : State} (h : MemoryKept s) :
    MemoryKept (pegStore p row col bytes bad s) := by
  unfold pegStore
  repeat' first
    | with_reducible assumption
    | (with_reducible apply OnlyChanges.keeps stampJoist_frame; decide)
    | refine onMem_kept ?_ (fun m hm => foldl_keeps (P := fun m => Memory.wf m = true) _ (fun _ _ hm => writeMem_wf hm ..) _ hm)

theorem writeBack_kept {j bank : Nat} {s : State} (h : MemoryKept s) : MemoryKept (writeBack j bank s) := by
  unfold writeBack
  repeat' first
    | with_reducible assumption
    | refine onMem_kept ?_ (fun m hm => hm)

theorem pegRunInstr_kept {p : PegPlace} {k : Nat} {i : PegInstr} {a : PegRun} (h : MemoryKept a.s) :
    MemoryKept (pegRunInstr p k i a).s := by
  unfold pegRunInstr pegBlocks pegScalars
  dsimp only
  repeat' first
    | with_reducible assumption
    | with_reducible apply pegStore_kept
    | (with_reducible refine onMem_kept ?_ (fun m hm => writeMem_wf hm ..))
    | split

theorem pegStep_kept {p : PegPlace} {a : PegRun} {e : Nat × PegInstr} (h : MemoryKept a.s) : MemoryKept (pegStep p a e).s := by
  unfold pegStep
  dsimp only
  repeat' first
    | with_reducible assumption
    | with_reducible apply pegRunInstr_kept
    | with_reducible apply meetStage_kept
    | (with_reducible apply OnlyChanges.keeps onJoi_frame; decide)
    | split

theorem pegSteps_kept {p : PegPlace} {l : List (Nat × PegInstr)} {a : PegRun} (h : MemoryKept a.s) :
    MemoryKept (l.foldl (pegStep p) a).s := by
  induction l generalizing a with
  | nil => exact h
  | cons e l ih => exact ih (pegStep_kept h)

theorem runSegment_kept {r : Run} {j bank : Nat} {found : List Finding} {s : State} (h : MemoryKept s) :
    MemoryKept (runSegment r j bank found s).1 :=
  writeBack_kept (pegSteps_kept (a := pegStart _ _ _) (meetStage_kept h))

theorem stopPeg_kept {r : Run} {j bank : Nat} {s : State} (h : MemoryKept s) : MemoryKept (stopPeg r j bank s) := by
  unfold stopPeg
  dsimp only
  split
  · refine setPeg_frame.kept (writeBack_kept ?_)
    have hk (k : Nat) : MemoryKept
        (((segmentOf j bank s).take k).foldl (pegStep (pegPlace r j bank [] s)) (pegStart j bank (spend 1 s))).s :=
      pegSteps_kept (a := pegStart _ _ _) (spend_frame.kept h)
    split
    · split
      · exact pegStep_kept (hk _)
      · exact hk _
    · exact hk _
  · exact setPeg_frame.kept h

theorem stopPegs_kept {bay : Nat} {s : State} (h : MemoryKept s) : MemoryKept (stopPegs bay s) := by
  unfold stopPegs
  repeat' first
    | with_reducible assumption
    | with_reducible apply stopPeg_kept
    | (with_reducible apply MemoryKept.fold; rotate_left; intros)
    | split

theorem tearStep_kept {x : Step} {s : State} (h : MemoryKept s) : MemoryKept (tearStep x s) := by
  unfold tearStep
  repeat' first
    | with_reducible assumption
    | with_reducible apply scrambleRegion_kept
    | with_reducible apply stopPegs_kept
    | (with_reducible apply MemoryKept.fold; rotate_left; intros)
    | split

theorem abandonCopies_kept {x : Step} {s : State} (h : MemoryKept s) : MemoryKept (abandonCopies x s) := by
  unfold abandonCopies
  repeat' first
    | with_reducible assumption
    | (with_reducible apply OnlyChanges.keeps setStep_frame; decide)
    | with_reducible apply scrambleRegion_kept
    | (with_reducible apply MemoryKept.fold; rotate_left; intros)
    | split

theorem abandonOrphans_kept {bay : Nat} {s : State} (h : MemoryKept s) : MemoryKept (abandonOrphans bay s) := by
  unfold abandonOrphans
  repeat' first
    | with_reducible assumption
    | (with_reducible apply OnlyChanges.keeps dropOrphans_frame; decide)
    | with_reducible apply scrambleRegion_kept
    | (with_reducible apply MemoryKept.fold; rotate_left; intros)
    | split

theorem failRetain_kept {s : State} (h : MemoryKept s) : MemoryKept (failRetain s) := by
  unfold failRetain
  repeat' first
    | with_reducible assumption
    | (with_reducible apply OnlyChanges.keeps onPwr_frame; decide)
    | with_reducible apply finish_kept
    | split

theorem releaseWaiting_kept {st : Status} {bay : Nat} {s : State} (h : MemoryKept s) : MemoryKept (releaseWaiting st bay s) := by
  unfold releaseWaiting
  repeat' first
    | with_reducible assumption
    | (with_reducible apply OnlyChanges.keeps onCfg_frame; decide)
    | with_reducible apply abandonCopies_kept
    | with_reducible apply abandonOrphans_kept
    | with_reducible apply cancelWaiting_kept
    | (with_reducible apply MemoryKept.fold; rotate_left; intros)

theorem shelveStep_kept {id : Nat} {status : Status} {x : Step} {s : State} (h : MemoryKept s) : MemoryKept (shelveStep id status x s) := by
  unfold shelveStep
  repeat' first
    | with_reducible assumption
    | (with_reducible apply OnlyChanges.keeps setReset_frame; decide)
    | with_reducible apply stopStep_kept

theorem shelveRunning_kept {r : PReset} {bay : Nat} {s : State} (h : MemoryKept s) : MemoryKept (shelveRunning r bay s) := by
  unfold shelveRunning
  repeat' first
    | with_reducible assumption
    | with_reducible apply shelveStep_kept
    | with_reducible apply tearStep_kept
    | split

theorem fencePhase_kept {r : PReset} {s : State} (h : MemoryKept s) : MemoryKept (fencePhase r s) := by
  unfold fencePhase
  repeat' first
    | with_reducible assumption
    | (with_reducible apply OnlyChanges.keeps fenceBent_frame; decide)
    | (with_reducible apply OnlyChanges.keeps haltMargin_frame; decide)
    | (with_reducible apply OnlyChanges.keeps onNet_frame; decide)
    | (with_reducible apply OnlyChanges.keeps setReset_frame; decide)
    | with_reducible apply failRetain_kept
    | with_reducible apply releaseWaiting_kept
    | with_reducible apply shelveRunning_kept
    | (with_reducible apply MemoryKept.fold; rotate_left; intros)
    | split

theorem resetControllers_kept {b : Nat} {s : State} (h : MemoryKept s) : MemoryKept (resetControllers b s) := by
  unfold resetControllers
  repeat' first
    | with_reducible assumption
    | (with_reducible apply OnlyChanges.keeps onEcc_frame; decide)
    | (with_reducible apply OnlyChanges.keeps onRfr_frame; decide)
    | refine onMem_kept ?_ (fun m hm => hm)

theorem clearBent_kept {b : Nat} {s : State} (h : MemoryKept s) : MemoryKept (clearBent b s) := by
  unfold clearBent
  repeat' first
    | with_reducible assumption
    | (with_reducible apply OnlyChanges.keeps clearCounts_frame; decide)
    | with_reducible apply clearJoists_kept
    | with_reducible apply resetControllers_kept

theorem reclaimBay_kept {bay : Nat} {s : State} (h : MemoryKept s) : MemoryKept (reclaimBay bay s) := by
  unfold reclaimBay
  repeat' first
    | with_reducible assumption
    | (with_reducible apply OnlyChanges.keeps sweepSeqs_frame; decide)
    | with_reducible apply freeBay_kept

theorem postLate_kept {r : PReset} {s : State} (h : MemoryKept s) : MemoryKept (postLate r s) := by
  unfold postLate
  repeat' first
    | with_reducible assumption
    | with_reducible apply finish_kept
    | (with_reducible apply MemoryKept.fold; rotate_left; intros)

theorem reloadRound_kept {missed : List (Nat × BitVec 32)} {r : PReset} {s : State} (h : MemoryKept s) :
    MemoryKept (reloadRound missed r s) := by
  unfold reloadRound
  dsimp only
  repeat' first
    | with_reducible assumption
    | (with_reducible apply OnlyChanges.keeps reloadLost_frame; decide)
    | (with_reducible apply OnlyChanges.keeps resendUcode_frame; decide)
    | (with_reducible apply OnlyChanges.keeps sendBents_frame; decide)
    | (with_reducible apply OnlyChanges.keeps setReset_frame; decide)
    | (with_reducible apply OnlyChanges.keeps toPhase_frame; decide)
    | with_reducible apply reportJoist_kept
    | (with_reducible apply MemoryKept.fold; rotate_left; intros)
    | split

theorem donePhase_kept {r : PReset} {s : State} (h : MemoryKept s) : MemoryKept (donePhase r s) := by
  unfold donePhase
  repeat' first
    | with_reducible assumption
    | (with_reducible apply OnlyChanges.keeps beginTrip_frame; decide)
    | (with_reducible apply OnlyChanges.keeps dropReset_frame; decide)
    | (with_reducible apply OnlyChanges.keeps endTrips_frame; decide)
    | (with_reducible apply OnlyChanges.keeps returnBents_frame; decide)
    | (with_reducible apply OnlyChanges.keeps setBent_frame; decide)
    | with_reducible apply finish_kept
    | with_reducible apply postLate_kept
    | (with_reducible apply MemoryKept.fold; rotate_left; intros)

theorem segmentEnd_kept {r : Run} {d : PegDesc} {j bank : Nat} {found : List Finding} {s : State} (h : MemoryKept s) :
    MemoryKept (segmentEnd r d j bank found s) := by
  unfold segmentEnd
  dsimp only
  repeat' first
    | with_reducible assumption
    | (with_reducible apply OnlyChanges.keeps endBank_frame; decide)
    | (with_reducible apply OnlyChanges.keeps finishPegs_frame; decide)
    | (with_reducible apply OnlyChanges.keeps noteSegment_frame; decide)
    | (with_reducible apply OnlyChanges.keeps setPeg_frame; decide)
    | (with_reducible apply OnlyChanges.keeps setRefresh_frame; decide)
    | (with_reducible apply OnlyChanges.keeps startSegments_frame; decide)
    | with_reducible apply runSegment_kept
    | split

theorem endBanks_kept {l : List (Nat × Nat)} {s : State} (h : MemoryKept s) : MemoryKept (endBanks l s) := by
  unfold endBanks
  repeat' first
    | with_reducible assumption
    | (with_reducible apply OnlyChanges.keeps setRefresh_frame; decide)
    | with_reducible apply writeBack_kept
    | (with_reducible apply MemoryKept.fold; rotate_left; intros)

theorem ownSequence_kept {l : List (Nat × Nat)} {f : State → State} {s : State} (h : MemoryKept s)
    (hf : ∀ s, MemoryKept s → MemoryKept (f s)) : MemoryKept (ownSequence l f s) := by
  unfold ownSequence
  split
  · exact freeBanks_frame.kept (endBanks_kept (hf _ (readyBanks_frame.kept h)))
  · exact (foldl_frame _ (fun _ _ => holdBank_frame) _ _).kept h

theorem endAllSteps_kept {status : Status} {s : State} (h : MemoryKept s) : MemoryKept (endAllSteps status s) := by
  unfold endAllSteps
  repeat' first
    | with_reducible assumption
    | with_reducible apply cancelStep_kept
    | with_reducible apply haltStep_kept
    | (with_reducible apply MemoryKept.fold; rotate_left; intros)
    | split

theorem warmReset_kept {rate : Nat} {full : Bool} {s : State} (h : MemoryKept s) : MemoryKept (warmReset rate full s) := by
  unfold warmReset
  repeat' first
    | with_reducible assumption
    | (with_reducible apply OnlyChanges.keeps startRaise_frame; decide)
    | with_reducible apply holdDies_kept

theorem endTransfer_kept {port addr : Nat} {r : Recovery} {s : State} (h : MemoryKept s) : MemoryKept (endTransfer port addr r s) := by
  unfold endTransfer
  dsimp only
  repeat' first
    | with_reducible assumption
    | (with_reducible apply OnlyChanges.keeps answer_frame; decide)
    | (with_reducible apply OnlyChanges.keeps commitImage_frame; decide)
    | (with_reducible apply OnlyChanges.keeps onKp_frame; decide)
    | (with_reducible apply OnlyChanges.keeps putRecovery_frame; decide)
    | (with_reducible apply OnlyChanges.keeps refuse_frame; decide)
    | (with_reducible apply OnlyChanges.keeps startRaise_frame; decide)
    | with_reducible apply holdDies_kept
    | split

theorem mgmtDevice_kept {f : MgmtFrame} {x : Session} {s : State} (h : MemoryKept s) : MemoryKept (mgmtDevice f x s) := by
  unfold mgmtDevice
  repeat' first
    | with_reducible assumption
    | (with_reducible apply OnlyChanges.keeps mgmtReplyTo_frame; decide)
    | with_reducible apply warmReset_kept
    | split

theorem landRun_kept {g : Target} {inSlice : Bool} {j a : Nat} {data : List Byte} {owner : Nat} {found : List Finding} {s : State} (h : MemoryKept s) :
    MemoryKept (landRun g inSlice j a data owner found s) := by
  unfold landRun
  dsimp only
  repeat' first
    | with_reducible assumption
    | (with_reducible apply OnlyChanges.keeps haltTarget_frame; decide)
    | (with_reducible apply OnlyChanges.keeps setJoist_frame; decide)
    | with_reducible apply meetShared_kept
    | split
    | refine onMem_kept ?_ (fun m hm => writeMem_wf hm ..)

theorem landData_kept {g : Target} {p : Pkt} {owner : Nat} {found : List Finding} {s : State} (h : MemoryKept s) :
    MemoryKept (landData g p owner found s) := by
  unfold landData
  dsimp only
  repeat' first
    | with_reducible assumption
    | (with_reducible apply MemoryKept.foldPair; rotate_left; intros)
    | with_reducible apply landRun_kept
    | (with_reducible apply OnlyChanges.keeps voidBay_frame; decide)
    | split

theorem framerStops_kept {found : List Finding} {s : State} (h : MemoryKept s) : MemoryKept (framerStops found s) := by
  unfold framerStops
  repeat' first
    | with_reducible assumption
    | (with_reducible apply OnlyChanges.keeps onQci_frame; decide)
    | with_reducible apply enterFailed_kept
    | split

theorem writeRx_kept {r : RxPkt} {q : Qp} {found : List Finding} {s : State} (h : MemoryKept s) : MemoryKept (writeRx r q found s) := by
  unfold writeRx
  dsimp only
  repeat' first
    | with_reducible assumption
    | (with_reducible apply OnlyChanges.keeps loseRx_frame; decide)
    | (with_reducible apply OnlyChanges.keeps refuseRx_frame; decide)
    | (with_reducible apply OnlyChanges.keeps setRx_frame; decide)
    | (with_reducible apply OnlyChanges.keeps storeSlots_frame; decide)
    | with_reducible apply framerStops_kept
    | with_reducible apply landData_kept
    | with_reducible apply meetShared_kept
    | split

theorem readRx_kept {r : RxPkt} {q : Qp} {found : List Finding} {s : State} (h : MemoryKept s) : MemoryKept (readRx r q found s) := by
  unfold readRx
  dsimp only
  repeat' first
    | with_reducible assumption
    | (with_reducible apply OnlyChanges.keeps accessFail_frame; decide)
    | (with_reducible apply OnlyChanges.keeps dropRx_frame; decide)
    | (with_reducible apply OnlyChanges.keeps haltTarget_frame; decide)
    | (with_reducible apply OnlyChanges.keeps loseRx_frame; decide)
    | (with_reducible apply OnlyChanges.keeps respondAll_frame; decide)
    | (with_reducible apply OnlyChanges.keeps sendNak_frame; decide)
    | with_reducible apply framerStops_kept
    | with_reducible apply meetShared_kept
    | split

theorem dropQueued_kept {l : List Finding} {s : State} (h : MemoryKept s) : MemoryKept (dropQueued l s) := by
  unfold dropQueued
  repeat' first
    | with_reducible assumption
    | refine onMem_kept ?_ (fun m hm => hm)

theorem scrubVisit_kept {joist bank : Nat} {found : List Finding} {s : State} (h : MemoryKept s) :
    MemoryKept (scrubVisit joist bank found s) := by
  unfold scrubVisit
  dsimp only
  repeat' first
    | with_reducible assumption
    | (with_reducible apply OnlyChanges.keeps onEcc_frame; decide)
    | (with_reducible apply OnlyChanges.keeps setBent_frame; decide)
    | (with_reducible apply OnlyChanges.keeps voidBank_frame; decide)
    | with_reducible apply dropQueued_kept
    | with_reducible apply meetAll_kept
    | with_reducible apply poisonRow_kept
    | split

theorem copyAtBoundary_kept {r : Remap} {found : List Finding} {s : State} (h : MemoryKept s) : MemoryKept (copyAtBoundary r found s) := by
  unfold copyAtBoundary
  repeat' first
    | with_reducible assumption
    | (with_reducible apply OnlyChanges.keeps setRefresh_frame; decide)
    | with_reducible apply copyRow_kept

theorem runPending_kept {bents : List Nat} {s : State} (h : MemoryKept s) : MemoryKept (runPending bents s) := by
  unfold runPending
  repeat' first
    | with_reducible assumption
    | with_reducible apply copyRow_kept
    | (with_reducible apply MemoryKept.fold; rotate_left; intros)

theorem cutReset_kept {r : PReset} {s : State} (h : MemoryKept s) : MemoryKept (cutReset r s) := by
  unfold cutReset
  repeat' first
    | with_reducible assumption
    | (with_reducible apply OnlyChanges.keeps setBent_frame; decide)
    | with_reducible apply finish_kept
    | (with_reducible apply MemoryKept.fold; rotate_left; intros)

theorem cutMargin_kept {b : Nat} {s : State} (h : MemoryKept s) : MemoryKept (cutMargin b s) := by
  unfold cutMargin
  repeat' first
    | with_reducible assumption
    | (with_reducible apply OnlyChanges.keeps setBent_frame; decide)
    | with_reducible apply finish_kept
    | split

theorem stopAll_kept {s : State} (h : MemoryKept s) : MemoryKept (stopAll s) := by
  unfold stopAll
  repeat' first
    | with_reducible assumption
    | (with_reducible apply OnlyChanges.keeps onPwr_frame; decide)
    | (with_reducible apply OnlyChanges.keeps selfRefresh_frame; decide)
    | (with_reducible apply OnlyChanges.keeps stopBent_frame; decide)
    | (with_reducible apply OnlyChanges.keeps stopTransit_frame; decide)
    | with_reducible apply cutMargin_kept
    | with_reducible apply cutReset_kept
    | with_reducible apply endAllSteps_kept
    | (with_reducible apply MemoryKept.fold; rotate_left; intros)

theorem drop_kept {s : State} (h : MemoryKept s) : MemoryKept (drop s) := by
  unfold drop
  repeat' first
    | with_reducible assumption
    | (with_reducible apply OnlyChanges.keeps onKp_frame; decide)
    | (with_reducible apply OnlyChanges.keeps onPwr_frame; decide)
    | with_reducible apply stopAll_kept
    | split

theorem tripHub_kept {s : State} (h : MemoryKept s) : MemoryKept (tripHub s) := by
  unfold tripHub
  repeat' first
    | with_reducible assumption
    | (with_reducible apply OnlyChanges.keeps onKp_frame; decide)
    | (with_reducible apply OnlyChanges.keeps onPwr_frame; decide)
    | (with_reducible apply OnlyChanges.keeps onThm_frame; decide)
    | with_reducible apply stopAll_kept
    | split

theorem sampleHub_kept {s : State} (h : MemoryKept s) : MemoryKept (sampleHub s) := by
  unfold sampleHub
  dsimp only
  repeat' first
    | with_reducible assumption
    | (with_reducible apply OnlyChanges.keeps alertOff_frame; decide)
    | (with_reducible apply OnlyChanges.keeps alertOn_frame; decide)
    | (with_reducible apply OnlyChanges.keeps onThm_frame; decide)
    | (with_reducible apply OnlyChanges.keeps setInterval_frame; decide)
    | with_reducible apply tripHub_kept
    | split

theorem sampleKeeper_kept {s : State} (h : MemoryKept s) : MemoryKept (sampleKeeper s) := by
  unfold sampleKeeper
  dsimp only
  repeat' first
    | with_reducible assumption
    | (with_reducible apply OnlyChanges.keeps alertOff_frame; decide)
    | (with_reducible apply OnlyChanges.keeps alertOn_frame; decide)
    | (with_reducible apply OnlyChanges.keeps onKp_frame; decide)
    | (with_reducible apply OnlyChanges.keeps onPwr_frame; decide)
    | (with_reducible apply OnlyChanges.keeps onThm_frame; decide)
    | (with_reducible apply OnlyChanges.keeps setInterval_frame; decide)
    | with_reducible apply holdDies_kept
    | split

theorem judgeGroups_kept {ids : List Nat} {s : State} (h : MemoryKept s) : MemoryKept (judgeGroups ids s) := by
  unfold judgeGroups
  repeat' first
    | with_reducible assumption
    | (with_reducible apply OnlyChanges.keeps sampleBent_frame; decide)
    | (with_reducible apply OnlyChanges.keeps sampleEngine_frame; decide)
    | with_reducible apply sampleHub_kept
    | with_reducible apply sampleKeeper_kept
    | (with_reducible apply MemoryKept.fold; rotate_left; intros)
    | split

theorem runStage_kept {r : Run} {f : State → State × Active} {s : State} (h : MemoryKept s)
    (hf : ∀ s, MemoryKept s → MemoryKept (f s).1) : MemoryKept (runStage r f s) := by
  have hm : MemoryKept (meetStage r.x.id (mine r r.found) (startCapture r s)) := meetStage_kept (startCapture_frame.kept h)
  unfold runStage
  dsimp only
  split
  · exact framerStops_kept hm
  · split
    · exact enterStage_frame.kept (markReload_frame.kept hm)
    · exact enterStage_frame.kept (hf _ hm)

theorem placeShare_kept {r : Run} {ti j b : Nat} {data : List Byte} {poison : Bool} {s : State} (h : MemoryKept s) :
    MemoryKept (placeShare r ti j b data poison s) := by
  unfold placeShare
  repeat' first
    | with_reducible assumption
    | (with_reducible apply OnlyChanges.keeps stampJoist_frame; decide)
    | refine onMem_kept ?_ (fun m hm => tensorWrite_wf hm ..)

theorem storeParts_kept {j : Nat} {l : List (Nat × List Byte)} {s : State} (h : MemoryKept s) : MemoryKept (storeParts j l s) := by
  unfold storeParts
  repeat' first
    | with_reducible assumption
    | with_reducible apply storeBench_kept
    | (with_reducible apply MemoryKept.fold; rotate_left; intros)

theorem scrambleState_kept {js : List Nat} {d : AttDesc} {s : State} (h : MemoryKept s) : MemoryKept (scrambleState js d s) := by
  unfold scrambleState
  repeat' first
    | with_reducible assumption
    | (with_reducible apply OnlyChanges.keeps spend_frame; decide)
    | with_reducible apply storeBench_kept
    | (with_reducible apply MemoryKept.fold; rotate_left; intros)

theorem copyWords_kept {j : Nat} {fromSlice : Bool} {src a n : Nat} {s : State} (h : MemoryKept s) :
    MemoryKept (copyWords j fromSlice src a n s) := by
  unfold copyWords
  repeat' first
    | with_reducible assumption
    | (with_reducible apply MemoryKept.fold; rotate_left; intros)
    | refine onMem_kept ?_ (fun m hm => writeMem_wf hm ..)

theorem stagingFound_kept {found : List Finding} {j b n : Nat} {s : State} (h : MemoryKept s) :
    MemoryKept (stagingFound found j b n s) := by
  unfold stagingFound
  repeat' first
    | with_reducible assumption
    | with_reducible apply markUnit_kept
    | (with_reducible apply MemoryKept.fold; rotate_left; intros)

theorem stageWords_kept {m : Mem} {t : Tensor} {j b n a : Nat} {s : State} (h : MemoryKept s) : MemoryKept (stageWords m t j b n a s) := by
  unfold stageWords
  repeat' first
    | with_reducible assumption
    | with_reducible apply storeBench_kept
    | (with_reducible apply MemoryKept.fold; rotate_left; intros)

theorem stageRun_kept {m : Mem} {r : Run} {d : MatDesc} {j n : Nat} {e : Nat × Nat} {s : State} (h : MemoryKept s) :
    MemoryKept (stageRun m r d j n e s) := by
  unfold stageRun
  dsimp only
  repeat' first
    | with_reducible assumption
    | with_reducible apply stageWords_kept
    | split

theorem commitLengths_kept {y : Bay} {x : Step} {s : State} (h : MemoryKept s) : MemoryKept (commitLengths y x s) := by
  unfold commitLengths
  repeat' first
    | with_reducible assumption
    | with_reducible apply putRecord_kept
    | (with_reducible apply MemoryKept.fold; rotate_left; intros)
    | split

theorem settleGrant_kept {y : Bay} {x : Step} {s : State} (h : MemoryKept s) : MemoryKept (settleGrant y x s) := by
  unfold settleGrant
  repeat' first
    | with_reducible assumption
    | (with_reducible apply OnlyChanges.keeps releasePages_frame; decide)
    | with_reducible apply commitLengths_kept
    | with_reducible apply dropGrant_kept
    | split

theorem completeStep_kept {y : Bay} {x : Step} {s : State} (h : MemoryKept s) : MemoryKept (completeStep y x s) := by
  unfold completeStep
  repeat' first
    | with_reducible assumption
    | (with_reducible apply OnlyChanges.keeps dropPins_frame; decide)
    | (with_reducible apply OnlyChanges.keeps dropStep_frame; decide)
    | (with_reducible apply OnlyChanges.keeps freeClosed_frame; decide)
    | (with_reducible apply OnlyChanges.keeps setBay_frame; decide)
    | with_reducible apply finish_kept
    | with_reducible apply settleGrant_kept

theorem stepDeadline_kept {x : Step} {s : State} (h : MemoryKept s) : MemoryKept (stepDeadline x s) := by
  unfold stepDeadline
  dsimp only
  repeat' first
    | with_reducible assumption
    | (with_reducible apply OnlyChanges.keeps requestReset_frame; decide)
    | with_reducible apply shelveStep_kept
    | with_reducible apply tearStep_kept
    | split

theorem marginDeadline_kept {cx : Cmd} {s : State} (h : MemoryKept s) : MemoryKept (marginDeadline cx s) := by
  unfold marginDeadline
  repeat' first
    | with_reducible assumption
    | (with_reducible apply OnlyChanges.keeps requestReset_frame; decide)
    | (with_reducible apply OnlyChanges.keeps setBent_frame; decide)
    | with_reducible apply finish_kept
    | (with_reducible apply MemoryKept.fold; rotate_left; intros)
    | split

theorem expire_kept {t : Taken} {s : State} (h : MemoryKept s) : MemoryKept (expire t s) := by
  unfold expire
  repeat' first
    | with_reducible assumption
    | (with_reducible apply OnlyChanges.keeps abandon_frame; decide)
    | (with_reducible apply OnlyChanges.keeps lateDeadline_frame; decide)
    | with_reducible apply finish_kept
    | with_reducible apply marginDeadline_kept
    | with_reducible apply stepDeadline_kept
    | split

theorem clearTenantJoists_kept {js : List Nat} {s : State} (h : MemoryKept s) : MemoryKept (clearTenantJoists js s) := by
  unfold clearTenantJoists
  repeat' first
    | with_reducible assumption
    | (with_reducible apply OnlyChanges.keeps onJoi_frame; decide)
    | refine onMem_kept ?_ (fun m hm => foldl_keeps (P := fun m => Memory.wf m = true) _ (fun _ _ hm => wipeBench_wf hm ..) _ hm)

theorem zeroiseTenancy_kept {t : Nat} {s : State} (h : MemoryKept s) : MemoryKept (zeroiseTenancy t s) := by
  unfold zeroiseTenancy
  repeat' first
    | with_reducible assumption
    | (with_reducible apply OnlyChanges.keeps buryKey_frame; decide)
    | (with_reducible apply OnlyChanges.keeps dropTenantFlags_frame; decide)
    | (with_reducible apply OnlyChanges.keeps dropTenantHub_frame; decide)
    | (with_reducible apply OnlyChanges.keeps putTenancy_frame; decide)
    | with_reducible apply clearTenantJoists_kept
    | with_reducible apply endSession_kept
    | with_reducible apply releaseBay_kept
    | (with_reducible apply MemoryKept.fold; rotate_left; intros)
    | refine onMem_kept ?_ (fun m hm => zeroTouched_wf hm ..)

/-- A command of the catalogue keeps the memories' form where its body does. -/
theorem qci_kept (cx : Cmd) (op : Nat) (body : State → Ans) (hb : ∀ s, MemoryKept s → MemoryKept (body s).s) {s t : State}
    (h : MemoryKept s) (ht : qci cx op body s = .next t) : MemoryKept t := by
  have hn := OnlyChanges.kept (noteTaken_frame cx op s) h
  unfold qci at ht
  split at ht
  · cases ht; exact discard_frame.kept h
  · split at ht
    · cases ht; exact h
    · split at ht
      · cases ht; exact finish_kept hn
      · have hk := hb _ hn
        split at ht
        · next e => cases ht; rw [e] at hk; exact finish_kept hk
        · next e => cases ht; rw [e] at hk; exact hk

end Sys2Proof.Machine
end

