-- ==== Sys2Proof/Laws/PerInstr.lean ====
section
/-! SUPPORT. For every command and event: its opcode, where it has one, is one of the catalogue of R371. -/

namespace Sys2Proof.Laws.Catalogue
open Sys2Proof

/-- The opcode of a command is in the catalogue; events have none. -/
def Statement (i : Instr) : Prop := ∀ op, i.opcode = some op → op ∈ catalogue

theorem of_opcode {i : Instr} (h : (i.opcode.map (fun op => catalogue.contains op)).getD true = true) : Statement i := by
  intro op ho
  simpa [ho] using h

theorem hello (cx : Cmd) (ringVa : Nat) (ringKey : Nat) (ringEntries : Nat) :
    Statement (.hello cx ringVa ringKey ringEntries) := of_opcode rfl
theorem attest (cx : Cmd) (nonce : BitVec 256) (chain : Bool) (reply : Reply) :
    Statement (.attest cx nonce chain reply) := of_opcode rfl
theorem sessionOpen (cx : Cmd) (body : OpenBody) (sig : BitVec 512) :
    Statement (.sessionOpen cx body sig) := of_opcode rfl
theorem sessionOpenEnroll (cx : Cmd) (body : OpenBody) (key : BitVec 512) (sig : BitVec 512) :
    Statement (.sessionOpenEnroll cx body key sig) := of_opcode rfl
theorem sessionOpenUnenroll (cx : Cmd) (body : OpenBody) (sig : BitVec 512) :
    Statement (.sessionOpenUnenroll cx body sig) := of_opcode rfl
theorem sessionClose (cx : Cmd) (session : Nat) :
    Statement (.sessionClose cx session) := of_opcode rfl
theorem tenancyCreate (cx : Cmd) (tenancy : Nat) (hangMode : Nat) (bentMask : Nat) (maxBays : Nat) (keyForm : Nat) (key : BitVec 512) :
    Statement (.tenancyCreate cx tenancy hangMode bentMask maxBays keyForm key) := of_opcode rfl
theorem tenancyDestroy (cx : Cmd) (tenancy : Nat) :
    Statement (.tenancyDestroy cx tenancy) := of_opcode rfl
theorem tenancyZeroise (tenancy : Nat) :
    Statement (.tenancyZeroise tenancy) := of_opcode rfl
theorem bayDefine (cx : Cmd) (body : BayBody) :
    Statement (.bayDefine cx body) := of_opcode rfl
theorem bayRelease (cx : Cmd) (bay : Nat) :
    Statement (.bayRelease cx bay) := of_opcode rfl
theorem bayArm (cx : Cmd) (bay : Nat) (on : Nat) (window : Nat) :
    Statement (.bayArm cx bay on window) := of_opcode rfl
theorem programLoad (cx : Cmd) (bay : Nat) (window : Nat) (offset : Nat) (read : HubRead) (digest : BitVec 256) (named : List Named) (reply : Reply) :
    Statement (.programLoad cx bay window offset read digest named reply) := of_opcode rfl
theorem programUnload (cx : Cmd) (bay : Nat) :
    Statement (.programUnload cx bay) := of_opcode rfl
theorem weightsBind (cx : Cmd) (window : Nat) (bay : Nat) (access : Nat) (addr : Nat) (extent : Nat) :
    Statement (.weightsBind cx window bay access addr extent) := of_opcode rfl
theorem stepRun (cx : Cmd) (bay : Nat) (prio : Nat) (arm : Bool) (armTag : Nat) (admitTimeout : Nat) (table : List LtEntry) :
    Statement (.stepRun cx bay prio arm armTag admitTimeout table) := of_opcode rfl
theorem seqOpen (cx : Cmd) (bay : Nat) :
    Statement (.seqOpen cx bay) := of_opcode rfl
theorem seqFork (cx : Cmd) (parent : Nat) (position : Nat) :
    Statement (.seqFork cx parent position) := of_opcode rfl
theorem seqClose (cx : Cmd) (seqId : Nat) :
    Statement (.seqClose cx seqId) := of_opcode rfl
theorem seqReserve (cx : Cmd) (seqId : Nat) (pages : Nat) :
    Statement (.seqReserve cx seqId pages) := of_opcode rfl
theorem jobBind (cx : Cmd) (fenceMode : Nat) (window : Nat) (offset : Nat) (jobSize : Nat) (read : HubRead) :
    Statement (.jobBind cx fenceMode window offset jobSize read) := of_opcode rfl
theorem jobBindLldpTimeout (tenancy : Nat) :
    Statement (.jobBindLldpTimeout tenancy) := of_opcode rfl
theorem ph1Rx (tenancy : Nat) (peer : Nat) (serial : Nat) (grant : Nat) (epoch : Nat) (eph : BitVec 512) (nonce : BitVec 256) :
    Statement (.ph1Rx tenancy peer serial grant epoch eph nonce) := of_opcode rfl
theorem ph2Rx (tenancy : Nat) (peer : Nat) (msg : Ph2) :
    Statement (.ph2Rx tenancy peer msg) := of_opcode rfl
theorem ph2Timeout (tenancy : Nat) :
    Statement (.ph2Timeout tenancy) := of_opcode rfl
theorem configStage (cx : Cmd) (clear : Bool) (entries : List Setting) :
    Statement (.configStage cx clear entries) := of_opcode rfl
theorem configApply (cx : Cmd) (baseEpoch : Nat) (timeout : Nat) :
    Statement (.configApply cx baseEpoch timeout) := of_opcode rfl
theorem configApplyDrained : Statement .configApplyDrained := of_opcode rfl
theorem configApplyTimeout : Statement .configApplyTimeout := of_opcode rfl
theorem configCommit (cx : Cmd) :
    Statement (.configCommit cx) := of_opcode rfl
theorem configRead (cx : Cmd) (which : Nat) (reply : Reply) :
    Statement (.configRead cx which reply) := of_opcode rfl
theorem powerRetain (cx : Cmd) (timeout : Nat) :
    Statement (.powerRetain cx timeout) := of_opcode rfl
theorem retainDrainDone : Statement .retainDrainDone := of_opcode rfl
theorem retainDrainTimeout : Statement .retainDrainTimeout := of_opcode rfl
theorem retainClose : Statement .retainClose := of_opcode rfl
theorem retainStop : Statement .retainStop := of_opcode rfl
theorem retainSelfRefresh : Statement .retainSelfRefresh := of_opcode rfl
theorem retainRetention : Statement .retainRetention := of_opcode rfl
theorem lightWake (port : Nat) :
    Statement (.lightWake port) := of_opcode rfl
theorem frameWake (port : Nat) :
    Statement (.frameWake port) := of_opcode rfl
theorem wakeFrameRx (f : WakeFrame) :
    Statement (.wakeFrameRx f) := of_opcode rfl
theorem retainExitHub : Statement .retainExitHub := of_opcode rfl
theorem retainExitBent (bent : Nat) :
    Statement (.retainExitBent bent) := of_opcode rfl
theorem resetPartition (cx : Cmd) (mask : BitVec 4) :
    Statement (.resetPartition cx mask) := of_opcode rfl
theorem resetDevice (cx : Cmd) (fullTests : Bool) :
    Statement (.resetDevice cx fullTests) := of_opcode rfl
theorem fwBegin (cx : Cmd) (length : Nat) (version : Nat) (digest : BitVec 256) :
    Statement (.fwBegin cx length version digest) := of_opcode rfl
theorem fwChunk (cx : Cmd) (offset : Nat) (data : List Byte) :
    Statement (.fwChunk cx offset data) := of_opcode rfl
theorem fwFinish (cx : Cmd) (v : Unit) :
    Statement (.fwFinish cx v) := of_opcode rfl
theorem thermalHint (cx : Cmd) (inlet : Int) (flow : Nat) (lifetime : Nat) :
    Statement (.thermalHint cx inlet flow lifetime) := of_opcode rfl
theorem hintExpiry : Statement .hintExpiry := of_opcode rfl
theorem coolingBaseline (cx : Cmd) (mode : Nat) (value : Nat) :
    Statement (.coolingBaseline cx mode value) := of_opcode rfl
theorem statusRead (cx : Cmd) (reply : Reply) :
    Statement (.statusRead cx reply) := of_opcode rfl
theorem logRead (cx : Cmd) (log : Nat) (first : Nat) (count : Nat) (reply : Reply) :
    Statement (.logRead cx log first count reply) := of_opcode rfl
theorem regRead (cx : Cmd) (addrs : List Nat) :
    Statement (.regRead cx addrs) := of_opcode rfl
theorem regWrite (cx : Cmd) (addr : Nat) (value : Word) (mask : Word) :
    Statement (.regWrite cx addr value mask) := of_opcode rfl
theorem forceHotWrite (cx : Cmd) (bent : Nat) (on : Bool) :
    Statement (.forceHotWrite cx bent on) := of_opcode rfl
theorem peakClr (cx : Cmd) (bent : Nat) :
    Statement (.peakClr cx bent) := of_opcode rfl
theorem scrubRateWrite (cx : Cmd) (bent : Nat) (rate : Nat) :
    Statement (.scrubRateWrite cx bent rate) := of_opcode rfl
theorem pegMaxWrite (cx : Cmd) (bent : Nat) (pegMax : Nat) :
    Statement (.pegMaxWrite cx bent pegMax) := of_opcode rfl
theorem bayTrigClr (cx : Cmd) (bay : Nat) :
    Statement (.bayTrigClr cx bay) := of_opcode rfl
theorem laserFaultClear (cx : Cmd) (port : Nat) :
    Statement (.laserFaultClear cx port) := of_opcode rfl
theorem linkDegradedClear (cx : Cmd) (port : Nat) :
    Statement (.linkDegradedClear cx port) := of_opcode rfl
theorem neighMismatchClear (cx : Cmd) (port : Nat) :
    Statement (.neighMismatchClear cx port) := of_opcode rfl
theorem sensorDisagreeClear (cx : Cmd) :
    Statement (.sensorDisagreeClear cx) := of_opcode rfl
theorem inletDisagreeClear (cx : Cmd) :
    Statement (.inletDisagreeClear cx) := of_opcode rfl
theorem pllLossClear (cx : Cmd) :
    Statement (.pllLossClear cx) := of_opcode rfl
theorem marginRun (cx : Cmd) (bent : Nat) :
    Statement (.marginRun cx bent) := of_opcode rfl
theorem marginRunDone (bent : Nat) (sweep : Sweep MarginOutcome) :
    Statement (.marginRunDone bent sweep) := of_opcode rfl
theorem slotCommitWrite (w : SlotWrite) :
    Statement (.slotCommitWrite w) := of_opcode rfl
theorem statusWindowRead (port : Nat) (mailbox : Nat) (session : Nat) (va : Nat) (len : Nat) :
    Statement (.statusWindowRead port mailbox session va len) := of_opcode rfl
theorem statusWindowSnapshot : Statement .statusWindowSnapshot := of_opcode rfl
theorem stepAdmit (bay : Nat) :
    Statement (.stepAdmit bay) := of_opcode rfl
theorem cowCopyDone (bay : Nat) (target : PageRead) :
    Statement (.cowCopyDone bay target) := of_opcode rfl
theorem admissionTimeout (step : Nat) :
    Statement (.admissionTimeout step) := of_opcode rfl
theorem stepBoundary (bay : Nat) :
    Statement (.stepBoundary bay) := of_opcode rfl
theorem armedTrigger (bay : Nat) (window : Nat) (imm : BitVec 32) :
    Statement (.armedTrigger bay window imm) := of_opcode rfl
theorem gemm (r : StageRef) :
    Statement (.gemm r) := of_opcode rfl
theorem gemvStream (r : StageRef) :
    Statement (.gemvStream r) := of_opcode rfl
theorem conv (r : StageRef) :
    Statement (.conv r) := of_opcode rfl
theorem attend (r : StageRef) :
    Statement (.attend r) := of_opcode rfl
theorem attendBwd (r : StageRef) :
    Statement (.attendBwd r) := of_opcode rfl
theorem scatterKv (r : StageRef) :
    Statement (.scatterKv r) := of_opcode rfl
theorem norm (r : StageRef) :
    Statement (.norm r) := of_opcode rfl
theorem eltwise (r : StageRef) :
    Statement (.eltwise r) := of_opcode rfl
theorem convert (r : StageRef) :
    Statement (.convert r) := of_opcode rfl
theorem pegSeq (r : StageRef) :
    Statement (.pegSeq r) := of_opcode rfl
theorem pegSegmentEnd (joist : Nat) (bank : Nat) (found : List Finding) :
    Statement (.pegSegmentEnd joist bank found) := of_opcode rfl
theorem reduce (r : StageRef) :
    Statement (.reduce r) := of_opcode rfl
theorem braceImageArrival (bay : Nat) (a : Arrival) :
    Statement (.braceImageArrival bay a) := of_opcode rfl
theorem cull (r : StageRef) :
    Statement (.cull r) := of_opcode rfl
theorem stats (r : StageRef) :
    Statement (.stats r) := of_opcode rfl
theorem exchange (r : StageRef) :
    Statement (.exchange r) := of_opcode rfl
theorem await (r : StageRef) :
    Statement (.await r) := of_opcode rfl
theorem awaitTimeout (bay : Nat) (ix : Nat) :
    Statement (.awaitTimeout bay ix) := of_opcode rfl
theorem deviceLevelTimeout (bay : Nat) (ix : Nat) :
    Statement (.deviceLevelTimeout bay ix) := of_opcode rfl
theorem stageEnd (bay : Nat) (ix : Nat) :
    Statement (.stageEnd bay ix) := of_opcode rfl
theorem deadlineExpiry (session : Nat) (seq : Nat) :
    Statement (.deadlineExpiry session seq) := of_opcode rfl
theorem bayGate (bay : Nat) :
    Statement (.bayGate bay) := of_opcode rfl
theorem bayUngated (bay : Nat) :
    Statement (.bayUngated bay) := of_opcode rfl
theorem partitionFence (r : Nat) :
    Statement (.partitionFence r) := of_opcode rfl
theorem partitionDrain (r : Nat) :
    Statement (.partitionDrain r) := of_opcode rfl
theorem partitionStop (r : Nat) :
    Statement (.partitionStop r) := of_opcode rfl
theorem partitionQuiesce (r : Nat) :
    Statement (.partitionQuiesce r) := of_opcode rfl
theorem partitionClear (r : Nat) :
    Statement (.partitionClear r) := of_opcode rfl
theorem partitionReclaim (r : Nat) :
    Statement (.partitionReclaim r) := of_opcode rfl
theorem partitionSlices (r : Nat) :
    Statement (.partitionSlices r) := of_opcode rfl
theorem partitionRaise (r : Nat) :
    Statement (.partitionRaise r) := of_opcode rfl
theorem partitionReload (r : Nat) (missed : List (Nat × BitVec 32)) :
    Statement (.partitionReload r missed) := of_opcode rfl
theorem partitionDone (r : Nat) :
    Statement (.partitionDone r) := of_opcode rfl
theorem partitionResetOvertime (r : Nat) :
    Statement (.partitionResetOvertime r) := of_opcode rfl
theorem mgmtFrameRx (f : MgmtFrame) :
    Statement (.mgmtFrameRx f) := of_opcode rfl
theorem mgmtStatus : Statement .mgmtStatus := of_opcode rfl
theorem mgmtResetPartition : Statement .mgmtResetPartition := of_opcode rfl
theorem mgmtResetDevice : Statement .mgmtResetDevice := of_opcode rfl
theorem bringupKeeper (fw : Unit) :
    Statement (.bringupKeeper fw) := of_opcode rfl
theorem bringupHub (linkOk : Bool) (framerOk : Bool) (selfTest : SelfTest) :
    Statement (.bringupHub linkOk framerOk selfTest) := of_opcode rfl
theorem hubStageRetry : Statement .hubStageRetry := of_opcode rfl
theorem bringupLinks (failed : List Nat) (failedLanes : List Nat) :
    Statement (.bringupLinks failed failedLanes) := of_opcode rfl
theorem bringupEngines (calFailed : List Nat) (openPorts : List Nat) (noModule : List Nat) :
    Statement (.bringupEngines calFailed openPorts noModule) := of_opcode rfl
theorem bringupTopology (absent : List Nat) :
    Statement (.bringupTopology absent) := of_opcode rfl
theorem bringupRaising : Statement .bringupRaising := of_opcode rfl
theorem bringupSlices : Statement .bringupSlices := of_opcode rfl
theorem bringupTests (selfTestFailed : List Nat) (sliceFailed : List Nat) (absentLams : List Nat) (margin : Sweep (Nat × MarginOutcome)) :
    Statement (.bringupTests selfTestFailed sliceFailed absentLams margin) := of_opcode rfl
theorem bringupZero : Statement .bringupZero := of_opcode rfl
theorem bringupBroadcast (missed : List (Nat × BitVec 32)) :
    Statement (.bringupBroadcast missed) := of_opcode rfl
theorem ucodePacketRx (joist : Nat) (packet : Nat) (imageId : BitVec 32) (crcOk : Bool) :
    Statement (.ucodePacketRx joist packet imageId crcOk) := of_opcode rfl
theorem repairRoundEnd (missed : List (Nat × BitVec 32)) :
    Statement (.repairRoundEnd missed) := of_opcode rfl
theorem bringupReady : Statement .bringupReady := of_opcode rfl
theorem joistReload (joist : Nat) (missing : BitVec 32) :
    Statement (.joistReload joist missing) := of_opcode rfl
theorem rHello (port : Nat) (addr : Nat) :
    Statement (.rHello port addr) := of_opcode rfl
theorem rBegin (port : Nat) (addr : Nat) (challenge : BitVec 128) (length : Nat) (version : Nat) (digest : BitVec 256) (sigOk : BitVec 512) :
    Statement (.rBegin port addr challenge length version digest sigOk) := of_opcode rfl
theorem rData (port : Nat) (addr : Nat) (offset : Nat) (data : List Byte) :
    Statement (.rData port addr offset data) := of_opcode rfl
theorem rEnd (port : Nat) (addr : Nat) (v : Unit) :
    Statement (.rEnd port addr v) := of_opcode rfl
theorem recoverySilence : Statement .recoverySilence := of_opcode rfl
theorem recoveryDatagramRefused (port : Nat) (addr : Nat) :
    Statement (.recoveryDatagramRefused port addr) := of_opcode rfl
theorem rocePacketRx (p : Pkt) :
    Statement (.rocePacketRx p) := of_opcode rfl
theorem rdmaWriteRx (id : Nat) (found : List Finding) :
    Statement (.rdmaWriteRx id found) := of_opcode rfl
theorem rdmaReadRx (id : Nat) (found : List Finding) :
    Statement (.rdmaReadRx id found) := of_opcode rfl
theorem packetDelivered (id : Nat) :
    Statement (.packetDelivered id) := of_opcode rfl
theorem landingArrival (id : Nat) :
    Statement (.landingArrival id) := of_opcode rfl
theorem tallyReturnTimer (tenancy : Nat) (peer : Nat) :
    Statement (.tallyReturnTimer tenancy peer) := of_opcode rfl
theorem tallyReturnRx (id : PktRead) :
    Statement (.tallyReturnRx id) := of_opcode rfl
theorem ackRx (qpn : Nat) (psn : Nat) :
    Statement (.ackRx qpn psn) := of_opcode rfl
theorem nakRx (qpn : Nat) (psn : Nat) (kind : Nat) :
    Statement (.nakRx qpn psn kind) := of_opcode rfl
theorem ackTimeout (qpn : Nat) :
    Statement (.ackTimeout qpn) := of_opcode rfl
theorem ackCoalesceTimer (qpn : Nat) :
    Statement (.ackCoalesceTimer qpn) := of_opcode rfl
theorem cnpRx (qpn : Nat) :
    Statement (.cnpRx qpn) := of_opcode rfl
theorem cnpRateStep (qpn : Nat) :
    Statement (.cnpRateStep qpn) := of_opcode rfl
theorem pfcXoffRx (port : Nat) (priority : Nat) (quanta : Nat) :
    Statement (.pfcXoffRx port priority quanta) := of_opcode rfl
theorem pfcPauseExpiry (port : Nat) (priority : Nat) :
    Statement (.pfcPauseExpiry port priority) := of_opcode rfl
theorem arpRequestRx (port : Nat) (ip : Nat) (mac : Nat) (srcIp : Nat) :
    Statement (.arpRequestRx port ip mac srcIp) := of_opcode rfl
theorem arpReplyRx (port : Nat) (ip : Nat) (mac : Nat) :
    Statement (.arpReplyRx port ip mac) := of_opcode rfl
theorem icmpEchoRx (port : Nat) (ip : Nat) (srcIp : Nat) (id : Nat) :
    Statement (.icmpEchoRx port ip srcIp id) := of_opcode rfl
theorem frameDiscard (port : Nat) (bytes : Nat) (body : EthBody) (fcsOk : Bool) :
    Statement (.frameDiscard port bytes body fcsOk) := of_opcode rfl
theorem lldpSend : Statement .lldpSend := of_opcode rfl
theorem lldpRx (port : Nat) (f : LldpFrame) :
    Statement (.lldpRx port f) := of_opcode rfl
theorem portLinkUp (port : Nat) :
    Statement (.portLinkUp port) := of_opcode rfl
theorem portLinkDown (port : Nat) (laneSignal : BitVec 4) :
    Statement (.portLinkDown port laneSignal) := of_opcode rfl
theorem portTrainRetry (port : Nat) (laneSignal : BitVec 4) :
    Statement (.portTrainRetry port laneSignal) := of_opcode rfl
theorem fecRateCheck (port : Nat) (corrected : Nat) (uncorrected : Nat) :
    Statement (.fecRateCheck port corrected uncorrected) := of_opcode rfl
theorem laserPoll (modules : List LaserReading) (faults : List Nat) :
    Statement (.laserPoll modules faults) := of_opcode rfl
theorem laserModuleFault (engine : Nat) (cause : Nat) :
    Statement (.laserModuleFault engine cause) := of_opcode rfl
theorem laserRetry (engine : Nat) (works : Bool) :
    Statement (.laserRetry engine works) := of_opcode rfl
theorem reflectionOpen (port : Nat) :
    Statement (.reflectionOpen port) := of_opcode rfl
theorem reflectionProbe (port : Nat) (mated : Bool) :
    Statement (.reflectionProbe port mated) := of_opcode rfl
theorem linkFlitRx (link : Nat) (rx : FlitRx) :
    Statement (.linkFlitRx link rx) := of_opcode rfl
theorem keeperLinkMessage (authOk : Bool) :
    Statement (.keeperLinkMessage authOk) := of_opcode rfl
theorem refreshDue (joist : Nat) (bank : Nat) :
    Statement (.refreshDue joist bank) := of_opcode rfl
theorem refreshIssue (joist : Nat) (bank : Nat) :
    Statement (.refreshIssue joist bank) := of_opcode rfl
theorem scrubVisit (joist : Nat) (bank : Nat) (found : List Finding) :
    Statement (.scrubVisit joist bank found) := of_opcode rfl
theorem sramCe1Writeback (joist : Nat) (unit : Nat) (word : Nat) :
    Statement (.sramCe1Writeback joist unit word) := of_opcode rfl
theorem ce2CandidateExpiry (bent : Nat) :
    Statement (.ce2CandidateExpiry bent) := of_opcode rfl
theorem remapMramRetry : Statement .remapMramRetry := of_opcode rfl
theorem remapCopy (joist : Nat) (bank : Nat) (read : RowRead) :
    Statement (.remapCopy joist bank read) := of_opcode rfl
theorem sensorSample (readings : List SiteReading) :
    Statement (.sensorSample readings) := of_opcode rfl
theorem bentTripClear (bent : Nat) :
    Statement (.bentTripClear bent) := of_opcode rfl
theorem hubTripClear : Statement .hubTripClear := of_opcode rfl
theorem engineTripClear (engine : Nat) (calOk : Bool) :
    Statement (.engineTripClear engine calOk) := of_opcode rfl
theorem capSample (bent : Nat) (readings : List SiteReading) :
    Statement (.capSample bent readings) := of_opcode rfl
theorem powerMeasure (watts : Nat) (avg10ms : Nat) :
    Statement (.powerMeasure watts avg10ms) := of_opcode rfl
theorem lcapLower (avg10ms : Nat) :
    Statement (.lcapLower avg10ms) := of_opcode rfl
theorem rthUpdate (avg10ms : Nat) (thermistor : Int) :
    Statement (.rthUpdate avg10ms thermistor) := of_opcode rfl
theorem pcapUpdate : Statement .pcapUpdate := of_opcode rfl
theorem heartbeatTick : Statement .heartbeatTick := of_opcode rfl
theorem framerStall : Statement .framerStall := of_opcode rfl
theorem randomHealthFail : Statement .randomHealthFail := of_opcode rfl
theorem mramQueueFlush : Statement .mramQueueFlush := of_opcode rfl
theorem refclkLoss (hubPll : Bool) :
    Statement (.refclkLoss hubPll) := of_opcode rfl
theorem refclkValid : Statement .refclkValid := of_opcode rfl
theorem sillPllLoss (bent : Nat) :
    Statement (.sillPllLoss bent) := of_opcode rfl
theorem sillPllRelock (bent : Nat) (failures : Nat) :
    Statement (.sillPllRelock bent failures) := of_opcode rfl
theorem enginePllLoss (engine : Nat) :
    Statement (.enginePllLoss engine) := of_opcode rfl
theorem pwrokRise : Statement .pwrokRise := of_opcode rfl
theorem pwrokFall : Statement .pwrokFall := of_opcode rfl
theorem rstNAssert : Statement .rstNAssert := of_opcode rfl
theorem vddKeepRemoved : Statement .vddKeepRemoved := of_opcode rfl
theorem enginePllRelock (engine : Nat) (calOk : Bool) :
    Statement (.enginePllRelock engine calOk) := of_opcode rfl
theorem randomHealthRecovered : Statement .randomHealthRecovered := of_opcode rfl
theorem portLightLoss (port : Nat) :
    Statement (.portLightLoss port) := of_opcode rfl

end Sys2Proof.Laws.Catalogue
end

