-- ==== Sys2Proof/Tests/Slice0.lean ====
section
/-! SUPPORT. The author's own tests: for each clause of a statement, states and operands that meet its premises together;
worked examples of the spec; and ill-formed terms that WellFormed refuses. -/

namespace Sys2Proof.Tests
open Sys2Proof Sys2Proof.Machine

-- one proof after another: each proof in a thread of its own takes more memory than the check allows
set_option Elab.async false

/-! ### Small states -/

def ring : Ring := { key := 3, entries := 64 }
/-- An operator's session. -/
def opSession : Session := { mailbox := 255, slotFirst := 1, ports := 1, ring := ring, devQpn := 0x100, windowKey := 9 }
/-- A session of tenancy 0. -/
def tenSession : Session := { mailbox := 0, ports := 1, ring := ring, devQpn := 0x101, windowKey := 10 }
def ten0 : Tenancy := { hangMode := 0, bentMask := 15, maxBays := 4, ownerKey := 5, windowKey := 0x30000001 }
def bentOn : Bent := { rows := 40, up := true, stopped := false, sillLock := true, refreshOn := true }
def hostQp (i : Nat) : Qp := { port := 0, session := some i }
/-- A device at READY with an operator's session 1, tenancy 0 and its session 2. -/
def ready : State :=
  { kp := { loaded := true, stage := 0xA, hubHeld := false, remapFixed := true },
    qci := { sessions := [(1, some opSession), (2, some tenSession)] },
    ten := [(0, some ten0)],
    bnt := [(0, bentOn), (1, bentOn), (2, bentOn), (3, bentOn)],
    net := { qps := [(0x100, some (hostQp 1)), (0x101, some (hostQp 2))] },
    pwr := { pwrok := true },
    clk := { t := 34000000 } }
/-- The same with an operator key. -/
def keyed : State := { ready with kp := { ready.kp with operatorKey := some 77 } }
def opCmd : Cmd := { session := 1, seq := 1 }
def tenCmd : Cmd := { session := 2, seq := 1 }
def preCmd : Cmd := { session := 0xFFFF, seq := 1 }
def buf : Reply := { va := 0, key := 5, len := 100000 }
def body (mailbox : Nat) : OpenBody :=
  { mailbox := mailbox, slotCount := 1, portMask := 1, hostQpn := 7, hostPsn := 0, hostIp := 9, ringEntries := 64, ringVa := 0,
    ringKey := 3, hostEph := 1, hostNonce := 2, reply := buf }
/-- A bay of one joist, key 32, with a page cache. -/
def bay0 : Bay :=
  { tenancy := 0, session := 2, bentMask := 1, c0 := 0, r0 := 1, w := 1, h := 1, reserved := false, pageTokens := 16,
    pageFirst := 0, pageCount := 10, ptBase := 1048576, seqSlots := 4, tableLen := 10 }
def tensor (off : Nat) : Tensor := { fmt := .fp32, inSlice := false, extents := [(off, 64)], bytes := 64 }
/-- An image of one stage, with three tensors of 64 bytes in the bench. -/
def image (w : StageWork) : Image := { stages := [{ work := w }], tensors := [tensor 0, tensor 64, tensor 128], bytes := 4096 }
def awaiting : AwaitDesc := { window := 0, count := 1, timeout := 1000 }
def loaded (img : Image) : Bay := { bay0 with program := some img, landing := [(0, some { benchOff := 4096, extent := 64, nonce := 5, session := 2 })] }
/-- READY with bay 0 defined. -/
def withBays (y : Bay) : State := { ready with bay := { bays := [(0, some y)] } }
def stepCmd : Cmd := { session := 2, seq := 7 }
def aStep : Step := { id := 0, bay := 0, cx := stepCmd, prio := 0, arm := none, table := [], jigSeq := 1, admitTimeout := 1000 }
def active : Active := { ix := 0 }
/-- Bay 0 runs a step whose next stage is the image's only one. -/
def atStage (w : StageWork) : State :=
  { withBays (loaded (image w)) with jig := { steps := [{ aStep with phase := .running }], nextId := 1 } }
def theRun (w : StageWork) : Run :=
  { bay := 0, y := loaded (image w), img := image w, x := { aStep with phase := .running }, g := { work := w }, ix := 0, js := [32] }
def ref : StageRef := { bay := 0, ix := 0 }
def seq0 : SeqRec := { bay := 0, slot := 0, length := 3, entries := [1], pages := 1 }
/-- Bay 0 with sequence 0 open in it. -/
def withSeqs (q : SeqRec) : State := { withBays (loaded (image (.await awaiting))) with rack := { seqs := [(0, some q)], owner := [(1, 1)] } }
def entry0 : PeerEntry := { serial := 9, port := 0, grant := 64, ip := 11, qpn := 20, psn := 0, expChassis := 1, expPort := 2 }
def peer0 : Peer := { entry := entry0, qpn := 0x102 }
def job0 : Job := { cx := tenCmd, phase := 1, epoch := 1, scribeMode := false, size := 2, creditBase := 0, peers := [peer0] }
def win0 : SliceWin := { bay := 0, canWrite := true, canRead := true, addr := 0, extent := 4096, nonce := 5, session := 2 }
def winBay (y : Bay) : State :=
  { withBays y with bay := { bays := [(0, some y)], slices := [(0, some win0)] } }
def inForce (j : Job) : State := { withBays (loaded (image (.await awaiting))) with
  net := { ready.net with jobs := [(0, some j)], qps := [(0x100, some (hostQp 1)), (0x101, some (hostQp 2)), (0x102, some { port := 0, peer := some (0, 0) })] } }
def binding (j : Job) : State := { ready with net := { ready.net with binding := [(0, some j)] } }
def raisingAt (n : Nat) : State := { kp := { stage := n, raising := true }, pwr := { pwrok := true } }
def retainAt (n : Nat) : State := { ready with pwr := { ready.pwr with retain := n, retainCx := some opCmd } }
def bay1 : BayBody :=
  { bay := 63, bentMask := 1, c0 := 31, r0 := 39, w := 1, h := 1, reserved := false, pageTokens := 16, pageFirst := 0, pageCount := 64,
    ptBase := 1048576, seqSlots := 4, tableLen := 10 }
/-- A slot of mailbox 0: the fields of its header, COMMIT as SEQ has it, and its body. -/
def slotImage (seq opcode len flags session : Nat) (b : List Byte) : List Byte :=
  fieldBytes 32 [(0, 4, seq), (4, 2, opcode), (6, 2, len), (16, 2, session), (18, 2, flags)]
    ++ b ++ List.replicate (472 - b.length) 0 ++ fieldBytes 8 [(0, 4, seq), (4, 4, 2 ^ 32 - 1 - seq)]
def slotOf (data : List Byte) : SlotWrite := { mailbox := 0, slot := 0, port := 0, offset := 0, data := data }
/-- SEQ_OPEN of a bay, as the second session's command. -/
def slotWrite : SlotWrite := slotOf (slotImage 1 0x50 1 0 2 [0])
def slotReady (n : Nat) : State :=
  { ready with qci := { sessions := [(1, some opSession), (2, some { tenSession with expect := n })] } }
def aReset (phase : Nat) : PReset := { id := 0, bents := [1], phase := phase }
def inReset (z : PReset) : State := { withBays bay0 with pwr := { ready.pwr with resets := [z], nextReset := 1 } }
def frame : MgmtFrame := { port := 0, session := 1, counter := 5, action := 1, arg := 0 }
def sealedOp : Session := { opSession with isSealed := true }
def mgmtAt (f : MgmtFrame) : State :=
  { keyed with qci := { sessions := [(1, some sealedOp)] }, kp := { keyed.kp with mgmt := [f] } }
def rec0 : Recovery := { reason := 1, challenge := some 6 }
def transfer : Transfer := { addr := some 5, length := 4096, version := 1, digest := 0 }
def recovering (r : Recovery) : State := { kp := { stage := 13, recovery := some r }, pwr := { pwrok := true } }
def hostPkt : Pkt := { port := 0, qpn := 0x101, psn := 0, op := .write, rkey := 0x20000005, data := [1, 2] }
def hostQ : Qp := hostQp 2
def sliceState : State := winBay bay0
def peerQ : Qp := { port := 0, peer := some (0, 0) }
def peerState : State := inForce { job0 with phase := 3 }
def peerPkt : Pkt := { port := 0, qpn := 0x102, psn := 0, op := .writeImm, rkey := 0x10000000, data := [1, 2] }
def rx0 (p : Pkt) : RxPkt := { id := 0, pkt := p, cells := 2, bents := [0] }
def holding (s : State) (r : RxPkt) : State := { s with net := { s.net with rx := [r], nextRx := 1 } }
def tx0 : TxPkt := { qpn := 0x101, psn := 4, port := 0 }
def sent (p : TxPkt) : State := { ready with net := { ready.net with store := [p] } }
def lit (p : Port) : State := { ready with net := { ready.net with ports := [(0, p)] } }
def engineAt (e : Engine) : State := { ready with net := { ready.net with engines := [(0, e)] } }
def running : Engine := { state := 0, lanes := 0xFF, laserPresent := true, laserOn := true, pllLock := true }
def linkAt (l : Link) : State := { ready with lnk := [(0, l)] }
def bankAt (r : BankRefresh) : State := { ready with rfr := [(32 * 32, r)] }
def bentAt (b : Bent) : State := { ready with bnt := [(0, b), (1, bentOn), (2, bentOn), (3, bentOn)] }

def applyingState (a : Applying) : State := { ready with cfg := { applying := some a } }
def applying : State := applyingState { cx := opCmd, timeout := 5, settings := [] }
/-- A staged quiesce setting while bay 0 runs a step. -/
def quiescing : State :=
  { withBays (loaded (image (.await awaiting))) with
    jig := { steps := [{ aStep with phase := .running }], nextId := 1 }
    cfg := { staged := [{ block := 0, inst := 0, num := 1, value := [16] }] } }
/-- Port 1 watches for wake frames. -/
def waking : State := { ready with cfg := { inForce := [(settingId 0 0 2, some [1])] } }
def updating : State := { ready with kp := { ready.kp with update := some { session := 1, length := 4096, version := 1, digest := 0 } } }
def queued : State := { withBays (loaded (image (.await awaiting))) with jig := { steps := [{ aStep with cx := tenCmd }], nextId := 1 } }
def oneEntry : LtEntry := { seqId := 0, start := 3, qlen := 1, append := 0 }
def scat0 : ScatDesc := { stripe := { s := 1, first := 0, regionOff := 0, recBytes := 64 }, src := 0 }
def lackingStep : Step := { aStep with table := [{ oneEntry with append := 40 }] }
/-- A step that needs more page sets than its bay has. -/
def lacking : State :=
  { withSeqs seq0 with
    bay := { bays := [(0, some { loaded (image (.scatterKv scat0)) with pageCount := 2 })] }
    jig := { steps := [lackingStep], nextId := 1 } }
def admittedWith (l : List LtEntry) : State :=
  { withSeqs seq0 with
    jig := { steps := [{ aStep with phase := .admitted, table := l }], nextId := 1 }
    cfg := { inForce := [(settingId 4 0 2, some [0])] } }
def admitted : State := admittedWith []
def triggerBay : Bay := { loaded (image (.await awaiting)) with trigOn := true }
def armedStep : Step := { aStep with phase := .armed, arm := some 5 }
def armedState : State := { withBays triggerBay with jig := { steps := [armedStep], nextId := 1 } }
def matmul : MatDesc := { act := 0, wgt := 1, out := 2, vectors := 1, cols := 128, red := 1, leaveOpen := true }
def norm0 : NormDesc := { src := 0, gain := 1, bias := 1, out := 2, count := 16 }
def elt0 : EltDesc := { op := .add, a := 0, b := 1, c := 1, out := 2, count := 16 }
def cvt0 : CvtDesc := { src := 0, out := 2, count := 16 }
def att0 : AttDesc :=
  { vision := false, cacheFmt := .bf16, qFmt := .bf16, outFmt := .bf16, heads := 1, stripe := { s := 1, first := 0, regionOff := 0, recBytes := 64 },
    latent := 32, scale := 0x3F800000, maxRows := 1, entryCount := 64, qSrc := 0, outDst := 1024, stateOff := 4096 }
def attStep : Step := { aStep with phase := .running, table := [oneEntry] }
def attState : State := { atStage (.attend att0) with rack := { seqs := [(0, some seq0)], owner := [(1, 1)] }, jig := { steps := [attStep], nextId := 1 } }
def attRun : Run := { theRun (.attend att0) with x := attStep }
def scatStep : Step := { aStep with phase := .running, table := [{ oneEntry with append := 1 }] }
def scatState : State := { atStage (.scatterKv scat0) with rack := { seqs := [(0, some seq0)], owner := [(1, 1)] }, jig := { steps := [scatStep], nextId := 1 } }
def scatRun : Run := { theRun (.scatterKv scat0) with x := scatStep }
def zeroRow : PegInstr := { op := .zero, rowD := 3, count := 1, vlen := 16 }
def peg0 : PegDesc := { list := [zeroRow], banks := [23] }
/-- More row operations than one segment takes. -/
def peg49 : PegDesc := { list := List.replicate 49 zeroRow, banks := [23] }
def withActive (a : Active) : Step := { aStep with phase := .running, nextIx := 1, active := [a] }
def pegState (d : PegDesc) : State :=
  { atStage (.pegSeq d) with
    jig := { steps := [withActive active], nextId := 1 }
    joi := { joists := [(32, { pegList := d.list })], pegs := [(32 * 32 + 23, { busy := true, inSegment := true })] } }
def pegRun (d : PegDesc) : Run := { theRun (.pegSeq d) with x := withActive active }
def red0 : RedDesc := { op := .maxFp32, elements := 4, dst := 64 }
def redAcross : RedDesc := { red0 with exch := { count := 2, pos := 0, list := [0] } }
def peerJob : Job := { job0 with phase := 3 }
def withPeer (s : State) : State := { s with net := peerState.net }
def cull0 : CullDesc := { k := 2, segLen := 4, dst := 64 }
def waitActive : Active := { active with finished := false, device := some { level := 0 } }
def waiting : State := { withPeer (atStage (.reduce redAcross)) with jig := { steps := [withActive waitActive], nextId := 1 } }
def waitRun : Run := { theRun (.reduce redAcross) with x := withActive waitActive }
def stats0 : StatsDesc := { source := 2, tensor := 0, channels := 4, window := 0, offset := 0 }
def atStats (d : StatsDesc) : State := { atStage (.stats d) with
  bay := { bays := [(0, some (loaded (image (.stats d))))], slices := [(0, some win0)] } }
def exch0 : ExchangeDesc :=
  { peer := 0, window := 0, imm := true, first := 0, count := 1, src := 0, length := 64, dst := 0, stride := 64, senderPos := 0, peerBay := 0 }
def arrivedBay : Bay := { loaded (image (.await awaiting)) with arrivals := [(16, 1)] }
def arrived : State := { withBays arrivedBay with jig := { steps := [{ aStep with phase := .running }], nextId := 1 } }
def arrivedRun : Run := { theRun (.await awaiting) with y := arrivedBay }
def inStage (a : Active) : State := { withBays (loaded (image (.await awaiting))) with jig := { steps := [withActive a], nextId := 1 } }
def twoStages : Bay := loaded { image (.await awaiting) with stages := [{ work := .await awaiting }, { work := .await awaiting }] }
def inTwo (a : Active) : State := { withBays twoStages with jig := { steps := [withActive a], nextId := 1 } }
/-- A command waits in the framer, of a tenancy in a hang mode. -/
def takenState (hang : Nat) (u : Taken) : State :=
  { ready with qci := { ready.qci with taken := [u] }, ten := [(0, some { ten0 with hangMode := hang })] }
/-- Bring-up at TOPOLOGY with every link, sill and engine as the fuses say. -/
def judging : State :=
  { raisingAt 4 with
    lnk := (List.range 96).map (fun n => (n, { state := 0 }))
    net := { engines := (List.range 6).map (fun e => (e, running)) } }
def readPkt : Pkt := { hostPkt with op := .read, data := [], len := 2 }
def landed : State := { peerState with jig := { steps := [{ aStep with phase := .running, jigSeq := 0 }], nextId := 1 } }
def returnPkt : Pkt := { peerPkt with op := .send, data := [] }
/-- Port 0 has an IPv4 address. -/
def addressed : State := { ready with cfg := { inForce := [(settingId 2 0 3, some [21, 24])] } }

theorem one_of {α : Type} (l : List α) (d : α) (h : l.length = 1) : l = [l.headD d] := by
  obtain ⟨x, rfl⟩ := List.length_eq_one_iff.mp h
  rfl

/-- Sequence 0 is named by the running step of its bay. -/
def namedNow : State :=
  { withSeqs seq0 with jig := { steps := [{ aStep with phase := .running, table := [oneEntry] }], nextId := 1 } }
/-- A link whose bents have their transit clocks. -/
def clockedLink (n : Nat) (l : Link) : State :=
  { ready with
    bnt := [(0, { bentOn with transit := true }), (1, { bentOn with transit := true }), (2, { bentOn with transit := true }),
      (3, { bentOn with transit := true })]
    lnk := [(n, l)] }
def statusPkt : Pkt := { readPkt with rkey := 0x30000001, va := 0x1FFFC, len := 4 }
/-- Port 0's bootstrap queue pair latches its partner. -/
def latching : State := { ready with cfg := { inForce := [(settingId 2 0 9, some [0, 2])] } }


def lostRef : StageRef := { bay := 0, ix := 0, found := [{ joist := 0xFFFF0000, unit := 0x31, row := 0, cw := 0, kind := .ue }] }
def redSum0 : RedDesc := { op := .sumDatum, elements := 16, dst := 64, groups := [0] }
def redLeaf : RedDesc := { red0 with exch := { count := 2, pos := 1, list := [0] } }
/-- Group 0 of joist key 32 is open. -/
def openGroups (s : State) : State := { s with joi := { s.joi with groups := [(32 * 8, { isOpen := true })] } }
def cullAcross : CullDesc := { cull0 with exch := { count := 2, pos := 0, list := [0] } }
def waitLevel : DeviceWait := { level := 0, vector := [1, 2, 3, 4] }
def waitVec : Active := { waitActive with device := some waitLevel }
def waitVecRun : Run := { theRun (.reduce redAcross) with x := withActive waitVec }
def waitingVec : State := { withPeer (atStage (.reduce redAcross)) with jig := { steps := [withActive waitVec], nextId := 1 } }
/-- An image whose tensors are of an MX format. -/
def mxImage : Image :=
  { image (.gemvStream matmul) with tensors := [{ tensor 0 with fmt := .mxint8, scales := some 8192 }, { tensor 64 with fmt := .mxint8, scales := some 8448 }, tensor 128] }
def mxStream : State := { atStage (.gemvStream matmul) with bay := { bays := [(0, some (loaded mxImage))] } }
def bwdState : State := { attState with bay := { bays := [(0, some (loaded (image (.attendBwd att0))))] } }
def bwdRun : Run := { theRun (.attendBwd att0) with x := attStep }
def twoWrite : SlotWrite := slotOf (slotImage 1 0x50 1 1 2 [0])
def secondWrite : SlotWrite := slotOf (slotImage 2 0 0 0 2 [])
def laterWrite : SlotWrite := slotOf (slotImage 2 0x50 1 0 2 [0])
def halfTaken : State := { slotReady 2 with qci := { (slotReady 2).qci with half := [(2, some (slotCopy twoWrite 0 (slotLanded twoWrite ready)))] } }
/-- HELLO in the pre-session slot: a ring of 64 entries at 0 with key 3. -/
def helloWrite : SlotWrite := { slotOf (slotImage 1 1 14 0 0xFFFF (fieldBytes 14 [(8, 4, 3), (12, 2, 64)])) with mailbox := 255 }
def enrolling : State := { ready with kp := { ready.kp with fuses := { ready.kp.fuses with testPortOff := true } } }
def enrolled : State := (noteTaken preCmd 3 enrolling).onKp (fun k => { k with operatorKey := some 77 })
def stepTaken : Taken := { session := 2, seq := 7, opcode := 0x40, tag := 0, deadline := 5, at_ := 0 }
/-- Bay 0 runs its step, of which the framer knows a deadline, while a partition reset covers its bent. -/
def deadlineInReset : State :=
  { takenState 1 stepTaken with
    bay := { bays := [(0, some bay0)] }
    jig := { steps := [{ aStep with phase := .running }], nextId := 1 }
    pwr := { ready.pwr with resets := [{ aReset 3 with bents := [0] }], nextReset := 1 } }
def pegPast : PegDesc := { peg0 with overlap := true, join := 2 }
/-- Two PEG_SEQ stages, the first of them started. -/
def twoPegs : Image := { image (.pegSeq pegPast) with stages := [{ work := .pegSeq pegPast }, { work := .pegSeq peg0 }] }
def pegsRun : Run :=
  { bay := 0, y := loaded twoPegs, img := twoPegs, x := withActive active, g := { work := .pegSeq peg0 }, ix := 1, js := [32] }
def pegsState : State := { withBays (loaded twoPegs) with jig := { steps := [withActive active], nextId := 1 } }
def controlRef : StageRef := { bay := 0, ix := 0, found := [{ joist := 32, unit := 0x2A, row := 0, cw := 0, kind := .ue }] }
/-- A queued armed step, and one whose plan no longer fits its sequence. -/
def armQueued : State := { withBays triggerBay with jig := { steps := [{ armedStep with phase := .queued }], nextId := 1 } }
def staleStep : Step := { aStep with phase := .admitted, grant := { planned := [(0, 9)] } }
def planStale : State := { admitted with jig := { steps := [staleStep], nextId := 1 } }
def appending : Step := { aStep with id := 1, table := [{ oneEntry with append := 1 }] }
/-- An earlier step will append to a page that two sequences share. -/
def sharing : State :=
  { withSeqs seq0 with
    rack := { seqs := [(0, some seq0)], owner := [(1, 2)] }
    jig := { steps := [{ aStep with phase := .armed, arm := some 4, table := [oneEntry] }, appending], nextId := 2 } }
def oneQueued (x : Step) : State := { withSeqs seq0 with jig := { steps := [x], nextId := 1 } }
def copying : State :=
  { withSeqs seq0 with jig := { steps := [{ aStep with phase := .admitted, grant := { cows := [(0, 1, 2, false)] } }], nextId := 1 } }
/-- The state in which a step is admitted, where it is. -/
def admitTo (s : State) (x : Step) : State := match tryAdmit s x with | .admitted t => t | _ => s
/-- Bytes at the start of joist 32's slice, on which window 0 of tenancy 0 lies. -/
def sliceWith (b : List Byte) : State := { sliceState with mem := { slice := writeBytes [] (memKey true 32 0) b } }
/-- A program of one AWAIT with one landing window. -/
def progBytes : List Byte :=
  fieldBytes 192 [(0, 2, 1), (2, 2, 1), (4, 4, 64), (8, 4, 128), (12, 4, 64), (26, 2, 1), (64, 1, 0x0F), (82, 2, 1), (84, 4, 1000),
    (132, 4, 4096), (136, 4, 64)]
def progState : State := sliceWith progBytes
def progTaken : State := noteTaken tenCmd 48 progState
def progRead : List Byte := windowBytes progTaken win0 0 192
def zeroTaken : State := noteTaken tenCmd 48 sliceState
def zeroRead : List Byte := windowBytes zeroTaken win0 0 64
/-- A peer's table entry in the slice: serial 9 behind port 0, expected at port 2 of chassis 1. -/
def tableBytes0 : List Byte :=
  fieldBytes 64 [(0, 8, 9), (8, 1, 0), (10, 1, 7), (12, 4, 64), (19, 1, 11), (32, 3, 20), (40, 16, 1), (56, 8, 2)]
def tableState : State := sliceWith tableBytes0
/-- Port 0 with a neighbour. -/
def litPort (portId : Nat) : Port :=
  { link := 1, neighbour := some { subtype := 7, chassis := 1, portId := portId }, neighbourAt := 250000 }
def facing (portId : Nat) : State := { tableState with net := { tableState.net with ports := [(0, litPort portId)] } }
def table1 (s : State) : List PeerEntry := (peerTable (noteTaken tenCmd 96 s) win0 0 1).map (fun e => e.1)
def facingPeer : Peer := { peer0 with entry := { entry0 with expSubtype := 7 } }
/-- A bind of tenancy 0 with an enabled queue pair. -/
def bindingUp (j : Job) : State :=
  { facing 2 with net := { (facing 2).net with binding := [(0, some j)], qps := ready.net.qps ++ [(0x102, some { port := 0, peer := some (0, 0) })] } }
/-- A signature that verifies. -/
def mkSig (key : BitVec 512) (d : BitVec 256) : BitVec 512 := (Config.ecdsaS key d 0 false).zeroExtend 512
def ph2Peer : Peer := { peer0 with gotPh1 := true, peerGrant := 64 }

theorem signed_low (key : BitVec 512) (d : BitVec 256) (g : BitVec 512) (h : g.toNat = (Config.ecdsaS key d 0 false).toNat) :
    signedBy key d g = true := by
  have h0 : (g >>> 256).truncate 256 = (0 : BitVec 256) := by
    apply BitVec.eq_of_toNat_eq
    have := (Config.ecdsaS key d 0 false).isLt
    simp only [BitVec.truncate_eq_setWidth, BitVec.toNat_setWidth, BitVec.toNat_ushiftRight, Nat.shiftRight_eq_div_pow, h]
    rw [Nat.div_eq_of_lt this]
    rfl
  have h1 : g.truncate 256 = Config.ecdsaS key d 0 false := by
    apply BitVec.eq_of_toNat_eq
    simp only [BitVec.truncate_eq_setWidth, BitVec.toNat_setWidth, h, Nat.mod_eq_of_lt (Config.ecdsaS key d 0 false).isLt]
  simp [signedBy, h0, h1]

theorem signed_mkSig (key : BitVec 512) (d : BitVec 256) : signedBy key d (mkSig key d) = true := by
  refine signed_low key d _ ?_
  have := (Config.ecdsaS key d 0 false).isLt
  simp only [mkSig, BitVec.truncate_eq_setWidth, BitVec.toNat_setWidth]
  omega

theorem mgmt_good {s : State} {f : MgmtFrame} {x : Session} (hp : f.port ≤ 1) (hs : mgmtServed s = true) (hx : s.session f.session = some x)
    (hc : x.mgmtCounter < f.counter) (hl : x.isSealed = true) (ht : f.tag = mgmtTag x f) : mgmtFault s f = none := by
  simp [mgmtFault, hs, hx, hl, ← ht, Nat.not_lt.mpr hp, Nat.not_le.mpr hc]

theorem wake_good {s : State} {f : WakeFrame} {x : Session} (hx : s.session f.session = some x) (hm : x.mailbox = 0xFF)
    (hc : x.mgmtCounter < f.counter) (hl : x.isSealed = true) (ht : f.tag = wakeTag x f) : wakeFault s f = none := by
  simp [wakeFault, hx, hm, hl, ← ht, Nat.not_le.mpr hc]

/-- A frame with its tag. -/
def tagged (f : MgmtFrame) : MgmtFrame := { f with tag := mgmtTag sealedOp f }
def wakeFrame : WakeFrame := { port := 1, tenancy := 255, session := 1, counter := 1 }

/-- The big-endian bytes of a number, as an image holds them. -/
theorem leNat_bytes (n k : Nat) : leNat ((List.range k).map (fun i => BitVec.ofNat 8 (n / 256 ^ i))) = n % 256 ^ k := by
  induction k generalizing n with
  | zero => simp [leNat, Nat.mod_one]
  | succ k ih =>
    rw [List.range_succ_eq_map, List.map_cons, List.map_map]
    have h := ih (n / 256)
    simp only [Nat.div_div_eq_div_mul, ← Nat.pow_succ'] at h
    show (BitVec.ofNat 8 (n / 256 ^ 0)).toNat + 256 * leNat _ = _
    rw [show ((fun i => BitVec.ofNat 8 (n / 256 ^ i)) ∘ Nat.succ) = (fun i => BitVec.ofNat 8 (n / 256 ^ (i + 1))) from rfl, h,
      Nat.pow_succ' (n := k), Nat.mod_mul]
    simp

theorem leNat_zeros (l : List Byte) (n : Nat) : leNat (l ++ List.replicate n (0 : Byte)) = leNat l := by
  induction l with
  | nil => induction n with
    | zero => rfl
    | succ n ih =>
      show (0 : Byte).toNat + 256 * leNat (List.replicate n (0 : Byte)) = 0
      rw [show leNat (List.replicate n (0 : Byte)) = 0 from ih]; rfl
  | cons b l ih => exact congrArg (fun n => b.toNat + 256 * n) ih

theorem delivered_bytes : (readBytes deliveredImage 0 672).map BitVec.toNat =
    (List.range 672).map (fun i => ((deliveredHeader.lookup i).getD 0).toNat) := by decide +kernel

theorem delivered_signature (s : State) (h : s.kp.imageBytes = deliveredImage) :
    (imageSignature s).toNat = deliveredSignature.toNat := by
  have hl : imageLength s = 736 := by unfold imageLength imageField; rw [h]; decide +kernel
  have hr : (imageRange s 672 64).reverse =
      (List.range 32).map (fun i => BitVec.ofNat 8 (deliveredSignature.toNat / 256 ^ i)) ++ List.replicate 32 0 := by
    unfold imageRange; rw [h]; rfl
  have hv := deliveredSignature.isLt
  simp only [imageSignature, hl, beNat, hr, leNat_zeros, leNat_bytes, BitVec.toNat_ofNat]
  omega

/-- The image of a delivered device verifies. -/
theorem delivered_signed (s : State) (h : s.kp.imageBytes = deliveredImage) (hf : s.kp.fuses = {}) : imageSigned s = true := by
  have hl : imageLength s = 736 := by unfold imageLength imageField; rw [h]; decide +kernel
  have hk : imageKey s = 0 := by unfold imageKey imageField; rw [h]; decide +kernel
  have h4 : imageField s 64 1 = 4 := by unfold imageField; rw [h]; decide +kernel
  have hp : imagePubkey s = 0 := by unfold imagePubkey imageRange; rw [h]; decide +kernel
  have hd : sha (imageRange s 64 65) = s.kp.fuses.fwKey0 := by unfold imageRange sha; rw [h, hf]; rfl
  have hs : signedBy 0 (sha (imageRange s 0 672)) (imageSignature s) = true := by
    refine signed_low _ _ _ ?_
    rw [delivered_signature s h, deliveredSignature]
    unfold imageRange sha; rw [h, delivered_bytes]
  have hd : sha (imageRange s 64 65) = fusedKey s (imageKey s) := by rw [hk]; exact hd
  have hv : s.kp.fuses.revoke.getLsbD (imageKey s) = false := by rw [hf, hk]; rfl
  simp only [imageSigned, hp, hl, hd, hv, hs, h4, decide_true, Bool.and_true, Bool.not_false, and_true]
  rw [hk]; rfl

theorem delivered_accepted (s : State) (h : s.kp.imageBytes = deliveredImage) (hf : s.kp.fuses = {}) (hc : s.kp.fwCounter = 0) :
    imageAccepted s = true := by
  have hs : imageShaped s = true := by unfold imageShaped imageUcodeLen imageLength imageField; rw [h]; decide +kernel
  have hr : imageRomMin s = 0 := by unfold imageRomMin imageField; rw [h]; decide +kernel
  simp [imageAccepted, hs, delivered_signed s h hf, hc, hr]

theorem delivered_stored (s : State) (h : s.kp.imageBytes = deliveredImage) (hf : s.kp.fuses = {}) (hc : s.kp.fwCounter = 0)
    (hw : s.kp.commitLo = 0 ∧ s.kp.commitHi = 0xFFFFFFFF) : storedFault s = none := by
  have hs : imageShaped s = true := by unfold imageShaped imageUcodeLen imageLength imageField; rw [h]; decide +kernel
  have hv : imageVersion s = 0 := by unfold imageVersion imageField; rw [h]; decide +kernel
  have hr : imageRomMin s = 0 := by unfold imageRomMin imageField; rw [h]; decide +kernel
  simp [storedFault, hs, delivered_signed s h hf, hc, hr, hv, hw]

/-- A PH2 of the peer of serial 9, as it should be. -/
def ph2Unsigned (j : Job) (p : Peer) : Report :=
  { openMode := false, operatorKey := true, updateOpen := false, afterRecovery := false, cfgDefaulted := false, fwVersion := 0, serial := 9,
    devId := 0, fwCounter := 0, cfgEpoch := 0, tenancy := 0, session := 0, settingsSeq := 0, nonce := handshakeNonce (binding j) j p,
    mRom := Config.romDigest, mFw := 0, mUcode := 0, mFuse := 0, mSettings := 0, mProgram := 0, mOwner := keyDigest ten0.ownerKey,
    signature := 0 }
def ph2Good (j : Job) (p : Peer) : Ph2 :=
  { report := { ph2Unsigned j p with signature := mkSig 0 (sha ((reportBytes (ph2Unsigned j p)).take 320)) }
    chain := { linked := true, serial := 9, key := 0, root := Config.rootDigest } }
theorem ph2_good (j : Job) (p : Peer) (he : p.entry.serial = 9) (hg : p.peerGrant = p.entry.grant) :
    ph2Check (binding j) 0 j p (ph2Good j p) = none := by
  have hs : ∀ x, (reportBytes { ph2Unsigned j p with signature := x }).take 320 = (reportBytes (ph2Unsigned j p)).take 320 := fun x => by
    unfold reportBytes
    rw [List.take_left' (by simp [fieldBytes, beBytes, leBytes, List.flatMap]), List.take_left' (by simp [fieldBytes, beBytes, leBytes, List.flatMap])]
  have hv : signedBy (ph2Good j p).chain.key (sha ((reportBytes (ph2Good j p).report).take 320)) (ph2Good j p).report.signature = true := by
    rw [show (reportBytes (ph2Good j p).report).take 320 = _ from hs _]
    exact signed_mkSig _ _
  have h1 : (ph2Good j p).report.nonce = handshakeNonce (binding j) j p := rfl
  have h2 : (ph2Good j p).report.serial = 9 := rfl
  have h3 : some (ph2Good j p).report.mOwner = ((binding j).tenancy 0).map (fun x => keyDigest x.ownerKey) := rfl
  have h4 : (ph2Good j p).chain = { linked := true, serial := 9, key := 0, root := (binding j).kp.rootHash } := rfl
  have h5 : (ph2Good j p).report.openMode = false := rfl
  have h6 : (ph2Good j p).report.mFw = (binding j).kp.running.sha ∧ (ph2Good j p).report.mUcode = (binding j).kp.running.ucodeSha := ⟨rfl, rfl⟩
  rw [h4] at hv
  unfold ph2Check
  simp only [h1, h2, h3, h4, h5, h6.1, h6.2, he, hg, hv]
  simp

/-- Bytes 0 to 735 of a delivered image and their digest. -/
def update0 : FwUpdate := { session := 1, length := 736, version := 0, digest := sha (imageRange ready 0 736) }
def updating0 : State := { ready with kp := { ready.kp with update := some update0 } }
def transfer0 : Transfer := { addr := some 5, length := 736, version := 0, digest := sha (imageRange ready 0 736) }
/-- A trigger packet of the peer, placed, and the state in which it stands. -/
def trigRx (imm : Nat) : RxPkt := { rx0 { peerPkt with imm := imm } with placed := true }
def withTrigger (imm : Nat) (s : State) : State := { s with net := { peerState.net with rx := [trigRx imm], nextRx := 1 } }
def flitOf (n : Nat) : Flit := Vector.replicate 64 (BitVec.ofNat 8 n)
/-- A tenancy's handshake state and what JOB_BIND reads of the peer table there. -/
def tabled (s : State) : State := meetShared [] (noteTaken tenCmd 96 s)
def tableOf (s : State) : List PeerEntry := (peerTable (tabled s) win0 0 1).map (fun e => e.1)
def sealedState : State := { keyed with ten := [], qci := { sessions := [(1, some sealedOp)] } }
def noTen : State := { keyed with ten := [] }
def remap0 (row : Nat) : Remap := { joist := 32, bank := 23, row := row, spare := 0, isDone := false }
def withRemap (row : Nat) (s : State) : State := { s with kp := { s.kp with remaps := [remap0 row] } }
/-- A peg sequence has begun in bank 23 of joist 32. -/
def pegBegun : State := { pegState peg0 with joi := { joists := [(32, { pegList := peg0.list, pegBanks := [23], pegBegun := true })] } }
def reloading (n : Nat) : State := { ready with joi := { joists := [(32, { needsReload := true, reloadRound := n })] } }
def roundOf (n : Nat) : PReset := { aReset 8 with round := n, missing := [(joistKey 1 0, 1)] }
/-- A packet for bent 1 that nothing has acknowledged. -/
def draining : PReset := { aReset 1 with startedAt := 1000000 }
def drainState : State :=
  { inReset draining with net := { ready.net with rx := [{ rx0 hostPkt with bents := [1] }] } }
def goodImm : List Byte := List.replicate 16 0
def noLenWrite : SlotWrite := slotOf (slotImage 1 0x50 0 0 2 [])
def peerLit (j : Job) : State := { inForce j with net := { (inForce j).net with ports := [(0, { link := 1 })] } }
def pegFinding : Finding := { joist := 32, unit := 0, row := 0, cw := 0, kind := .ue }

/-! ### What meets the premises of each clause -/

theorem test_meets_SessionsEnd_1 : ∃ (cx : Cmd) (x : Session) (s : State),
    Accepts cx 4 s ∧ cx.session ≠ preSession ∧ s.session cx.session = some x ∧ holdsReserved s cx.session = false :=
  ⟨tenCmd, tenSession, ready,
    by unfold Accepts; decide +kernel⟩

theorem test_meets_SessionsEnd_2 : ∃ (cx : Cmd) (i : Nat) (x : Session) (s : State),
    Accepts cx 4 s ∧ isOperator s cx = true ∧ i ≠ preSession ∧ i ≠ cx.session ∧ s.session i = some x ∧
    holdsReserved s i = false :=
  ⟨opCmd, 2, tenSession, ready,
    by unfold Accepts; decide +kernel⟩

theorem test_meets_SessionsEnd_3 : ∃ (cx : Cmd) (body : OpenBody) (sig : BitVec 512) (key : BitVec 512) (x : Session) (s : State),
    signedBy key (openDigest s body 2 none) sig = true ∧ Accepts cx 3 s ∧ s.session cx.session = some x ∧ x.isSealed = true ∧
    x.mailbox = 255 ∧ body.mailbox = 255 ∧ s.kp.operatorKey = some key ∧ present s.ten = [] ∧ mramOpen s = true :=
  ⟨opCmd, body 255, mkSig 77 (openDigest sealedState (body 255) 2 none), 77, sealedOp, sealedState,
    signed_mkSig _ _, by unfold Accepts; decide +kernel⟩

theorem test_meets_MarginRunsComplete_1 : ∃ (cx : Cmd) (bent : Nat) (s : State) (s1 : State),
    s1 = noteTaken cx 180 s ∧ Accepts cx 180 s ∧ bent < 4 ∧ (bentsInReset s1).contains bent = false ∧
    baysOnBents s1 [bent] = [] ∧ (s1.bent bent).margining = none :=
  ⟨opCmd, 3, ready, noteTaken opCmd 180 ready,
    rfl, by unfold Accepts; decide +kernel⟩

theorem test_meets_MarginRunsComplete_2 : ∃ (bent : Nat) (outcomes : List MarginOutcome) (vdd : Nat) (cx : Cmd) (l : List MarginOutcome) (s : State),
    l = sweepOutcomes bent (sweepCeiling vdd) outcomes s ∧ bent < 4 ∧ (s.bent bent).margining = some cx :=
  ⟨3, [{ pjoist := 0, bank := 23, tLow := -3, tHigh := 4, vLow := -20, vHigh := 9 }], 1075, opCmd,
    sweepOutcomes 3 (sweepCeiling 1075) [{ pjoist := 0, bank := 23, tLow := -3, tHigh := 4, vLow := -20, vHigh := 9 }] { ready with bnt := [(3, { bentOn with margining := some opCmd })] }, { ready with bnt := [(3, { bentOn with margining := some opCmd })] },
    rfl, by decide +kernel⟩

theorem test_meets_WhatWasSentIsAnswered_1 : ∃ (qpn : Nat) (psn : Nat) (s : State),
    validAck s qpn psn false = true ∧ validAck s qpn psn true = false :=
  ⟨0x101, 4, sent tx0,
    by decide +kernel⟩

theorem test_meets_WhatWasSentIsAnswered_2 : ∃ (qpn : Nat) (psn : Nat) (s : State),
    validAck s qpn psn true = true ∧ validAck s qpn psn false = false :=
  ⟨0x101, 4, sent { tx0 with response := true },
    by decide +kernel⟩

theorem test_meets_WhatWasSentIsAnswered_3 : ∃ (qpn : Nat) (psn : Nat) (kind : Nat) (s : State),
    validAck s qpn psn false = true ∧ (kind = 0 ∨ kind = 4) :=
  ⟨0x101, 4, 4, sent tx0,
    by decide +kernel⟩

theorem test_meets_WhatWasSentIsAnswered_4 : ∃ (qpn : Nat) (psn : Nat) (kind : Nat) (q : Qp) (s : State),
    validAck s qpn psn false = true ∧ 1 ≤ kind ∧ kind ≤ 3 ∧ s.qp qpn = some q :=
  ⟨0x101, 4, 3, hostQ, sent tx0,
    by decide +kernel⟩

theorem test_meets_WhatWasSentIsAnswered_5 : ∃ (qpn : Nat) (p : TxPkt) (q : Qp) (s : State),
    oldestTx s qpn = some p ∧ s.qp qpn = some q ∧ p.retries < q.retryCount :=
  ⟨0x101, { tx0 with retries := 6 }, hostQ, sent { tx0 with retries := 6 },
    by decide +kernel⟩

theorem test_meets_WhatWasSentIsAnswered_6 : ∃ (qpn : Nat) (p : TxPkt) (q : Qp) (s : State),
    oldestTx s qpn = some p ∧ s.qp qpn = some q ∧ q.retryCount ≤ p.retries :=
  ⟨0x101, { tx0 with retries := 7 }, hostQ, sent { tx0 with retries := 7 },
    by decide +kernel⟩

theorem test_meets_WhatWasSentIsAnswered_7 : ∃ (qpn : Nat) (q : Qp) (s : State),
    s.qp qpn = some q ∧ 0 < q.unacked :=
  ⟨0x101, { hostQ with unacked := 1 }, { ready with net := { qps := [(0x101, some { hostQ with unacked := 1 })] } },
    by decide +kernel⟩

theorem test_meets_WhatWasSentIsAnswered_8 : ∃ (a : Nat) (k : Nat) (j : Job) (p : Peer) (s : State),
    s.job a = some j ∧ peerAt s a k = some p ∧ p.freedReturned < p.freed ∧ portUp s p.entry.port = true :=
  ⟨0, 0, { job0 with peers := [{ peer0 with freed := 1 }] }, { peer0 with freed := 1 },
    peerLit { job0 with peers := [{ peer0 with freed := 1 }] },
    by decide +kernel⟩

theorem test_meets_WhatWasSentIsAnswered_9 : ∃ (a : Nat) (k : Nat) (j : Job) (p : Peer) (s : State),
    s.job a = some j ∧ peerAt s a k = some p ∧ portUp s p.entry.port = false :=
  ⟨0, 0, job0, peer0, inForce job0,
    by decide +kernel⟩

theorem test_meets_WhatWasSentIsAnswered_10 : ∃ (id : Nat) (r : RxPkt) (q : Qp) (a : Nat) (k : Nat) (x : Peer) (s : State),
    ((nextRx s id fun r => r.pkt.op == PktOp.send) = some (r, q)) ∧ q.peer = some (a, k) ∧ peerAt s a k = some x :=
  ⟨0, rx0 returnPkt, peerQ, 0, 0, peer0, holding peerState (rx0 returnPkt),
    by decide +kernel⟩

theorem test_meets_DataStagesRun_1 : ∃ (ref : StageRef) (r : Run) (d : StatsDesc) (l : List (Nat × Nat × Nat)) (s : State),
    StageReady ref r s ∧ r.g.work = StageWork.stats d ∧
    recordPlaces (meetStage r.x.id (mine r r.found) (startCapture r s)) r.y.tenancy d = some l :=
  ⟨ref, theRun (.stats stats0), stats0, (recordPlaces (atStats stats0) 0 stats0).getD [], atStats stats0,
    by unfold StageReady; decide +kernel⟩

theorem test_meets_DataStagesRun_2 : ∃ (ref : StageRef) (r : Run) (d : StatsDesc) (s : State),
    StageReady ref r s ∧ r.g.work = StageWork.stats d ∧
    recordPlaces (meetStage r.x.id (mine r r.found) (startCapture r s)) r.y.tenancy d = none :=
  ⟨ref, theRun (.stats stats0), stats0, atStage (.stats stats0),
    by unfold StageReady; decide +kernel⟩

theorem test_meets_DataStagesRun_3 : ∃ (ref : StageRef) (r : Run) (d : ExchangeDesc) (e : Job × Peer) (u : State) (w : State × Bool) (s : State),
    peerReady s r.y.tenancy d.peer = Except.ok e ∧ u = startCapture r s ∧
    w = sendToPeer r.y.tenancy d.peer (gatherSends u r d e.fst e.snd).fst u ∧ StageReady ref r s ∧ ref.found = [] ∧
    r.g.work = StageWork.exchange d ∧ r.y.dmaHalted = false ∧ s.mem.benchMark = [] :=
  ⟨ref, theRun (.exchange exch0), exch0, (peerJob, peer0), withPeer (atStage (.exchange exch0)),
    sendToPeer 0 0 (gatherSends (withPeer (atStage (.exchange exch0))) (theRun (.exchange exch0)) exch0 peerJob peer0).1 (withPeer (atStage (.exchange exch0))), withPeer (atStage (.exchange exch0)),
    rfl, rfl, rfl, by unfold StageReady; decide +kernel⟩

theorem test_meets_DataStagesRun_4 : ∃ (ref : StageRef) (r : Run) (d : ExchangeDesc) (e : Job × Peer) (s : State),
    peerReady s r.y.tenancy d.peer = Except.ok e ∧ StageReady ref r s ∧ ref.found = [] ∧ r.g.work = StageWork.exchange d ∧
    r.y.dmaHalted = true :=
  ⟨ref, { theRun (.exchange exch0) with y := { loaded (image (.exchange exch0)) with dmaHalted := true } }, exch0, (peerJob,
    peer0), { withPeer (atStage (.exchange exch0)) with bay := { bays := [(0, some { loaded (image (.exchange exch0)) with dmaHalted := true })] } },
    rfl, by unfold StageReady; decide +kernel⟩

theorem test_meets_DataStagesRun_5 : ∃ (ref : StageRef) (r : Run) (d : ExchangeDesc) (s : State),
    StageReady ref r s ∧ dmaLost r.found = true ∧ r.g.work = StageWork.exchange d :=
  ⟨lostRef, { theRun (.exchange exch0) with found := lostRef.found }, exch0, withPeer (atStage (.exchange exch0)),
    by unfold StageReady; decide +kernel⟩

theorem test_meets_DataStagesRun_6 : ∃ (ref : StageRef) (r : Run) (d : ExchangeDesc) (st : Status) (s : State),
    peerReady s r.y.tenancy d.peer = Except.error st ∧ StageReady ref r s ∧ ref.found = [] ∧ r.g.work = StageWork.exchange d :=
  ⟨ref, theRun (.exchange exch0), exch0, .topology, atStage (.exchange exch0),
    rfl, by unfold StageReady; decide +kernel⟩

theorem test_meets_DataStagesRun_7 : ∃ (ref : StageRef) (r : Run) (d : AwaitDesc) (s : State),
    StageReady ref r s ∧ r.g.work = StageWork.await d ∧ d.count ≤ arrivals s r.bay r.x.jigSeq d.window :=
  ⟨ref, arrivedRun, awaiting, arrived,
    by unfold StageReady; decide +kernel⟩

theorem test_meets_DataStagesRun_8 : ∃ (ref : StageRef) (r : Run) (d : AwaitDesc) (s : State),
    StageReady ref r s ∧ r.g.work = StageWork.await d ∧ arrivals s r.bay r.x.jigSeq d.window < d.count :=
  ⟨ref, theRun (.await awaiting), awaiting, atStage (.await awaiting),
    by unfold StageReady; decide +kernel⟩

theorem test_meets_DataStagesRun_9 : ∃ (bay : Nat) (ix : Nat) (img : Image) (x : Step) (a : Active) (s : State),
    (((s.bayOf bay).bind fun y => y.program) = some img) ∧ runningStep s bay = some x ∧ stepOf s x.id = some x ∧
    (awaitOf img ix).isSome = true ∧ x.active = [a] ∧ a.ix = ix ∧ a.finished = false :=
  ⟨0, 0, image (.await awaiting), withActive { active with finished := false }, { active with finished := false },
    inStage { active with finished := false },
    by decide +kernel⟩

theorem test_meets_RefreshAndRepair_1 : ∃ (j : Nat) (b : Nat) (s : State),
    bankRefreshed s j b = true ∧ (s.refresh j b).postponed < 4 :=
  ⟨32, 0, bankAt { due := true, postponed := 3 },
    by decide +kernel⟩

theorem test_meets_RefreshAndRepair_2 : ∃ (j : Nat) (b : Nat) (s : State),
    bankRefreshed s j b = true ∧ 4 ≤ (s.refresh j b).postponed :=
  ⟨32, 0, bankAt { due := true, postponed := 4 },
    by decide +kernel⟩

theorem test_meets_RefreshAndRepair_3 : ∃ (j : Nat) (b : Nat) (s : State),
    bankRefreshed s j b = true ∧ bankIdle s j b = true ∧ ((s.refresh j b).due = true ∨ 0 < (s.refresh j b).postponed) :=
  ⟨32, 0, bankAt { due := false, postponed := 4 },
    by decide +kernel⟩

theorem test_meets_RefreshAndRepair_4 : ∃ (j : Nat) (b : Nat) (s : State),
    bankRefreshed s j b = true ∧ 0 < (s.bent (keyBent j)).rate ∧ bankIdle s j b = true :=
  ⟨5375, 23, ready,
    by decide +kernel⟩

theorem test_meets_RefreshAndRepair_6 : ∃ (b : Nat),
    b < 4 :=
  ⟨3,
    by decide +kernel⟩

theorem test_meets_RefreshAndRepair_7 : ∃ (s : State),
    mramOpen s = true :=
  ⟨ready,
    by decide +kernel⟩

theorem test_meets_RefreshAndRepair_8 : ∃ (j : Nat) (b : Nat) (row : Nat) (r : Remap) (s : State),
    pendingRemap s j b row = some r ∧ controllerReset s (keyBent j) = false ∧ bankRefreshed s j b = true ∧
    r.atReset = false ∧ rowPinned s j b row = false ∧ pegTurn s j b = true :=
  ⟨32, 23, 7, remap0 7, withRemap 7 ready,
    by decide +kernel⟩

theorem test_meets_RefreshAndRepair_9 : ∃ (j : Nat) (b : Nat) (row : Nat) (r : Remap) (s : State),
    pendingRemap s j b row = some r ∧ controllerReset s (keyBent j) = false ∧ bankRefreshed s j b = true ∧
    r.atReset = false ∧ rowPinned s j b row = true :=
  ⟨32, 23, 3, remap0 3, withRemap 3 pegBegun,
    by decide +kernel⟩

theorem test_meets_RefreshAndRepair_10 : ∃ (j : Nat) (b : Nat) (row : Nat) (r : Remap) (s : State),
    pendingRemap s j b row = some r ∧ controllerReset s (keyBent j) = true :=
  ⟨32, 23, 3, remap0 3, withRemap 3 (inReset { aReset 3 with bents := [0] }),
    by decide +kernel⟩

theorem test_meets_CompletionsAreRecorded_1 : ∃ (cx : Cmd) (s : State) (x : Session) (p : Nat),
    framerHung s = false ∧ (cx.seq ≠ 4294967295 ∨ cx.session = preSession) ∧ sessionRec s cx.session = some x ∧
    recordPort s cx.session x cx.port = some p ∧ 0 < x.ring.entries :=
  ⟨tenCmd, ready, tenSession, 0,
    by decide +kernel⟩

theorem test_meets_CompletionsAreRecorded_2 : ∃ (cx : Cmd) (s : State) (x : Session),
    framerHung s = false ∧ (cx.seq ≠ 4294967295 ∨ cx.session = preSession) ∧ sessionRec s cx.session = some x ∧
    (recordPort s cx.session x cx.port = none ∨ x.ring.entries = 0) :=
  ⟨preCmd, ready, emptyPre,
    by decide +kernel⟩

theorem test_meets_CompletionsAreRecorded_3 : ∃ (cx : Cmd) (s : State),
    framerHung s = true ∧ (cx.seq ≠ 4294967295 ∨ cx.session = preSession) :=
  ⟨tenCmd, { ready with kp := { ready.kp with framerStall := true } },
    by decide +kernel⟩

theorem test_meets_CompletionsAreRecorded_4 : ∃ (cx : Cmd),
    cx.seq = 4294967295 ∧ cx.session ≠ preSession :=
  ⟨{ session := 2, seq := 0xFFFFFFFF },
    by decide +kernel⟩

theorem test_meets_ResetCommandsRun_1 : ∃ (cx : Cmd) (mask : BitVec 4) (s : State) (s1 : State),
    s1 = noteTaken cx 129 s ∧ Accepts cx 129 s ∧ mask ≠ 0 ∧ mayReset s1 (tenantOf s1 cx) (bitsOf 4 mask.toNat) = true ∧
    (((bitsOf 4 mask.toNat).any fun b => (s.bent b).tripped) = false) ∧
    (bitsOf 4 mask.toNat).any (bentsInReset s).contains = false :=
  ⟨opCmd, 15, ready, noteTaken opCmd 129 ready,
    rfl, by unfold Accepts; decide +kernel⟩

theorem test_meets_ResetCommandsRun_2 : ∃ (cx : Cmd) (mask : BitVec 4) (s : State) (s1 : State),
    s1 = noteTaken cx 129 s ∧ Accepts cx 129 s ∧ mask ≠ 0 ∧ mayReset s1 (tenantOf s1 cx) (bitsOf 4 mask.toNat) = true ∧
    (bitsOf 4 mask.toNat).all (bentsInReset s).contains = true :=
  ⟨opCmd, 2, inReset (aReset 3), noteTaken opCmd 129 (inReset (aReset 3)),
    rfl, by unfold Accepts; decide +kernel⟩

theorem test_meets_ResetCommandsRun_3 : ∃ (cx : Cmd) (mask : BitVec 4) (l : List Nat) (s : State) (s1 : State),
    s1 = noteTaken cx 129 s ∧ (l = List.filter (fun b => !(bentsInReset s).contains b) (bitsOf 4 mask.toNat)) ∧
    Accepts cx 129 s ∧ mask ≠ 0 ∧ mayReset s1 (tenantOf s1 cx) (bitsOf 4 mask.toNat) = true ∧
    (((bitsOf 4 mask.toNat).any fun b => (s.bent b).tripped && !(bentsInReset s).contains b) = false) ∧ l ≠ [] :=
  ⟨opCmd, 2, [1], ready, noteTaken opCmd 129 ready,
    rfl, rfl, by unfold Accepts; decide +kernel⟩

theorem test_meets_ResetCommandsRun_4 : ∃ (cx : Cmd) (s : State),
    Accepts cx 130 s ∧ s.pwr.retainCx = none :=
  ⟨opCmd, ready,
    by unfold Accepts; decide +kernel⟩

theorem test_meets_ContributionsRoundAndSaturate_1 : ∃ (g : Group) (i : Nat) (d : Dy),
    g.acc.length = 16 ∧ i < 16 ∧ g.flagged = false ∧ d.m ≠ 0 :=
  ⟨{ isOpen := true, acc := List.replicate 16 0 }, 15, { m := 1, e := 200 },
    by decide +kernel⟩

theorem test_meets_ContributionsRoundAndSaturate_2 : ∃ (d : Dy),
    d.m = 0 :=
  ⟨{ m := 0, e := 3 },
    by decide +kernel⟩

theorem test_meets_ContributionsRoundAndSaturate_3 : ∃ (g : Group),
    g.ovf = true :=
  ⟨{ ovf := true },
    by decide +kernel⟩

theorem test_meets_PartitionResetEnds_1 : ∃ (r : Nat) (z : PReset) (s : State),
    resetOf s r = some z ∧ z.phase = 5 ∧ z.cause ≠ 3 :=
  ⟨0, aReset 5, inReset (aReset 5),
    by decide +kernel⟩

theorem test_meets_PartitionResetEnds_2 : ∃ (r : Nat) (z : PReset) (s : State),
    resetOf s r = some z ∧ z.phase = 6 :=
  ⟨0, aReset 6, inReset (aReset 6),
    by decide +kernel⟩

theorem test_meets_PartitionResetEnds_3 : ∃ (r : Nat) (z : PReset) (s : State),
    resetOf s r = some z ∧ z.phase = 7 :=
  ⟨0, aReset 7, inReset (aReset 7),
    by decide +kernel⟩

theorem test_meets_PartitionResetEnds_4 : ∃ (r : Nat) (z : PReset) (missed : List (Nat × BitVec 32)) (asked : List Nat) (s : State),
    resetOf s r = some z ∧ z.phase = 8 ∧ (asked = if z.round = 0 then List.flatMap (usableJoists s) z.bents else List.map (fun e => e.fst) z.missing) ∧ stillMissing s asked missed = [] :=
  ⟨0, { roundOf 1 with missing := [] }, [], [], inReset { roundOf 1 with missing := [] },
    by decide +kernel⟩

theorem test_meets_PartitionResetEnds_5 : ∃ (r : Nat) (z : PReset) (missed : List (Nat × BitVec 32)) (asked : List Nat) (m : List (Nat × BitVec 32)) (s : State),
    m = stillMissing s asked missed ∧ resetOf s r = some z ∧ z.phase = 8 ∧
    (asked = if z.round = 0 then List.flatMap (usableJoists s) z.bents else List.map (fun e => e.fst) z.missing) ∧ m ≠ [] ∧
    z.round < 3 :=
  ⟨0, roundOf 2, [(joistKey 1 0, 3)], [joistKey 1 0], [(joistKey 1 0, 1)], inReset (roundOf 2),
    rfl, by decide +kernel⟩

theorem test_meets_PartitionResetEnds_6 : ∃ (r : Nat) (z : PReset) (missed : List (Nat × BitVec 32)) (m : List (Nat × BitVec 32)) (s : State),
    (m = stillMissing s (List.map (fun e => e.fst) z.missing) missed) ∧ resetOf s r = some z ∧ z.phase = 8 ∧ 3 ≤ z.round ∧
    m ≠ [] :=
  ⟨0, roundOf 3, [(joistKey 1 0, 3)], [(joistKey 1 0, 1)], inReset (roundOf 3),
    rfl, by decide +kernel⟩

theorem test_meets_PartitionResetEnds_7 : ∃ (r : Nat) (z : PReset) (s : State),
    resetOf s r = some z ∧ z.phase = 9 ∧ z.cause ≠ 2 ∧ z.late = [] ∧ z.cxs = [] ∧ z.tripped = [] :=
  ⟨0, aReset 9, inReset (aReset 9),
    by decide +kernel⟩

theorem test_meets_PartitionResetEnds_8 : ∃ (r : Nat) (z : PReset) (s : State),
    resetOf s r = some z ∧ z.phase = 9 ∧ z.tripped = [] :=
  ⟨0, aReset 9, inReset (aReset 9),
    by decide +kernel⟩

theorem test_meets_PartitionResetEnds_9 : ∃ (r : Nat) (z : PReset) (cx : Cmd) (s : State),
    resetOf s r = some z ∧ z.phase = 9 ∧ z.late = [] ∧ z.cxs = [cx] ∧ z.tripped = [] :=
  ⟨0, { aReset 9 with cxs := [opCmd] }, opCmd, inReset { aReset 9 with cxs := [opCmd] },
    by decide +kernel⟩

theorem test_meets_PartitionResetEnds_10 : ∃ (r : Nat) (z : PReset) (s : State),
    resetOf s r = some z ∧ s.kp.stage ≠ 12 :=
  ⟨0, aReset 5, inReset (aReset 5),
    by decide +kernel⟩

theorem test_meets_RetainIsEntered_1 : ∃ (cx : Cmd) (timeout : Nat) (s : State) (s1 : State),
    s1 = noteTaken cx 128 s ∧ Accepts cx 128 s ∧ 1 ≤ timeout ∧ timeout ≤ 10000 ∧ retainBusy s1 = false ∧
    (((List.range 4).any fun b => (s1.bent b).tripped) = false) ∧ canWake s1 = true :=
  ⟨opCmd, 10000, waking, noteTaken opCmd 128 waking,
    rfl, by unfold Accepts; decide +kernel⟩

theorem test_meets_RetainIsEntered_2 : ∃ (cx : Cmd) (s : State),
    s.pwr.retainCx = some cx ∧ s.pwr.retain = 1 ∧ retainDrained s cx = true :=
  ⟨opCmd, retainAt 1,
    by decide +kernel⟩

theorem test_meets_RetainIsEntered_3 : ∃ (cx : Cmd) (s : State),
    s.pwr.retainCx = some cx ∧ s.pwr.retain = 1 :=
  ⟨opCmd, retainAt 1,
    by decide +kernel⟩

theorem test_meets_RetainIsEntered_4 : ∃ (cx : Cmd) (s : State),
    s.pwr.retainCx = some cx ∧ s.pwr.retain = 2 :=
  ⟨opCmd, retainAt 2,
    by decide +kernel⟩

theorem test_meets_RetainIsEntered_5 : ∃ (s : State),
    s.pwr.retain = 3 :=
  ⟨retainAt 3,
    by decide +kernel⟩

theorem test_meets_RetainIsEntered_6 : ∃ (s : State),
    s.pwr.retain = 4 :=
  ⟨retainAt 4,
    by decide +kernel⟩

theorem test_meets_RetainIsEntered_7 : ∃ (s : State),
    s.pwr.retain = 5 ∧ s.pwr.wakePending = false :=
  ⟨retainAt 5,
    by decide +kernel⟩

theorem test_meets_RetainIsEntered_8 : ∃ (s : State),
    s.pwr.retain = 5 ∧ s.pwr.wakePending = true :=
  ⟨{ retainAt 5 with pwr := { (retainAt 5).pwr with wakePending := true } },
    by decide +kernel⟩

theorem test_meets_KeeperTripLatches_1 : ∃ (r : SiteReading) (s : State),
    r.site = keeperSite ∧ s.kp.keeperTrip = false ∧ 105 * 16 ≤ keeperTemp (sampleSite r s) :=
  ⟨{ site := 540, a := 1680, b := 1680 }, ready,
    by decide +kernel⟩

theorem test_meets_KeeperTripLatches_2 : ∃ (c : Instr) (s : State) (t : State),
    c ≠ Instr.vddKeepRemoved ∧ exec c s = Host.Outcome.next t ∧ s.kp.keeperTrip = true :=
  ⟨.hintExpiry, { kp := { keeperTrip := true } }, { kp := { keeperTrip := true } },
    by simp, rfl, by decide +kernel⟩

theorem test_meets_KeeperTripLatches_3 : ∃ (s : State),
    s.kp.keeperTrip = true ∧ s.kp.raising = true ∧ s.kp.stage = 0 :=
  ⟨{ kp := { keeperTrip := true, raising := true } },
    by decide +kernel⟩

theorem test_meets_SequenceCommandsComplete_1 : ∃ (cx : Cmd) (bay : Nat) (t : Nat) (y : Bay) (q : Nat) (slot : Nat) (s : State) (s1 : State),
    s1 = noteTaken cx 80 s ∧ Owns cx bay t y s1 ∧ Accepts cx 80 s ∧ hasCache y = true ∧ freeSeqId s1 = some q ∧
    freeSlot s1 bay y = some slot :=
  ⟨tenCmd, 0, 0, bay0, 0, 0, withBays bay0, noteTaken tenCmd 80 (withBays bay0),
    rfl, ⟨by decide +kernel, ⟨ten0, by decide +kernel, rfl⟩, by decide +kernel, rfl, by decide +kernel⟩,
    by unfold Accepts; decide +kernel⟩

theorem test_meets_SequenceCommandsComplete_2 : ∃ (cx : Cmd) (parent : Nat) (position : Nat) (t : Nat) (r : SeqRec) (y : Bay) (q : Nat) (slot : Nat) (s : State) (s1 : State),
    s1 = noteTaken cx 81 s ∧ Owns cx r.bay t y s1 ∧ Accepts cx 81 s ∧ s1.seqRec parent = some r ∧ r.isOpen = true ∧
    position ≤ r.length ∧ freeSeqId s1 = some q ∧ freeSlot s1 r.bay y = some slot :=
  ⟨tenCmd, 0, 3, 0, seq0, loaded (image (.await awaiting)), 1, 1, withSeqs seq0, noteTaken tenCmd 81 (withSeqs seq0),
    rfl, ⟨by decide +kernel, ⟨ten0, by decide +kernel, rfl⟩, by decide +kernel, rfl, by decide +kernel⟩,
    by unfold Accepts; decide +kernel⟩

theorem test_meets_SequenceCommandsComplete_3 : ∃ (cx : Cmd) (q : Nat) (t : Nat) (r : SeqRec) (y : Bay) (s : State) (s1 : State),
    s1 = noteTaken cx 82 s ∧ Owns cx r.bay t y s1 ∧ Accepts cx 82 s ∧ s1.seqRec q = some r ∧ r.isOpen = true ∧
    namedPending s1 q = false ∧ namedRunning s1 q = false :=
  ⟨tenCmd, 0, 0, seq0, loaded (image (.await awaiting)), withSeqs seq0, noteTaken tenCmd 82 (withSeqs seq0),
    rfl, ⟨by decide +kernel, ⟨ten0, by decide +kernel, rfl⟩, by decide +kernel, rfl, by decide +kernel⟩,
    by unfold Accepts; decide +kernel⟩

theorem test_meets_SequenceCommandsComplete_4 : ∃ (cx : Cmd) (q : Nat) (t : Nat) (r : SeqRec) (y : Bay) (s : State) (s1 : State),
    s1 = noteTaken cx 82 s ∧ Owns cx r.bay t y s1 ∧ Accepts cx 82 s ∧ s1.seqRec q = some r ∧ r.isOpen = true ∧
    namedPending s1 q = false ∧ namedRunning s1 q = true :=
  ⟨tenCmd, 0, 0, seq0, loaded (image (.await awaiting)), namedNow, noteTaken tenCmd 82 namedNow,
    rfl, ⟨by decide +kernel, ⟨ten0, by decide +kernel, rfl⟩, by decide +kernel, rfl, by decide +kernel⟩,
    by unfold Accepts; decide +kernel⟩

theorem test_meets_SequenceCommandsComplete_5 : ∃ (cx : Cmd) (q : Nat) (n : Nat) (t : Nat) (r : SeqRec) (y : Bay) (s : State) (s1 : State),
    s1 = noteTaken cx 83 s ∧ Owns cx r.bay t y s1 ∧ Accepts cx 83 s ∧ s1.seqRec q = some r ∧ r.isOpen = true ∧ 64 < n :=
  ⟨tenCmd, 0, 65, 0, seq0, loaded (image (.await awaiting)), withSeqs seq0, noteTaken tenCmd 83 (withSeqs seq0),
    rfl, ⟨by decide +kernel, ⟨ten0, by decide +kernel, rfl⟩, by decide +kernel, rfl, by decide +kernel⟩,
    by unfold Accepts; decide +kernel⟩

theorem test_meets_SequenceCommandsComplete_6 : ∃ (cx : Cmd) (q : Nat) (t : Nat) (r : SeqRec) (y : Bay) (s : State) (s1 : State),
    s1 = noteTaken cx 83 s ∧ Owns cx r.bay t y s1 ∧ Accepts cx 83 s ∧ s1.seqRec q = some r ∧ r.isOpen = true ∧
    r.reserve.length ≤ 64 :=
  ⟨tenCmd, 0, 0, seq0, loaded (image (.await awaiting)), withSeqs seq0, noteTaken tenCmd 83 (withSeqs seq0),
    rfl, ⟨by decide +kernel, ⟨ten0, by decide +kernel, rfl⟩, by decide +kernel, rfl, by decide +kernel⟩,
    by unfold Accepts; decide +kernel⟩

theorem test_meets_SequenceCommandsComplete_7 : ∃ (cx : Cmd) (q : Nat) (n : Nat) (t : Nat) (r : SeqRec) (y : Bay) (s : State) (s1 : State),
    s1 = noteTaken cx 83 s ∧ Owns cx r.bay t y s1 ∧ Accepts cx 83 s ∧ s1.seqRec q = some r ∧ r.isOpen = true ∧ n ≤ 64 ∧
    n < r.reserve.length :=
  ⟨tenCmd, 0, 0, 0, { seq0 with reserve := [2] }, loaded (image (.await awaiting)), withSeqs { seq0 with reserve := [2] },
    noteTaken tenCmd 83 (withSeqs { seq0 with reserve := [2] }),
    rfl, ⟨by decide +kernel, ⟨ten0, by decide +kernel, rfl⟩, by decide +kernel, rfl, by decide +kernel⟩,
    by unfold Accepts; decide +kernel⟩

theorem test_meets_SequenceCommandsComplete_8 : ∃ (cx : Cmd) (q : Nat) (n : Nat) (ps : List Nat) (t : Nat) (r : SeqRec) (y : Bay) (s : State) (s1 : State),
    s1 = noteTaken cx 83 s ∧ Owns cx r.bay t y s1 ∧ Accepts cx 83 s ∧ s1.seqRec q = some r ∧ r.isOpen = true ∧ n ≤ 64 ∧
    r.reserve.length < n ∧ (pickPages (fun x => true) (n - r.reserve.length) (freePages s1 r.bay y) = some ps) :=
  ⟨tenCmd, 0, 2, [2, 3], 0, seq0, loaded (image (.await awaiting)), withSeqs seq0, noteTaken tenCmd 83 (withSeqs seq0),
    rfl, ⟨by decide +kernel, ⟨ten0, by decide +kernel, rfl⟩, by decide +kernel, rfl, by decide +kernel⟩,
    by unfold Accepts; decide +kernel⟩

theorem test_meets_AttentionStagesRun_1 : ∃ (ref : StageRef) (r : Run) (d : AttDesc) (s : State),
    StageReady ref r s ∧ r.g.work = StageWork.attend d :=
  ⟨ref, theRun (.attend att0), att0, atStage (.attend att0),
    by unfold StageReady; decide +kernel⟩

theorem test_meets_AttentionStagesRun_2 : ∃ (ref : StageRef) (r : Run) (d : AttDesc) (l : List AttEnt) (root : Nat) (k : Nat) (s : State),
    l = attEnts s r d ∧ root = r.js.head?.getD 0 ∧ (∀ (n : Nat) (x : HeadOut),
    (attendOuts s.mem r d 0 l).fst[n]? = some x → (∀ (w : Nat × List Byte),
    w ∈ partWrites r.g d 4 d.outDst n x.out → k < memKey false root w.fst ∨ memKey false root w.fst + w.snd.length ≤ k) ∧
    (d.saveStats = true → k < memKey false root (d.statsOff + 8 * n) ∨ memKey false root (d.statsOff + 8 * n) + x.stats.length ≤ k)) ∧ (∀ (j : Nat), j ∈ r.js → k < memKey false j d.stateOff ∨ memKey false j d.stateOff + d.maxRows * d.heads * (4 * d.latent + 8) ≤ k) ∧ StageReady ref r s ∧ ref.found = [] ∧ r.g.work = StageWork.attend d ∧ r.g.num.replay = false ∧ s.mem.benchMark = [] ∧ s.mem.sliceMark = [] :=
  ⟨ref, attRun, att0, attEnts attState attRun att0, 32, 0, attState,
    rfl, rfl, by intro n x _; exact ⟨fun w _ => .inl (by simp [memKey] <;> omega), fun h => by cases h⟩,
    by intro j hj; exact .inl (by simp [memKey, att0]), by unfold StageReady; decide +kernel⟩

theorem test_meets_AttentionStagesRun_3 : ∃ (ref : StageRef) (r : Run) (d : AttDesc) (l : List AttEnt) (root : Nat) (x : HeadOut) (ws : List (Nat × List Byte)) (s : State),
    l = attEnts s r d ∧ root = r.js.head?.getD 0 ∧ (attendOuts s.mem r d 0 l).fst = [x] ∧
    ws = partWrites r.g d 4 d.outDst 0 x.out ∧ StageReady ref r s ∧ ref.found = [] ∧ r.g.work = StageWork.attend d ∧
    r.g.num.replay = false ∧ s.mem.benchMark = [] ∧ s.mem.sliceMark = [] ∧ d.saveStats = false ∧
    (List.Pairwise (fun a b => a.fst + a.snd.length ≤ b.fst ∨ b.fst + b.snd.length ≤ a.fst) ws) ∧ (∀ (w : Nat × List Byte),
    w ∈ ws → w.fst + w.snd.length ≤ d.stateOff) ∧ d.stateOff + d.maxRows * d.heads * (4 * d.latent + 8) ≤ 262144 :=
  ⟨ref, attRun, att0, attEnts attState attRun att0, 32,
    (attendOuts attState.mem attRun att0 0 (attEnts attState attRun att0)).1.headD { out := {}, stats := [] },
    partWrites attRun.g att0 4 att0.outDst 0 ((attendOuts attState.mem attRun att0 0 (attEnts attState attRun att0)).1.headD { out := {}, stats := [] }).out, attState,
    rfl, rfl, one_of _ _ (by decide +kernel), rfl, by unfold StageReady; decide +kernel⟩

theorem test_meets_AttentionStagesRun_4 : ∃ (ref : StageRef) (r : Run) (d : AttDesc) (s : State),
    StageReady ref r s ∧ r.g.work = StageWork.attendBwd d :=
  ⟨ref, theRun (.attendBwd att0), att0, atStage (.attendBwd att0),
    by unfold StageReady; decide +kernel⟩

theorem test_meets_AttentionStagesRun_5 : ∃ (ref : StageRef) (r : Run) (d : AttDesc) (xs : List BwdJoist) (k : Nat) (s : State),
    (xs = List.map (fun e => bwdJoist s.mem r d 0 (attEnts s r d) e.fst e.snd) (List.mapIdx (fun n j => (n, j)) r.js)) ∧
    (∀ (w : BenchWrite) (p : Nat × List Byte), w ∈ (dqWrites s.mem r d 0 xs).fst ++ List.flatMap (fun x => (dcWrites s.mem r d 0 x).fst) xs → p ∈ w.parts → k < memKey false w.j p.fst ∨ memKey false w.j p.fst + p.snd.length ≤ k) ∧ (∀ (j : Nat), j ∈ r.js → k < memKey false j d.stateOff ∨ memKey false j d.stateOff + d.maxRows * d.heads * (4 * d.latent + 8) ≤ k) ∧ StageReady ref r s ∧ ref.found = [] ∧ r.g.work = StageWork.attendBwd d ∧ r.g.num.replay = false ∧ s.mem.benchMark = [] ∧ s.mem.sliceMark = [] :=
  ⟨ref, bwdRun, att0, (bwdRun.js.mapIdx (fun n j => (n,
    j))).map (fun e => bwdJoist bwdState.mem bwdRun att0 0 (attEnts bwdState bwdRun att0) e.1 e.2), 0, bwdState,
    rfl, by intro w p hw hp; exact of_decide_eq_true (List.all_eq_true.mp (List.all_eq_true.mp (show List.all _ (fun (w : BenchWrite) => w.parts.all (fun p => decide (0 < memKey false w.j p.1 ∨ memKey false w.j p.1 + p.2.length ≤ 0))) = true by decide +kernel) w hw) p hp), by intro j hj; exact .inl (by simp [memKey, att0]), by unfold StageReady; decide +kernel⟩

theorem test_meets_AttentionStagesRun_6 : ∃ (ref : StageRef) (r : Run) (d : ScatDesc) (s : State),
    StageReady ref r s ∧ r.g.work = StageWork.scatterKv d ∧ (∀ (e : Nat × Nat),
    e ∈ scatterBanks s r → pegTurn s e.fst e.snd = true) :=
  ⟨ref, scatRun, scat0, scatState,
    by unfold StageReady; decide +kernel⟩

theorem test_meets_AttentionStagesRun_7 : ∃ (ref : StageRef) (r : Run) (d : ScatDesc) (j : Nat) (e : LtEntry) (q : SeqRec) (page : Nat) (base : Nat) (s : State),
    page = q.entries.getD (q.length / r.y.pageTokens) 0 ∧
    base = page * 16384 + d.stripe.regionOff + q.length % r.y.pageTokens * d.stripe.recBytes ∧ StageReady ref r s ∧
    ref.found = [] ∧ r.g.work = StageWork.scatterKv d ∧ d.stripe.s = 1 ∧ r.js = [j] ∧ r.x.table = [e] ∧ e.append = 1 ∧
    s.seqRec e.seqId = some q ∧ q.isOpen = true ∧ (∀ (e : Nat × Nat), e ∈ scatterBanks s r → pegTurn s e.fst e.snd = true) ∧
    r.x.grant.staging = [] ∧ s.mem.benchMark = [] ∧ s.mem.sliceMark = [] ∧ d.stripe.recBytes ≤ 16384 :=
  ⟨ref, scatRun, scat0, 32, { oneEntry with append := 1 }, seq0, 1, 16384 + 3 * 64, scatState,
    rfl, rfl, by unfold StageReady; decide +kernel⟩

theorem test_meets_CongestionSlowsAQueuePair_1 : ∃ (qpn : Nat) (q : Qp) (s : State),
    s.qp qpn = some q ∧ (∀ (a : Nat), q.cnpAt = some a → a + 50 ≤ usNow s) :=
  ⟨0x101, hostQ, ready,
    by decide +kernel⟩

theorem test_meets_CongestionSlowsAQueuePair_2 : ∃ (qpn : Nat) (q : Qp) (a : Nat) (s : State),
    s.qp qpn = some q ∧ q.cnpAt = some a ∧ usNow s < a + 50 :=
  ⟨0x101, { hostQ with cnpAt := some 9999 }, 9999, { ready with net := { qps := [(0x101, some { hostQ with cnpAt := some 9999 })] } },
    by decide +kernel⟩

theorem test_meets_CongestionSlowsAQueuePair_3 : ∃ (qpn : Nat) (q : Qp) (s : State),
    s.qp qpn = some q ∧ q.cnpRuns < 5 :=
  ⟨0x101, hostQ, ready,
    by decide +kernel⟩

theorem test_meets_CongestionSlowsAQueuePair_4 : ∃ (qpn : Nat) (q : Qp) (s : State),
    s.qp qpn = some q ∧ 5 ≤ q.cnpRuns :=
  ⟨0x101, { hostQ with cnpRuns := 5 }, { ready with net := { qps := [(0x101, some { hostQ with cnpRuns := 5 })] } },
    by decide +kernel⟩

theorem test_meets_CongestionSlowsAQueuePair_5 : ∃ (s : State),
    s.cfg.inForce = [] :=
  ⟨ready,
    by decide +kernel⟩

theorem test_meets_CongestionSlowsAQueuePair_6 : ∃ (port : Nat) (s : State),
    portPresent s port = true :=
  ⟨11, ready,
    by decide +kernel⟩

theorem test_meets_CongestionSlowsAQueuePair_7 : ∃ (port : Nat) (s : State),
    portPresent s port = true :=
  ⟨11, ready,
    by decide +kernel⟩

theorem test_meets_BringUpTestsAndZeroes_1 : ∃ (absent : List Nat) (s : State),
    s.kp.raising = true ∧ s.kp.stage = 4 ∧ s.kp.faultKind = 0 ∧ mismatch (noteAbsent absent s) absent = none :=
  ⟨[], judging,
    by decide +kernel⟩

theorem test_meets_BringUpTestsAndZeroes_2 : ∃ (absent : List Nat) (f : Nat × Nat) (s : State),
    s.kp.raising = true ∧ s.kp.stage = 4 ∧ s.kp.faultKind = 0 ∧ mismatch (noteAbsent absent s) absent = some f :=
  ⟨[3], (1, 3), judging,
    by decide +kernel⟩

theorem test_meets_BringUpTestsAndZeroes_3 : ∃ (s : State),
    s.kp.raising = true ∧ s.kp.stage = 4 ∧ s.kp.faultKind ≠ 0 :=
  ⟨{ raisingAt 4 with kp := { (raisingAt 4).kp with faultKind := 2 } },
    by decide +kernel⟩

theorem test_meets_BringUpTestsAndZeroes_4 : ∃ (s : State),
    s.kp.raising = true ∧ s.kp.stage = 5 :=
  ⟨raisingAt 5,
    by decide +kernel⟩

theorem test_meets_BringUpTestsAndZeroes_5 : ∃ (s : State),
    s.kp.raising = true ∧ s.kp.stage = 6 :=
  ⟨raisingAt 6,
    by decide +kernel⟩

theorem test_meets_BringUpTestsAndZeroes_6 : ∃ (s : State),
    s.kp.raising = true ∧ s.kp.stage = 7 ∧ s.kp.fastPath = false :=
  ⟨raisingAt 7,
    by decide +kernel⟩

theorem test_meets_BringUpTestsAndZeroes_7 : ∃ (s : State),
    s.kp.raising = true ∧ s.kp.stage = 7 ∧ s.kp.fastPath = true :=
  ⟨{ raisingAt 7 with kp := { (raisingAt 7).kp with fastPath := true } },
    by decide +kernel⟩

theorem test_meets_BringUpTestsAndZeroes_8 : ∃ (s : State),
    s.kp.raising = true ∧ s.kp.stage = 8 :=
  ⟨raisingAt 8,
    by decide +kernel⟩

theorem test_meets_DieLinksReplay_1 : ∃ (n : Nat) (back : Bool) (x : Option Flit) (f : Flit) (rest : List Flit) (s : State),
    n < 96 ∧ linkUp s n = true ∧ linkClocked s n = true ∧ (Link.dir back (s.link n)).flits ++ x.toList = f :: rest :=
  ⟨95, true, some (flitOf 7), flitOf 5, [flitOf 7], clockedLink 95 { state := 0, rev := { held := [flitOf 5] } },
    by decide +kernel⟩

theorem test_meets_DieLinksReplay_2 : ∃ (n : Nat) (back : Bool) (x : Option Flit) (f : Flit) (rest : List Flit) (recent : List Nat) (s : State),
    (recent = List.filter (fun a => Decidable.decide (keeperNow s < a + replayWindow s)) (s.link n).replays ++ [keeperNow s]) ∧ n < 96 ∧ linkUp s n = true ∧ linkClocked s n = true ∧ (Link.dir back (s.link n)).flits ++ x.toList = f :: rest ∧ recent.length ≤ replayLimit s :=
  ⟨0, false, none, flitOf 5, [], [250000], clockedLink 0 { state := 0, fwd := { held := [flitOf 5] } },
    rfl, by decide +kernel⟩

theorem test_meets_DieLinksReplay_3 : ∃ (n : Nat) (back : Bool) (x : Option Flit) (f : Flit) (rest : List Flit) (s : State),
    n < 96 ∧ linkUp s n = true ∧ linkClocked s n = true ∧ (Link.dir back (s.link n)).flits ++ x.toList = f :: rest ∧
    (replayLimit s < (List.filter (fun a => Decidable.decide (keeperNow s < a + replayWindow s)) (s.link n).replays).length + 1) :=
  ⟨63, false, none, flitOf 5, [], clockedLink 63 { state := 0, fwd := { held := [flitOf 5] }, replays := List.replicate 100 250000 },
    by decide +kernel⟩

theorem test_meets_ElementWiseStagesRun_1 : ∃ (ref : StageRef) (r : Run) (d : NormDesc) (s : State),
    StageReady ref r s ∧ r.g.work = StageWork.norm d :=
  ⟨ref, theRun (.norm norm0), norm0, atStage (.norm norm0),
    by unfold StageReady; decide +kernel⟩

theorem test_meets_ElementWiseStagesRun_2 : ∃ (ref : StageRef) (r : Run) (d : NormDesc) (base : Nat) (len : Nat) (jx : Nat) (j : Nat) (i : Nat) (s : State),
    StageReady ref r s ∧ ref.found = [] ∧ r.g.work = StageWork.norm d ∧ PlainBench r.img d.out base len ∧ 4 * d.count ≤ len ∧
    base + len ≤ 262144 ∧ r.js.Nodup ∧ s.mem.benchMark = [] ∧ s.mem.sliceMark = [] ∧ r.js[jx]? = some j ∧ i < d.count :=
  ⟨ref, theRun (.norm norm0), norm0, 128, 64, 0, 32, 15, atStage (.norm norm0),
    by unfold StageReady PlainBench; decide +kernel⟩

theorem test_meets_ElementWiseStagesRun_3 : ∃ (ref : StageRef) (r : Run) (d : EltDesc) (s : State),
    StageReady ref r s ∧ r.g.work = StageWork.eltwise d :=
  ⟨ref, theRun (.eltwise elt0), elt0, atStage (.eltwise elt0),
    by unfold StageReady; decide +kernel⟩

theorem test_meets_ElementWiseStagesRun_4 : ∃ (ref : StageRef) (r : Run) (d : EltDesc) (base : Nat) (len : Nat) (jx : Nat) (j : Nat) (i : Nat) (s : State),
    StageReady ref r s ∧ ref.found = [] ∧ r.g.work = StageWork.eltwise d ∧ PlainBench r.img d.out base len ∧
    4 * d.count ≤ len ∧ base + len ≤ 262144 ∧ r.js.Nodup ∧ s.mem.benchMark = [] ∧ s.mem.sliceMark = [] ∧ r.js[jx]? = some j ∧
    i < d.count :=
  ⟨ref, theRun (.eltwise elt0), elt0, 128, 64, 0, 32, 15, atStage (.eltwise elt0),
    by unfold StageReady PlainBench; decide +kernel⟩

theorem test_meets_ElementWiseStagesRun_5 : ∃ (ref : StageRef) (r : Run) (d : CvtDesc) (s : State),
    StageReady ref r s ∧ r.g.work = StageWork.convert d :=
  ⟨ref, theRun (.convert cvt0), cvt0, atStage (.convert cvt0),
    by unfold StageReady; decide +kernel⟩

theorem test_meets_ElementWiseStagesRun_6 : ∃ (ref : StageRef) (r : Run) (d : CvtDesc) (base : Nat) (len : Nat) (jx : Nat) (j : Nat) (i : Nat) (s : State),
    StageReady ref r s ∧ ref.found = [] ∧ r.g.work = StageWork.convert d ∧ PlainBench r.img d.out base len ∧
    4 * d.count ≤ len ∧ base + len ≤ 262144 ∧ r.js.Nodup ∧ s.mem.benchMark = [] ∧ s.mem.sliceMark = [] ∧ r.js[jx]? = some j ∧
    i < d.count :=
  ⟨ref, theRun (.convert cvt0), cvt0, 128, 64, 0, 32, 15, atStage (.convert cvt0),
    by unfold StageReady PlainBench; decide +kernel⟩

theorem test_meets_StepRunsTheFront_2 : ∃ (c : Instr) (s : State) (t : State),
    exec c s = Host.Outcome.next t :=
  ⟨.hintExpiry, ready, { ready with thm := { ready.thm with hint := none } },
    rfl⟩

theorem test_meets_RegisterWritesComplete_1 : ∃ (cx : Cmd) (addr : Nat) (value : Word) (mask : Word) (k : Block) (off : Nat) (s : State) (s1 : State),
    s1 = noteTaken cx 179 s ∧ Accepts cx 179 s ∧ blockOf s1 addr = some (k, off) ∧ writable k off ≠ 0 ∧
    BitVec.toNat mask &&& writable k off = BitVec.toNat mask ∧
    settingWritten s1 k off (BitVec.toNat value) (BitVec.toNat mask) = none :=
  ⟨opCmd, 0x30000000, 0, 0x380, .port 0, 0, ready, noteTaken opCmd 179 ready,
    rfl, by unfold Accepts; decide +kernel⟩

theorem test_meets_RegisterWritesComplete_2 : ∃ (cx : Cmd) (bent : Nat) (s : State),
    Accepts cx 179 s ∧ bent < 4 ∧ s.cfg.applying = none :=
  ⟨opCmd, 3, ready,
    by unfold Accepts; decide +kernel⟩

theorem test_meets_RegisterWritesComplete_3 : ∃ (cx : Cmd) (bent : Nat) (s : State),
    Accepts cx 179 s ∧ bent < 4 :=
  ⟨opCmd, 3, ready,
    by unfold Accepts; decide +kernel⟩

theorem test_meets_RegisterWritesComplete_4 : ∃ (cx : Cmd) (bent : Nat) (rate : Nat) (s : State),
    Accepts cx 179 s ∧ bent < 4 ∧ rate ≤ 4095 ∧ s.cfg.applying = none :=
  ⟨opCmd, 3, 4095, ready,
    by unfold Accepts; decide +kernel⟩

theorem test_meets_RegisterWritesComplete_5 : ∃ (cx : Cmd) (bent : Nat) (n : Nat) (s : State),
    Accepts cx 179 s ∧ bent < 4 ∧ 1 ≤ n ∧ n ≤ 8 ∧ s.cfg.applying = none :=
  ⟨opCmd, 3, 8, ready,
    by unfold Accepts; decide +kernel⟩

theorem test_meets_RegisterWritesComplete_6 : ∃ (cx : Cmd) (bay : Nat) (y : Bay) (s : State),
    Accepts cx 179 s ∧ bay < 64 ∧ s.bayOf bay = some y :=
  ⟨opCmd, 63, bay0, { ready with bay := { bays := [(63, some bay0)] } },
    by unfold Accepts; decide +kernel⟩

theorem test_meets_RegisterWritesComplete_7 : ∃ (cx : Cmd) (p : Nat) (s : State),
    Accepts cx 179 s ∧ p < 12 ∧ portPresent s p = true :=
  ⟨opCmd, 11, ready,
    by unfold Accepts; decide +kernel⟩

theorem test_meets_RegisterWritesComplete_8 : ∃ (cx : Cmd) (p : Nat) (s : State),
    Accepts cx 179 s ∧ p < 12 ∧ portPresent s p = true :=
  ⟨opCmd, 11, ready,
    by unfold Accepts; decide +kernel⟩

theorem test_meets_RegisterWritesComplete_9 : ∃ (cx : Cmd) (p : Nat) (s : State),
    Accepts cx 179 s ∧ p < 12 ∧ portPresent s p = true :=
  ⟨opCmd, 11, ready,
    by unfold Accepts; decide +kernel⟩

theorem test_meets_RegisterWritesComplete_10 : ∃ (cx : Cmd) (s : State),
    Accepts cx 179 s :=
  ⟨opCmd, ready,
    by unfold Accepts; decide +kernel⟩

theorem test_meets_StagesAndStepsEnd_1 : ∃ (bay : Nat) (ix : Nat) (y : Bay) (x : Step) (a : Active) (s : State),
    s.bayOf bay = some y ∧ runningStep s bay = some x ∧ stepOf s x.id = some x ∧
    (List.find? (fun a => Decidable.decide (a.ix = ix)) x.active = some a) ∧ a.finished = true ∧
    (List.filter (fun e => Decidable.decide (e.ix ≠ ix)) x.active ≠ [] ∨ goesOn a.status = true ∧ x.stopping = false ∧
    x.nextIx < (bayStages y).length) :=
  ⟨0, 0, twoStages, withActive { active with finished := true }, { active with finished := true },
    inTwo { active with finished := true },
    by decide +kernel⟩

theorem test_meets_StagesAndStepsEnd_2 : ∃ (bay : Nat) (ix : Nat) (y : Bay) (x : Step) (a : Active) (s : State),
    s.bayOf bay = some y ∧ runningStep s bay = some x ∧ stepOf s x.id = some x ∧
    (List.find? (fun a => Decidable.decide (a.ix = ix)) x.active = some a) ∧ a.finished = true ∧
    (List.filter (fun e => Decidable.decide (e.ix ≠ ix)) x.active = []) ∧
    (goesOn a.status = false ∨ x.stopping = true ∨ (bayStages y).length ≤ x.nextIx) :=
  ⟨0, 0, loaded (image (.await awaiting)), withActive { active with finished := true }, { active with finished := true },
    inStage { active with finished := true },
    by decide +kernel⟩

theorem test_meets_StagesAndStepsEnd_3 : ∃ (session : Nat) (seq : Nat) (u : Taken) (s : State),
    (List.find? (fun t => Decidable.decide (t.session = session ∧ t.seq = seq)) s.qci.taken = some u) ∧ u.deadline = 0 :=
  ⟨2, 7, { session := 2, seq := 7, opcode := 64, tag := 0, deadline := 0, at_ := 0 },
    takenState 0 { session := 2, seq := 7, opcode := 64, tag := 0, deadline := 0, at_ := 0 },
    by decide +kernel⟩

theorem test_meets_StagesAndStepsEnd_4 : ∃ (session : Nat) (seq : Nat) (u : Taken) (s : State),
    (List.find? (fun t => Decidable.decide (t.session = session ∧ t.seq = seq)) s.qci.taken = some u) ∧ u.deadline ≠ 0 ∧
    s.qci.framerHalted = false ∧ u.opcode ≠ 64 ∧ u.opcode ≠ 180 ∧ ignoresDeadline u.opcode = false ∧
    timesOut s u.session = true :=
  ⟨2, 7, { session := 2, seq := 7, opcode := 83, tag := 0, deadline := 1, at_ := 0 },
    takenState 1 { session := 2, seq := 7, opcode := 83, tag := 0, deadline := 1, at_ := 0 },
    by decide +kernel⟩

theorem test_meets_StagesAndStepsEnd_5 : ∃ (session : Nat) (seq : Nat) (u : Taken) (x : Step) (y : Bay) (s : State),
    (List.find? (fun t => Decidable.decide (t.session = session ∧ t.seq = seq)) s.qci.taken = some u) ∧ u.deadline ≠ 0 ∧
    s.qci.framerHalted = false ∧ u.opcode = 64 ∧ timesOut s u.session = true ∧
    (List.find? (fun x => Decidable.decide (x.cx.session = u.session ∧ x.cx.seq = u.seq)) s.jig.steps = some x) ∧
    x.phase = StepPhase.running ∧ s.bayOf x.bay = some y ∧ coveringReset y s = none ∧ bayBents y ≠ [] ∧
    (bayBents y).any (bentsInReset s).contains = false :=
  ⟨2, 7, { session := 2, seq := 7, opcode := 64, tag := 0, deadline := 1, at_ := 0 }, { aStep with phase := .running },
    loaded (image (.await awaiting)), { atStage (.await awaiting) with ten := [(0, some { ten0 with hangMode := 1 })], qci := { ready.qci with taken := [{ session := 2, seq := 7, opcode := 64, tag := 0, deadline := 1, at_ := 0 }] } },
    by decide +kernel⟩

theorem test_meets_StagesAndStepsEnd_6 : ∃ (session : Nat) (seq : Nat) (u : Taken) (x : Step) (y : Bay) (o : PReset) (s : State),
    (List.find? (fun t => Decidable.decide (t.session = session ∧ t.seq = seq)) s.qci.taken = some u) ∧ u.deadline ≠ 0 ∧
    s.qci.framerHalted = false ∧ u.opcode = 64 ∧ timesOut s u.session = true ∧
    (List.find? (fun x => Decidable.decide (x.cx.session = u.session ∧ x.cx.seq = u.seq)) s.jig.steps = some x) ∧
    x.phase = StepPhase.running ∧ s.bayOf x.bay = some y ∧ coveringReset y s = some o :=
  ⟨2, 7, stepTaken, { aStep with phase := .running }, bay0, { aReset 3 with bents := [0] }, deadlineInReset,
    by decide +kernel⟩

theorem test_meets_StagesAndStepsEnd_7 : ∃ (bay : Nat) (s : State),
    (((stepsOf s bay).all fun x => x.isQueued) = false) :=
  ⟨0, atStage (.await awaiting),
    by decide +kernel⟩

theorem test_meets_StagesAndStepsEnd_8 : ∃ (bay : Nat) (y : Bay) (s : State),
    (((stepsOf s bay).all fun x => x.isQueued) = true) ∧ s.bayOf bay = some y :=
  ⟨0, bay0, withBays bay0,
    by decide +kernel⟩

theorem test_meets_StagesAndStepsEnd_9 : ∃ (bay : Nat) (y : Bay) (s : State),
    s.bayOf bay = some y :=
  ⟨0, bay0, withBays bay0,
    by decide +kernel⟩

theorem test_meets_TenanciesComeAndGo_1 : ∃ (cx : Cmd) (n : Nat) (t : Nat) (hang : Nat) (mask : Nat) (bays : Nat) (k : Nat) (s : State),
    ((freshNonce (controlNonce (Config.random (drawNo s)) - 1) 65535 s.bay.deadKeys fun n => rkey 3 t 0 (n + 1)) = some k) ∧
    Accepts cx 16 s ∧ openMode s = false ∧ (n = t ∧ t ≤ 15 ∨ n = 255 ∧
    lowestFree (fun t => (s.tenancy t).isNone) 0 16 = some t) ∧ hang ≤ 1 ∧ 1 ≤ mask ∧ mask ≤ 15 ∧ 1 ≤ bays ∧ bays ≤ 64 ∧
    s.tenancy t = none ∧ s.kp.randomOk = true :=
  ⟨opCmd, 255, 0, 1, 15, 64, (controlNonce (Config.random (drawNo noTen)) - 1 + 0) % 65535, noTen,
    rfl, by unfold Accepts; decide +kernel⟩

theorem test_meets_TenanciesComeAndGo_2 : ∃ (cx : Cmd) (t : Nat) (x : Tenancy) (s : State),
    Accepts cx 17 s ∧ s.tenancy t = some x ∧ x.destroying = none :=
  ⟨opCmd, 0, ten0, ready,
    by unfold Accepts; decide +kernel⟩

theorem test_meets_TenanciesComeAndGo_3 : ∃ (t : Nat) (x : Tenancy) (cx : Cmd) (s : State),
    s.tenancy t = some x ∧ x.destroying = some cx ∧ zeroiseReady s t x = true :=
  ⟨0, { ten0 with destroying := some opCmd }, opCmd, { ready with ten := [(0, some { ten0 with destroying := some opCmd })] },
    by decide +kernel⟩

theorem test_meets_TheKeeperWatches_1 : ∃ (s : State),
    framerRuns s = true :=
  ⟨ready,
    by decide +kernel⟩

theorem test_meets_TheKeeperWatches_2 : ∃ (s : State),
    s.kp.hubHeld = false ∧ 2 ≤ s.kp.stage ∧ s.kp.stage ≤ 12 ∧ (s.pwr.retain < 4 ∨ s.pwr.retain = 8) :=
  ⟨{ ready with pwr := { ready.pwr with retain := 8 } },
    by decide +kernel⟩

theorem test_meets_TheKeeperWatches_3 : ∃ (s : State),
    s.kp.randomOk = true :=
  ⟨ready,
    by decide +kernel⟩

theorem test_meets_TheKeeperWatches_5 : ∃ (s : State),
    mramOpen s = true :=
  ⟨ready,
    by decide +kernel⟩

theorem test_meets_MicrocodeIsLoaded_1 : ∃ (s : State),
    s.kp.raising = true ∧ s.kp.stage = 9 ∧ s.kp.bcast.active = false ∧ s.kp.bcast.fixed = false :=
  ⟨raisingAt 9,
    by decide +kernel⟩

theorem test_meets_MicrocodeIsLoaded_2 : ∃ (missed : List (Nat × BitVec 32)) (l : List (Nat × BitVec 32)) (s : State),
    l = stillMissing s (List.flatMap (usableJoists s) (List.range 4)) missed ∧ s.kp.raising = true ∧ s.kp.stage = 9 ∧
    s.kp.bcast.active = false ∧ s.kp.bcast.fixed = false ∧ l ≠ [] :=
  ⟨[(4032, 1)], [(4032, 1)], raisingAt 9,
    by decide +kernel, by decide +kernel⟩

theorem test_meets_MicrocodeIsLoaded_3 : ∃ (j : Nat) (n : Nat) (s : State),
    takesPackets s j = true ∧ (unusable s).contains j = false ∧ keyBent j < 4 ∧ n < s.kp.running.ucodeLen / 512 :=
  ⟨5375, 0, raisingAt 9,
    by decide +kernel⟩

theorem test_meets_MicrocodeIsLoaded_4 : ∃ (s : State),
    s.kp.raising = true ∧ s.kp.stage = 9 ∧ s.kp.bcast.active = true :=
  ⟨{ raisingAt 9 with kp := { (raisingAt 9).kp with bcast := { active := true } } },
    by decide +kernel⟩

theorem test_meets_MicrocodeIsLoaded_5 : ∃ (missed : List (Nat × BitVec 32)) (l : List (Nat × BitVec 32)) (s : State),
    (l = stillMissing s (List.map (fun e => e.fst) s.kp.bcast.missing) missed) ∧ s.kp.raising = true ∧ s.kp.stage = 9 ∧
    s.kp.bcast.active = true ∧ s.kp.bcast.round < 3 ∧ l ≠ [] :=
  ⟨[(32, 1)], [(32, 1)], { raisingAt 9 with kp := { (raisingAt 9).kp with bcast := { active := true, round := 2, missing := [(32, 1)] } } },
    rfl, by decide +kernel⟩

theorem test_meets_MicrocodeIsLoaded_6 : ∃ (missed : List (Nat × BitVec 32)) (l : List (Nat × BitVec 32)) (s : State),
    (l = stillMissing s (List.map (fun e => e.fst) s.kp.bcast.missing) missed) ∧ s.kp.raising = true ∧ s.kp.stage = 9 ∧
    s.kp.bcast.active = true ∧ 3 ≤ s.kp.bcast.round ∧ l ≠ [] :=
  ⟨[(32, 1)], [(32, 1)], { raisingAt 9 with kp := { (raisingAt 9).kp with bcast := { active := true, round := 3, missing := [(32, 1)] } } },
    rfl, by decide +kernel⟩

theorem test_meets_MicrocodeIsLoaded_7 : ∃ (s : State),
    s.kp.raising = true ∧ s.kp.stage = 9 ∧ s.kp.bcast.fixed = true :=
  ⟨{ raisingAt 9 with kp := { (raisingAt 9).kp with bcast := { fixed := true } } },
    by decide +kernel⟩

theorem test_meets_MicrocodeIsLoaded_8 : ∃ (j : Nat) (missing : BitVec 32) (s : State),
    (s.joist j).needsReload = true ∧ (unusable s).contains j = false ∧ missing &&& BitVec.ofNat 32 (allPackets s) = 0 :=
  ⟨32, 2, reloading 3,
    by decide +kernel⟩

theorem test_meets_MicrocodeIsLoaded_9 : ∃ (j : Nat) (missing : BitVec 32) (s : State),
    (s.joist j).needsReload = true ∧ (unusable s).contains j = false ∧ missing &&& BitVec.ofNat 32 (allPackets s) ≠ 0 ∧
    (s.joist j).reloadRound < 3 :=
  ⟨32, 1, reloading 2,
    by decide +kernel⟩

theorem test_meets_MicrocodeIsLoaded_10 : ∃ (j : Nat) (missing : BitVec 32) (s : State),
    (s.joist j).needsReload = true ∧ (unusable s).contains j = false ∧ missing &&& BitVec.ofNat 32 (allPackets s) ≠ 0 ∧
    3 ≤ (s.joist j).reloadRound :=
  ⟨32, 1, reloading 3,
    by decide +kernel⟩

theorem test_meets_SessionCommandsComplete_1 : ∃ (cx : Cmd) (n : Nat) (s : State),
    Accepts cx 1 s ∧ cx.session = preSession ∧ ringOk n = true :=
  ⟨preCmd, 4096, ready,
    by unfold Accepts; decide +kernel⟩

theorem test_meets_SessionCommandsComplete_2 : ∃ (cx : Cmd) (s : State),
    Accepts cx 1 s ∧ cx.session ≠ preSession :=
  ⟨tenCmd, ready,
    by unfold Accepts; decide +kernel⟩

theorem test_meets_SessionCommandsComplete_3 : ∃ (cx : Cmd) (reply : Reply) (s : State) (s1 : State) (x : Session) (p : Nat),
    s1 = noteTaken cx 2 s ∧ Accepts cx 2 s ∧ sessionRec s1 cx.session = some x ∧
    recordPort s1 cx.session x cx.port = some p ∧ 388 + 4096 + 24 ≤ reply.len :=
  ⟨opCmd, buf, ready, noteTaken opCmd 2 ready, { opSession with taken := 1, expect := 2 }, 0,
    rfl, by unfold Accepts; decide +kernel⟩

theorem test_meets_ConfigCommandsComplete_1 : ∃ (cx : Cmd) (clear : Bool) (entries : List Setting) (s : State),
    Accepts cx 112 s ∧ s.cfg.applying = none ∧ tlvBytes entries ≤ 444 ∧
    tlvBytes (List.foldl stageEntry (if clear = true then [] else s.cfg.staged) entries) ≤ 4096 :=
  ⟨opCmd, true, [{ block := 1, inst := 0, num := 1, value := [1] }], ready,
    by unfold Accepts; decide +kernel⟩

theorem test_meets_ConfigCommandsComplete_2 : ∃ (cx : Cmd) (entries : List Setting) (a : Applying) (s : State),
    Accepts cx 112 s ∧ s.cfg.applying = some a ∧ tlvBytes entries ≤ 444 :=
  ⟨opCmd, [], { cx := opCmd, timeout := 5, settings := [] }, applying,
    by unfold Accepts; decide +kernel⟩

theorem test_meets_ConfigCommandsComplete_3 : ∃ (cx : Cmd) (timeout : Nat) (s : State) (s1 : State),
    s1 = noteTaken cx 113 s ∧ Accepts cx 113 s ∧ 1 ≤ timeout ∧ timeout ≤ 10000 ∧ s.cfg.applying = none ∧
    firstBad s1 s.cfg.staged = none ∧ shrinksFrame s1 s.cfg.staged = false ∧
    (drainedBays s1 s.cfg.staged).all (bayDrained s1) = true :=
  ⟨opCmd, 10000, ready, noteTaken opCmd 113 ready,
    rfl, by unfold Accepts; decide +kernel⟩

theorem test_meets_ConfigCommandsComplete_4 : ∃ (cx : Cmd) (timeout : Nat) (s : State) (s1 : State),
    s1 = noteTaken cx 113 s ∧ Accepts cx 113 s ∧ 1 ≤ timeout ∧ timeout ≤ 10000 ∧ s.cfg.applying = none ∧
    firstBad s1 s.cfg.staged = none ∧ shrinksFrame s1 s.cfg.staged = false ∧
    (drainedBays s1 s.cfg.staged).all (bayDrained s1) = false :=
  ⟨opCmd, 1, quiescing, noteTaken opCmd 113 quiescing,
    rfl, by unfold Accepts; decide +kernel⟩

theorem test_meets_ConfigCommandsComplete_5 : ∃ (a : Applying) (s : State),
    s.cfg.applying = some a ∧ (drainedBays s a.settings).all (bayDrained s) = true ∧ shrinksFrame s a.settings = false :=
  ⟨{ cx := opCmd, timeout := 5, settings := [] }, applying,
    by decide +kernel⟩

theorem test_meets_ConfigCommandsComplete_6 : ∃ (a : Applying) (s : State),
    s.cfg.applying = some a :=
  ⟨{ cx := opCmd, timeout := 5, settings := [] }, applying,
    by decide +kernel⟩

theorem test_meets_ConfigCommandsComplete_7 : ∃ (cx : Cmd) (q : Nat) (s : State) (s1 : State),
    s1 = noteTaken cx 114 s ∧ q = topSequence s1 + 1 ∧ Accepts cx 114 s ∧ s.cfg.applying = none ∧ mramOpen s = true :=
  ⟨opCmd, topSequence (noteTaken opCmd 114 ready) + 1, ready, noteTaken opCmd 114 ready,
    rfl, rfl, by unfold Accepts; decide +kernel⟩

theorem test_meets_ConfigCommandsComplete_8 : ∃ (cx : Cmd) (which : Nat) (reply : Reply) (x : Session) (p : Nat) (s : State) (s1 : State),
    s1 = noteTaken cx 115 s ∧ Accepts cx 115 s ∧ which ≤ 3 ∧ sessionRec s1 cx.session = some x ∧
    recordPort s1 cx.session x cx.port = some p ∧ tlvBytes (settingsBy s1 which) + 24 ≤ reply.len :=
  ⟨opCmd, 3, buf, { opSession with taken := 1, expect := 2 }, 0, ready, noteTaken opCmd 115 ready,
    rfl, by unfold Accepts; decide +kernel⟩

theorem test_meets_StepSubmission_1 : ∃ (cx : Cmd) (bay : Nat) (prio : Nat) (arm : Bool) (tag : Nat) (timeout : Nat) (table : List LtEntry) (t : Nat) (y : Bay) (img : Image) (s : State) (s1 : State),
    s1 = noteTaken cx 64 s ∧ Owns cx bay t y s1 ∧ Accepts cx 64 s ∧ prio ≤ 7 ∧ tag ≤ 65535 ∧ timeout ≤ 10000000 ∧
    (y.reserved = true → y.session = cx.session) ∧ y.program = some img ∧ tableFault s1 bay table = false ∧
    rowsFault y table = false ∧ (arm = false → tag = 0) ∧ (arm = true → y.trigOn = true ∧ tagArmed s1 bay tag = false ∧
    slotsFull s1 bay = false) ∧ s1.jig.steps.length < 1024 :=
  ⟨tenCmd, 0, 7, false, 0, 10000000, [], 0, loaded (image (.await awaiting)), image (.await awaiting),
    withBays (loaded (image (.await awaiting))), noteTaken tenCmd 64 (withBays (loaded (image (.await awaiting)))),
    rfl, ⟨by decide +kernel, ⟨ten0, by decide +kernel, rfl⟩, by decide +kernel, rfl, by decide +kernel⟩,
    by unfold Accepts; decide +kernel⟩

theorem test_meets_ResetRequestsComplete_1 : ∃ (cx : Cmd) (mask : BitVec 4) (s : State) (s1 : State),
    s1 = noteTaken cx 129 s ∧ listening s = true ∧ gate s cx 129 = none ∧ bitsOf 4 mask.toNat ≠ [] ∧
    mayReset s1 (tenantOf s1 cx) (bitsOf 4 mask.toNat) = true ∧ (∀ (b : Nat),
    b ∈ bitsOf 4 mask.toNat → (s1.bent b).tripped = true → b ∈ bentsInReset s1) :=
  ⟨opCmd, 1, ready, noteTaken opCmd 129 ready,
    rfl, by decide +kernel⟩

theorem test_meets_ResetRequestsComplete_2 : ∃ (cx : Cmd) (s : State) (s1 : State),
    s1 = noteTaken cx 130 s ∧ listening s = true ∧ gate s cx 130 = none ∧ s1.pwr.retainCx = none :=
  ⟨opCmd, ready, noteTaken opCmd 130 ready,
    rfl, by decide +kernel⟩

theorem test_meets_ResetRequestsComplete_3 : ∃ (f : MgmtFrame) (s : State) (s1 : State),
    (s1 = if s.kp.hubHeld = true then s else frameIn f.port 64 s) ∧ mgmtFault s f = none ∧ portPresent s f.port = true ∧
    mgmtTooSoon s f.port = false ∧ (s.pwr.retain < 2 ∨ 7 < s.pwr.retain) ∧ 1 ≤ f.action ∧ f.action ≤ 3 :=
  ⟨tagged frame, mgmtAt frame, frameIn 0 64 (mgmtAt frame),
    rfl, mgmt_good (x := sealedOp) (by decide +kernel) (by decide +kernel) rfl (by decide +kernel) rfl rfl,
    by decide +kernel⟩

theorem test_meets_ResetRequestsComplete_4 : ∃ (f : MgmtFrame) (rest : List MgmtFrame) (x : Session) (s : State) (s1 : State),
    (s1 = s.onKp (fun k => { k with mgmt := rest })) ∧ s.kp.mgmt = f :: rest ∧ (s.pwr.retain < 2 ∨ 7 < s.pwr.retain) ∧
    s.session f.session = some x ∧ f.action = 1 :=
  ⟨frame, [], sealedOp, mgmtAt frame, (mgmtAt frame).onKp (fun k => { k with mgmt := [] }),
    rfl, by decide +kernel⟩

theorem test_meets_ResetRequestsComplete_5 : ∃ (f : MgmtFrame) (rest : List MgmtFrame) (x : Session) (s : State) (s1 : State),
    (s1 = s.onKp (fun k => { k with mgmt := rest })) ∧ s.kp.mgmt = f :: rest ∧ (s.pwr.retain < 2 ∨ 7 < s.pwr.retain) ∧
    s.session f.session = some x ∧ f.action = 2 ∧ bitsOf 4 f.arg ≠ [] ∧ f.arg ≤ 15 ∧
    mayReset s1 (if x.mailbox = 255 then none else some x.mailbox) (bitsOf 4 f.arg) = true ∧ s.kp.stage ≠ 11 ∧
    s.kp.stage ≠ 12 ∧ s.kp.coolantLoss = false ∧ (∀ (b : Nat),
    b ∈ bitsOf 4 f.arg → (s.bent b).tripped = true → b ∈ bentsInReset s) :=
  ⟨{ frame with action := 2, arg := 15 }, [], sealedOp, mgmtAt { frame with action := 2, arg := 15 },
    (mgmtAt { frame with action := 2, arg := 15 }).onKp (fun k => { k with mgmt := [] }),
    rfl, by decide +kernel⟩

theorem test_meets_ResetRequestsComplete_6 : ∃ (f : MgmtFrame) (rest : List MgmtFrame) (x : Session) (s : State) (s1 : State),
    (s1 = s.onKp (fun k => { k with mgmt := rest })) ∧ s.kp.mgmt = f :: rest ∧ (s.pwr.retain < 2 ∨ 7 < s.pwr.retain) ∧
    s.session f.session = some x ∧ f.action = 3 ∧ x.mailbox = 255 ∧ f.arg ≤ 1 :=
  ⟨{ frame with action := 3, arg := 1 }, [], sealedOp, mgmtAt { frame with action := 3, arg := 1 },
    (mgmtAt { frame with action := 3, arg := 1 }).onKp (fun k => { k with mgmt := [] }),
    rfl, by decide +kernel⟩

theorem test_meets_CommandsAreGated_1 : ∃ (i : Instr) (cx : Cmd) (op : Nat) (st : Status) (s : State),
    commandOf i = some cx ∧ i.opcode = some op ∧ listening s = true ∧ callerOf s cx.session ≠ none ∧ gate s cx op = some st :=
  ⟨.seqOpen opCmd 0, opCmd, 80, .auth, ready,
    by decide +kernel⟩

theorem test_meets_CommandsAreGated_2 : ∃ (i : Instr) (cx : Cmd) (s : State),
    commandOf i = some cx ∧ listening s = false :=
  ⟨.seqOpen tenCmd 0, tenCmd, State.reset,
    by decide +kernel⟩

theorem test_meets_CommandsAreGated_3 : ∃ (i : Instr) (cx : Cmd) (s : State),
    commandOf i = some cx ∧ listening s = true ∧ callerOf s cx.session = none :=
  ⟨.configCommit { session := 3, seq := 1 }, { session := 3, seq := 1 }, ready,
    by decide +kernel⟩

theorem test_meets_CommandsAreGated_4 : ∃ (s : State) (cx : Cmd) (op : Nat) (c : Caller),
    callerOf s cx.session = some c ∧ permitted s c op = false :=
  ⟨ready, tenCmd, 16, .tenant 0,
    by decide +kernel⟩

theorem test_meets_CommandsAreGated_5 : ∃ (s : State),
    openMode s = false :=
  ⟨keyed,
    by decide +kernel⟩

theorem test_meets_CommandsAreGated_6 : ∃ (s : State) (op : Nat),
    openMode s = true ∧ permitted s Caller.operator op = true :=
  ⟨ready, 16,
    by decide +kernel⟩

theorem test_meets_CommandsAreGated_7 : ∃ (s : State) (cx : Cmd),
    (s.kp.stage = 11 ∨ s.kp.stage = 12) ∧ s.kp.coolantLoss = false ∧ callerOf s cx.session = some Caller.operator :=
  ⟨{ ready with kp := { ready.kp with stage := 0xB } }, opCmd,
    by decide +kernel⟩

theorem test_meets_TransfersReachTheirPlace_1 : ∃ (id : Nat) (r : RxPkt) (q : Qp) (g : Target) (s : State),
    nextRx s id isWrite = some (r, q) ∧ heldByFence s q r = false ∧ resolve s q r.pkt.rkey = some g ∧
    dmaWaits s q r.pkt r.pkt.data.length = false ∧ (targetBay s g).isSome = true ∧ targetHalted s g = false ∧
    r.pkt.va + r.pkt.data.length ≤ (targetJoists s g).length * (targetExtent s g).snd :=
  ⟨0, rx0 { hostPkt with va := 4094 }, hostQ, .slice 0 0, holding sliceState (rx0 { hostPkt with va := 4094 }),
    by decide +kernel⟩

theorem test_meets_TransfersReachTheirPlace_2 : ∃ (id : Nat) (r : RxPkt) (q : Qp) (g : Target) (s : State),
    ((nextRx s id fun r => isRead r.pkt) = some (r, q)) ∧ resolve s q r.pkt.rkey = some g ∧
    dmaWaits s q r.pkt r.pkt.len = false ∧ (targetBay s g).isSome = true ∧ targetHalted s g = false ∧
    (readWindow s g r.pkt.va r.pkt.len).snd = false ∧ (readWindow s g r.pkt.va r.pkt.len).fst.length ≤ dataRoom q :=
  ⟨0, rx0 readPkt, hostQ, .slice 0 0, holding sliceState (rx0 readPkt),
    by decide +kernel⟩

theorem test_meets_TransfersReachTheirPlace_3 : ∃ (id : Nat) (r : RxPkt) (q : Qp) (m : Nat) (s : State),
    ((nextRx s id fun r => isRead r.pkt) = some (r, q)) ∧ resolve s q r.pkt.rkey = some (Target.control m) ∧
    dmaWaits s q r.pkt r.pkt.len = false ∧ (statusBytes s m r.pkt.va r.pkt.len).length ≤ dataRoom q :=
  ⟨0, rx0 statusPkt, hostQ, 0, holding ready (rx0 statusPkt),
    by decide +kernel⟩

theorem test_meets_TransfersReachTheirPlace_4 : ∃ (id : Nat) (r : RxPkt) (q : Qp) (s : State),
    rxOf s id = some r ∧ s.qp (pktKey r.pkt) = some q ∧ r.placed = true ∧ r.acked = false ∧
    ((before s r fun x => !x.acked) = false) :=
  ⟨0, { rx0 hostPkt with placed := true }, hostQ, holding sliceState { rx0 hostPkt with placed := true },
    by decide +kernel⟩

theorem test_meets_TransfersReachTheirPlace_5 : ∃ (id : Nat) (r : RxPkt) (q : Qp) (b : Nat) (w : Nat) (y : Bay) (x : Step) (s : State),
    rxOf s id = some r ∧ s.qp (pktKey r.pkt) = some q ∧ r.placed = true ∧ r.counted = false ∧ r.pkt.op = PktOp.writeImm ∧
    ((before s r fun x => !x.placed) = false) ∧ resolve s q r.pkt.rkey = some (Target.landing b w) ∧ s.bayOf b = some y ∧
    (y.trigOn = false ∨ y.trigWindow ≠ w) ∧ r.pkt.imm < 2 ^ 27 ∧
    (r.pkt.imm / 2 ^ 16 % 2 ^ 11 < 1024 ∨ 2046 < r.pkt.imm / 2 ^ 16 % 2 ^ 11) ∧
    (List.find? (fun z => !z.isQueued && Decidable.decide (z.jigSeq % 65536 = r.pkt.imm % 65536)) (stepsOf s b) = some x) :=
  ⟨0, { rx0 peerPkt with placed := true }, peerQ, 0, 0, loaded (image (.await awaiting)),
    { aStep with phase := .running, jigSeq := 0 }, holding landed { rx0 peerPkt with placed := true },
    by decide +kernel⟩

theorem test_meets_SlotsAndWindowsAreServed_1 : ∃ (w : SlotWrite) (s : State) (t : State),
    t = slotLanded w s ∧ (committed t w.mailbox w.slot = none ∨ listening t = false) :=
  ⟨{ slotWrite with data := slotWrite.data.take 504 }, ready,
    slotLanded { slotWrite with data := slotWrite.data.take 504 } ready,
    rfl, by decide +kernel⟩

theorem test_meets_SlotsAndWindowsAreServed_2 : ∃ (w : SlotWrite) (i : Nat) (x : Session) (c : SlotCopy) (s : State),
    Looks w i x c s ∧ InTurn x c ∧ restarts i c = false ∧ c.twoSlot = true ∧ mget none s.qci.half i = none :=
  ⟨twoWrite, 2, tenSession, slotCopy twoWrite 0 (slotLanded twoWrite ready), ready,
    ⟨0, by decide +kernel, by decide +kernel, rfl, by decide +kernel, by decide +kernel⟩, by unfold InTurn; decide +kernel⟩

theorem test_meets_SlotsAndWindowsAreServed_3 : ∃ (w : SlotWrite) (i : Nat) (x : Session) (c : SlotCopy) (v : State) (s : State),
    Looks w i x c s ∧ v = markTaken i x c (lookAt w.mailbox w.slot (slotLanded w s)) ∧ InTurn x c ∧ restarts i c = false ∧
    c.twoSlot = false ∧ mget none s.qci.half i = none ∧ slotFault v i x c none = none :=
  ⟨slotWrite, 2, tenSession, slotCopy slotWrite 0 (slotLanded slotWrite ready),
    markTaken 2 tenSession (slotCopy slotWrite 0 (slotLanded slotWrite ready)) (lookAt 0 0 (slotLanded slotWrite ready)),
    ready,
    ⟨0, by decide +kernel, by decide +kernel, rfl, by decide +kernel, by decide +kernel⟩, rfl,
    by unfold InTurn; decide +kernel⟩

theorem test_meets_SlotsAndWindowsAreServed_4 : ∃ (w : SlotWrite) (i : Nat) (x : Session) (c : SlotCopy) (v : State) (st : Status) (s : State),
    Looks w i x c s ∧ v = markTaken i x c (lookAt w.mailbox w.slot (slotLanded w s)) ∧ InTurn x c ∧ restarts i c = false ∧
    c.twoSlot = false ∧ mget none s.qci.half i = none ∧ slotFault v i x c none = some st :=
  ⟨noLenWrite, 2, tenSession, slotCopy noLenWrite 0 (slotLanded noLenWrite ready),
    markTaken 2 tenSession (slotCopy noLenWrite 0 (slotLanded noLenWrite ready)) (lookAt 0 0 (slotLanded noLenWrite ready)),
    .badDesc, ready,
    ⟨0, by decide +kernel, by decide +kernel, rfl, by decide +kernel, by decide +kernel⟩, rfl,
    by unfold InTurn; decide +kernel⟩

theorem test_meets_SlotsAndWindowsAreServed_5 : ∃ (w : SlotWrite) (first : SlotCopy) (i : Nat) (x : Session) (c : SlotCopy) (v : State) (s : State),
    Looks w i x c s ∧ v = markTaken i x c (lookAt w.mailbox w.slot (slotLanded w s)) ∧ InTurn x c ∧ restarts i c = false ∧
    mget none s.qci.half i = some first ∧ slotFault v i x first (some c) = none :=
  ⟨secondWrite, slotCopy twoWrite 0 (slotLanded twoWrite ready), 2, { tenSession with expect := 2 },
    slotCopy secondWrite 0 (slotLanded secondWrite halfTaken),
    markTaken 2 { tenSession with expect := 2 } (slotCopy secondWrite 0 (slotLanded secondWrite halfTaken)) (lookAt 0 0 (slotLanded secondWrite halfTaken)), halfTaken,
    ⟨0, by decide +kernel, by decide +kernel, rfl, by decide +kernel, by decide +kernel⟩, rfl,
    by unfold InTurn; decide +kernel⟩

theorem test_meets_SlotsAndWindowsAreServed_6 : ∃ (w : SlotWrite) (x : Session) (c : SlotCopy) (v : State) (s : State),
    Looks w preSession x c s ∧ v = markTaken preSession x c (lookAt w.mailbox w.slot (slotLanded w s)) ∧
    restarts preSession c = true ∧ c.twoSlot = false ∧ slotFault v preSession x c none = none :=
  ⟨helloWrite, emptyPre, slotCopy helloWrite 0 (slotLanded helloWrite ready),
    markTaken preSession emptyPre (slotCopy helloWrite 0 (slotLanded helloWrite ready)) (lookAt 255 0 (slotLanded helloWrite ready)), ready,
    ⟨0, by decide +kernel, by decide +kernel, rfl, by decide +kernel, by decide +kernel⟩, rfl, by decide +kernel⟩

theorem test_meets_SlotsAndWindowsAreServed_7 : ∃ (w : SlotWrite) (i : Nat) (x : Session) (c : SlotCopy) (s : State),
    Looks w i x c s ∧ restarts i c = false ∧ c.seq < x.expect :=
  ⟨slotWrite, 2, { tenSession with expect := 2 }, slotCopy slotWrite 0 (slotLanded slotWrite (slotReady 2)), slotReady 2,
    ⟨0, by decide +kernel, by decide +kernel, rfl, by decide +kernel, by decide +kernel⟩, by decide +kernel⟩

theorem test_meets_SlotsAndWindowsAreServed_8 : ∃ (w : SlotWrite) (i : Nat) (x : Session) (c : SlotCopy) (s : State),
    Looks w i x c s ∧ restarts i c = false ∧ x.expect < c.seq :=
  ⟨laterWrite, 2, tenSession, slotCopy laterWrite 0 (slotLanded laterWrite ready), ready,
    ⟨0, by decide +kernel, by decide +kernel, rfl, by decide +kernel, by decide +kernel⟩, by decide +kernel⟩

theorem test_meets_SlotsAndWindowsAreServed_9 : ∃ (port : Nat) (mailbox : Nat) (session : Nat) (va : Nat) (len : Nat) (x : Session) (q : Qp) (s : State),
    portPresent s port = true ∧ sessionRec s session = some x ∧ windowServed s = true ∧ x.mailbox = mailbox ∧ 65536 ≤ va ∧
    va + len ≤ 131072 ∧ s.qp (recordQp session x port) = some q :=
  ⟨0, 0, 2, 65536, 65536, tenSession, hostQ, ready,
    by decide +kernel⟩

theorem test_meets_SlotsAndWindowsAreServed_10 : ∃ (s : State),
    (s.kp.stage = 10 ∨ s.kp.stage = 12) ∧ (s.pwr.retain < 3 ∨ s.pwr.retain = 8) :=
  ⟨{ ready with pwr := { ready.pwr with retain := 8 } },
    by decide +kernel⟩

theorem test_meets_FirmwareIsUpdated_1 : ∃ (cx : Cmd) (length : Nat) (version : Nat) (s : State),
    Accepts cx 144 s ∧ 224 ≤ length ∧ length ≤ 8388608 ∧ s.kp.fwCounter ≤ version ∧ updateElsewhere s cx = false ∧
    mramOpen s = true :=
  ⟨opCmd, 8388608, 0, ready,
    by unfold Accepts; decide +kernel⟩

theorem test_meets_FirmwareIsUpdated_2 : ∃ (cx : Cmd) (offset : Nat) (data : List Byte) (x : FwUpdate) (s : State),
    Accepts cx 145 s ∧ s.kp.update = some x ∧ x.session = cx.session ∧ data ≠ [] ∧ data.length ≤ 888 ∧
    offset + data.length ≤ x.length ∧ mramOpen s = true :=
  ⟨opCmd, 4095, [7], { session := 1, length := 4096, version := 1, digest := 0 }, updating,
    by unfold Accepts; decide +kernel⟩

theorem test_meets_FirmwareIsUpdated_3 : ∃ (cx : Cmd) (x : FwUpdate) (s : State),
    s.kp.update = some x ∧ imageDigestOk s x.length x.digest = true ∧ imageAccepted s = true ∧ Accepts cx 146 s ∧
    x.session = cx.session ∧ mramOpen s = true :=
  ⟨opCmd, update0, updating0,
    rfl, decide_eq_true rfl, delivered_accepted _ rfl rfl rfl, by unfold Accepts; decide +kernel⟩

theorem test_meets_FirmwareIsUpdated_4 : ∃ (cx : Cmd) (x : FwUpdate) (s : State),
    s.kp.update = some x ∧ (imageDigestOk s x.length x.digest && imageAccepted s) = false ∧ Accepts cx 146 s ∧
    x.session = cx.session ∧ mramOpen s = true :=
  ⟨opCmd, update0, { updating0 with kp := { updating0.kp with imageBytes := [] } },
    rfl, Bool.and_eq_false_iff.mpr (Or.inr (by decide +kernel)), by unfold Accepts; decide +kernel⟩

theorem test_meets_JobBindingRuns_1 : ∃ (cx : Cmd) (fm : Nat) (w : Nat) (off : Nat) (size : Nat) (rd : HubRead) (t : Nat) (x : Tenancy) (win : SliceWin) (m : List Finding) (l : List PeerEntry) (base : Nat) (s : State) (s1 : State) (s2 : State),
    s1 = noteTaken cx 96 s ∧ m = windowMeets s1 win off (64 * rd.count) rd.found ∧ s2 = meetShared m s1 ∧
    (l = List.map (fun e => e.fst) (peerTable s2 win off rd.count)) ∧ Accepts cx 96 s ∧ tenantOf s1 cx = some t ∧
    s1.tenancy t = some x ∧ x.destroying = none ∧ s1.sliceWin t w = some win ∧ fm ≤ 1 ∧ off % 64 = 0 ∧ 1 ≤ rd.count ∧
    rd.count ≤ 1024 ∧ 2 ≤ size ∧ size ≤ 65535 ∧ (fm = 1 → 16 < size) ∧ (fm = 0 → size ≤ 16) ∧
    (off + 64 * rd.count ≤ (Option.map (fun z => (bayJoists s1 z).length) (s1.bayOf win.bay)).getD 0 * win.extent) ∧
    bayFenced s1 win.bay = false ∧ win.halted = false ∧ ((m.any fun f => f.kind == EccKind.ue) = false) ∧
    imageBad s2 win off (64 * rd.count) = false ∧ (((peerTable s2 win off rd.count).all fun e => e.snd && peerOk s2 e.fst) = true) ∧ expectAgree l = true ∧ mget none s.net.binding t = none ∧ (((baysOfTenancy s2 t).any fun k => (runningStep s2 k).isSome) = false) ∧ grantsHeld s2 t + grantSum l ≤ tallyPool s2 ∧ qpsFree s2 rd.count = true ∧ creditRun s2 t rd.count = some base ∧ ((l.any fun e => Decidable.decide (neighResult s2 e ≠ 1 ∧ neighResult s2 e ≠ 2)) = true) :=
  ⟨tenCmd, 0, 0, 0, 2, ⟨1, []⟩, 0, ten0, win0, [], tableOf tableState, 0, tableState, noteTaken tenCmd 96 tableState,
    tabled tableState,
    rfl, rfl, rfl, rfl, by unfold Accepts; decide +kernel⟩

theorem test_meets_JobBindingRuns_2 : ∃ (cx : Cmd) (fm : Nat) (w : Nat) (off : Nat) (size : Nat) (rd : HubRead) (t : Nat) (x : Tenancy) (win : SliceWin) (m : List Finding) (l : List PeerEntry) (base : Nat) (s : State) (s1 : State) (s2 : State),
    s1 = noteTaken cx 96 s ∧ m = windowMeets s1 win off (64 * rd.count) rd.found ∧ s2 = meetShared m s1 ∧
    (l = List.map (fun e => e.fst) (peerTable s2 win off rd.count)) ∧ Accepts cx 96 s ∧ tenantOf s1 cx = some t ∧
    s1.tenancy t = some x ∧ x.destroying = none ∧ s1.sliceWin t w = some win ∧ fm ≤ 1 ∧ off % 64 = 0 ∧ 1 ≤ rd.count ∧
    rd.count ≤ 1024 ∧ 2 ≤ size ∧ size ≤ 65535 ∧ (fm = 1 → 16 < size) ∧ (fm = 0 → size ≤ 16) ∧
    (off + 64 * rd.count ≤ (Option.map (fun z => (bayJoists s1 z).length) (s1.bayOf win.bay)).getD 0 * win.extent) ∧
    bayFenced s1 win.bay = false ∧ win.halted = false ∧ ((m.any fun f => f.kind == EccKind.ue) = false) ∧
    imageBad s2 win off (64 * rd.count) = false ∧ (((peerTable s2 win off rd.count).all fun e => e.snd && peerOk s2 e.fst) = true) ∧ expectAgree l = true ∧ mget none s.net.binding t = none ∧ (((baysOfTenancy s2 t).any fun k => (runningStep s2 k).isSome) = false) ∧ grantsHeld s2 t + grantSum l ≤ tallyPool s2 ∧ qpsFree s2 rd.count = true ∧ creditRun s2 t rd.count = some base ∧ ((l.all fun e => Decidable.decide (neighResult s2 e = 1)) = true) ∧ s.kp.randomOk = true :=
  ⟨tenCmd, 0, 0, 0, 2, ⟨1, []⟩, 0, ten0, win0, [], tableOf (facing 2), 0, facing 2, noteTaken tenCmd 96 (facing 2),
    tabled (facing 2),
    rfl, rfl, rfl, rfl, by unfold Accepts; decide +kernel⟩

theorem test_meets_JobBindingRuns_3 : ∃ (cx : Cmd) (fm : Nat) (w : Nat) (off : Nat) (size : Nat) (rd : HubRead) (t : Nat) (x : Tenancy) (win : SliceWin) (m : List Finding) (l : List PeerEntry) (base : Nat) (s : State) (s1 : State) (s2 : State),
    s1 = noteTaken cx 96 s ∧ m = windowMeets s1 win off (64 * rd.count) rd.found ∧ s2 = meetShared m s1 ∧
    (l = List.map (fun e => e.fst) (peerTable s2 win off rd.count)) ∧ Accepts cx 96 s ∧ tenantOf s1 cx = some t ∧
    s1.tenancy t = some x ∧ x.destroying = none ∧ s1.sliceWin t w = some win ∧ fm ≤ 1 ∧ off % 64 = 0 ∧ 1 ≤ rd.count ∧
    rd.count ≤ 1024 ∧ 2 ≤ size ∧ size ≤ 65535 ∧ (fm = 1 → 16 < size) ∧ (fm = 0 → size ≤ 16) ∧
    (off + 64 * rd.count ≤ (Option.map (fun z => (bayJoists s1 z).length) (s1.bayOf win.bay)).getD 0 * win.extent) ∧
    bayFenced s1 win.bay = false ∧ win.halted = false ∧ ((m.any fun f => f.kind == EccKind.ue) = false) ∧
    imageBad s2 win off (64 * rd.count) = false ∧ (((peerTable s2 win off rd.count).all fun e => e.snd && peerOk s2 e.fst) = true) ∧ expectAgree l = true ∧ mget none s.net.binding t = none ∧ (((baysOfTenancy s2 t).any fun k => (runningStep s2 k).isSome) = false) ∧ grantsHeld s2 t + grantSum l ≤ tallyPool s2 ∧ qpsFree s2 rd.count = true ∧ creditRun s2 t rd.count = some base ∧ ((l.all fun e => Decidable.decide (neighResult s2 e = 1 ∨ neighResult s2 e = 2)) = true) ∧ ((l.any fun e => Decidable.decide (neighResult s2 e = 2)) = true) :=
  ⟨tenCmd, 0, 0, 0, 2, ⟨1, []⟩, 0, ten0, win0, [], tableOf (facing 3), 0, facing 3, noteTaken tenCmd 96 (facing 3),
    tabled (facing 3),
    rfl, rfl, rfl, rfl, by unfold Accepts; decide +kernel⟩

theorem test_meets_JobBindingRuns_4 : ∃ (t : Nat) (j : Job) (s : State),
    mget none s.net.binding t = some j ∧ j.phase = 1 ∧
    ((j.peers.all fun p => Decidable.decide (neighResult s p.entry = 1)) = true) ∧ s.kp.randomOk = true :=
  ⟨0, { job0 with peers := [facingPeer] }, bindingUp { job0 with peers := [facingPeer] },
    by decide +kernel⟩

theorem test_meets_JobBindingRuns_5 : ∃ (t : Nat) (j : Job) (s : State),
    mget none s.net.binding t = some j ∧ j.phase = 1 ∧
    ((j.peers.any fun p => Decidable.decide (neighResult s p.entry ≠ 1)) = true) :=
  ⟨0, job0, binding job0,
    by decide +kernel⟩

theorem test_meets_JobBindingRuns_6 : ∃ (t : Nat) (k : Nat) (serial : Nat) (j : Job) (p : Peer) (q : Qp) (s : State),
    mget none s.net.binding t = some j ∧ j.peers[k]? = some p ∧ j.phase = 2 ∧ p.gotPh1 = false ∧ serial = p.entry.serial ∧
    s.qp p.qpn = some q :=
  ⟨0, 0, 9, { job0 with phase := 2 }, peer0, { port := 0, peer := some (0, 0) }, bindingUp { job0 with phase := 2 },
    by decide +kernel⟩

theorem test_meets_JobBindingRuns_7 : ∃ (t : Nat) (k : Nat) (serial : Nat) (j : Job) (p : Peer) (s : State),
    mget none s.net.binding t = some j ∧ j.peers[k]? = some p ∧ j.phase = 2 ∧ p.gotPh1 = false ∧ serial ≠ p.entry.serial :=
  ⟨0, 0, 8, { job0 with phase := 2 }, peer0, binding { job0 with phase := 2 },
    by decide +kernel⟩

theorem test_meets_JobBindingRuns_8 : ∃ (t : Nat) (k : Nat) (m : Ph2) (j : Job) (p : Peer) (s : State),
    mget none s.net.binding t = some j ∧ j.peers[k]? = some p ∧ ph2Check s t j p m = none ∧ j.phase = 2 ∧ p.gotPh1 = true ∧
    p.gotPh2 = false ∧ ((j.peers.set k { p with gotPh2 := true }).all (fun p => p.gotPh2) = true) :=
  ⟨0, 0, ph2Good { job0 with phase := 2, peers := [ph2Peer] } ph2Peer, { job0 with phase := 2, peers := [ph2Peer] }, ph2Peer,
    binding { job0 with phase := 2, peers := [ph2Peer] },
    rfl, rfl, ph2_good _ _ rfl rfl, by decide +kernel⟩

theorem test_meets_JobBindingRuns_9 : ∃ (t : Nat) (k : Nat) (m : Ph2) (j : Job) (p : Peer) (s : State),
    mget none s.net.binding t = some j ∧ j.peers[k]? = some p ∧ ph2Check s t j p m = none ∧ j.phase = 2 ∧ p.gotPh1 = true ∧
    p.gotPh2 = false ∧ ((j.peers.set k { p with gotPh2 := true }).all (fun p => p.gotPh2) = false) :=
  ⟨0, 0, ph2Good { job0 with phase := 2, peers := [ph2Peer, peer0] } ph2Peer,
    { job0 with phase := 2, peers := [ph2Peer, peer0] }, ph2Peer,
    binding { job0 with phase := 2, peers := [ph2Peer, peer0] },
    rfl, rfl, ph2_good _ _ rfl rfl, by decide +kernel⟩

theorem test_meets_JobBindingRuns_10 : ∃ (t : Nat) (k : Nat) (m : Ph2) (c : Nat) (j : Job) (p : Peer) (s : State),
    mget none s.net.binding t = some j ∧ j.peers[k]? = some p ∧ j.phase = 2 ∧ p.gotPh1 = true ∧ p.gotPh2 = false ∧
    ph2Check s t j p m = some c :=
  ⟨0, 0, ⟨{ ph2Unsigned job0 ph2Peer with serial := 8 }, (ph2Good job0 ph2Peer).chain⟩, 1,
    { job0 with phase := 2, peers := [ph2Peer] }, ph2Peer, binding { job0 with phase := 2, peers := [ph2Peer] },
    rfl, rfl, by decide +kernel⟩

theorem test_meets_JobBindingRuns_11 : ∃ (t : Nat) (j : Job) (s : State),
    mget none s.net.binding t = some j ∧ j.phase = 2 :=
  ⟨0, { job0 with phase := 2 }, binding { job0 with phase := 2 },
    by decide +kernel⟩

theorem test_meets_PartitionResetRuns_1 : ∃ (r : Nat) (z : PReset) (s : State),
    resetOf s r = some z ∧ z.phase = 0 ∧ z.cause ≠ 3 ∧ z.bents.Nodup ∧ s.pwr.retainCx = none :=
  ⟨0, aReset 0, { inReset (aReset 0) with pwr := { (inReset (aReset 0)).pwr with retainCx := none } },
    by decide +kernel⟩

theorem test_meets_PartitionResetRuns_2 : ∃ (r : Nat) (z : PReset) (s : State),
    resetOf s r = some z ∧ z.phase = 1 ∧ drainWaits z s = true :=
  ⟨0, draining, drainState,
    by decide +kernel⟩

theorem test_meets_PartitionResetRuns_3 : ∃ (r : Nat) (z : PReset) (s : State),
    resetOf s r = some z ∧ z.phase = 1 ∧ drainWaits z s = false :=
  ⟨0, aReset 1, inReset (aReset 1),
    by decide +kernel⟩

theorem test_meets_PartitionResetRuns_4 : ∃ (r : Nat) (z : PReset) (s : State),
    resetOf s r = some z ∧ z.phase = 2 :=
  ⟨0, aReset 2, inReset (aReset 2),
    by decide +kernel⟩

theorem test_meets_PartitionResetRuns_5 : ∃ (r : Nat) (z : PReset) (s : State),
    resetOf s r = some z ∧ z.phase = 3 :=
  ⟨0, aReset 3, inReset (aReset 3),
    by decide +kernel⟩

theorem test_meets_PartitionResetRuns_6 : ∃ (r : Nat) (z : PReset) (s : State),
    resetOf s r = some z ∧ z.phase = 4 :=
  ⟨0, aReset 4, inReset (aReset 4),
    by decide +kernel⟩

theorem test_meets_NoStepChangesFuses_1 : ∃ (s : State) (t : State),
    step s = Host.Outcome.next t :=
  ⟨{ ready with pending := [.hintExpiry] }, ready,
    rfl⟩

theorem test_meets_IdleStepTicks_1 : ∃ (s : State),
    s.pending = [] :=
  ⟨ready,
    by decide +kernel⟩

theorem test_meets_ReductionsRun_1 : ∃ (ref : StageRef) (r : Run) (d : RedDesc) (s : State),
    StageReady ref r s ∧ r.g.work = StageWork.reduce d ∧ d.op ≠ RedOp.sumDatum ∧ d.exch.count < 2 ∧
    controlLost r.found = false ∧ dmaLost r.found = false :=
  ⟨ref, theRun (.reduce red0), red0, atStage (.reduce red0),
    by unfold StageReady; decide +kernel⟩

theorem test_meets_ReductionsRun_2 : ∃ (ref : StageRef) (r : Run) (d : RedDesc) (j : Nat) (i : Nat) (x : Word × Bool) (s : State),
    StageReady ref r s ∧ ref.found = [] ∧ r.g.work = StageWork.reduce d ∧ d.op ≠ RedOp.sumDatum ∧ d.exch.count < 2 ∧
    j ∈ outJoists r d.toAll ∧ d.dst + 4 * d.elements ≤ 262144 ∧ s.mem.benchMark = [] ∧ s.mem.sliceMark = [] ∧
    (treeVector r d s)[i]? = some x :=
  ⟨ref, theRun (.reduce red0), red0, 32, 3, (0, false), atStage (.reduce red0),
    by unfold StageReady; decide +kernel⟩

theorem test_meets_ReductionsRun_3 : ∃ (ref : StageRef) (r : Run) (d : RedDesc) (s : State),
    StageReady ref r s ∧ controlLost r.found = false ∧ dmaLost r.found = false ∧ r.g.work = StageWork.reduce d ∧
    d.op = RedOp.sumDatum ∧ d.exch.count < 2 ∧ ((r.js.any fun j => d.groups.any fun k => !(s.group j k).isOpen) = false) :=
  ⟨ref, theRun (.reduce redSum0), redSum0, openGroups (atStage (.reduce redSum0)),
    by unfold StageReady; decide +kernel⟩

theorem test_meets_ReductionsRun_4 : ∃ (ref : StageRef) (r : Run) (d : RedDesc) (s : State),
    StageReady ref r s ∧ controlLost r.found = false ∧ dmaLost r.found = false ∧ r.g.work = StageWork.reduce d ∧
    d.op = RedOp.sumDatum ∧ exchLost s r.y.tenancy d.exch = false ∧
    ((r.js.any fun j => d.groups.any fun k => !(s.group j k).isOpen) = true) :=
  ⟨ref, theRun (.reduce redSum0), redSum0, atStage (.reduce redSum0),
    by unfold StageReady; decide +kernel⟩

theorem test_meets_ReductionsRun_5 : ∃ (ref : StageRef) (r : Run) (d : RedDesc) (s : State),
    StageReady ref r s ∧ ref.found = [] ∧ r.g.work = StageWork.reduce d ∧ d.op ≠ RedOp.sumDatum ∧ d.exch.pos % 2 = 0 ∧
    d.exch.pos + 1 < d.exch.count ∧ exchLost s r.y.tenancy d.exch = false ∧ s.mem.benchMark = [] ∧ s.mem.sliceMark = [] :=
  ⟨ref, theRun (.reduce redAcross), redAcross, withPeer (atStage (.reduce redAcross)),
    by unfold StageReady; decide +kernel⟩

theorem test_meets_ReductionsRun_6 : ∃ (ref : StageRef) (r : Run) (d : RedDesc) (s : State),
    StageReady ref r s ∧ ref.found = [] ∧ r.g.work = StageWork.reduce d ∧ d.op ≠ RedOp.sumDatum ∧ d.exch.pos % 2 = 1 ∧
    2 ≤ d.exch.count ∧ d.toAll = false ∧ exchLost s r.y.tenancy d.exch = false ∧ s.mem.benchMark = [] ∧ s.mem.sliceMark = [] :=
  ⟨ref, theRun (.reduce redLeaf), redLeaf, withPeer (atStage (.reduce redLeaf)),
    by unfold StageReady; decide +kernel⟩

theorem test_meets_ReductionsRun_7 : ∃ (ref : StageRef) (r : Run) (d : CullDesc) (s : State),
    StageReady ref r s ∧ r.g.work = StageWork.cull d ∧ d.exch.count < 2 ∧ controlLost r.found = false ∧
    dmaLost r.found = false :=
  ⟨ref, theRun (.cull cull0), cull0, atStage (.cull cull0),
    by unfold StageReady; decide +kernel⟩

theorem test_meets_ReductionsRun_8 : ∃ (ref : StageRef) (r : Run) (d : CullDesc) (j : Nat) (k : Nat) (e : CullRow × Bool) (s : State),
    StageReady ref r s ∧ ref.found = [] ∧ r.g.work = StageWork.cull d ∧ d.exch.count < 2 ∧ j ∈ outJoists r d.toAll ∧
    d.dst + d.rows * cullSize d ≤ 262144 ∧ s.mem.benchMark = [] ∧ s.mem.sliceMark = [] ∧ d.sample = false ∧
    (cullTree s r d)[k]? = some e :=
  ⟨ref, theRun (.cull cull0), cull0, 32, 0, (cullTree (atStage (.cull cull0)) (theRun (.cull cull0)) cull0).headD ((0, []),
    false), atStage (.cull cull0),
    by unfold StageReady; decide +kernel⟩

theorem test_meets_ReductionsRun_9 : ∃ (ref : StageRef) (r : Run) (d : CullDesc) (s : State),
    StageReady ref r s ∧ ref.found = [] ∧ r.g.work = StageWork.cull d ∧ d.exch.pos % 2 = 0 ∧ d.exch.pos + 1 < d.exch.count ∧
    exchLost s r.y.tenancy d.exch = false ∧ s.mem.benchMark = [] ∧ s.mem.sliceMark = [] :=
  ⟨ref, theRun (.cull cullAcross), cullAcross, withPeer (atStage (.cull cullAcross)),
    by unfold StageReady; decide +kernel⟩

theorem test_meets_ReductionsRun_10 : ∃ (bay : Nat) (r : Run) (a : Active) (w : DeviceWait) (d : RedDesc) (v : List Word) (root : Nat) (i : Nat) (x : Word) (s : State),
    levelWait s bay = some (r, a, w) ∧ r.g.work = StageWork.reduce d ∧ d.op ≠ RedOp.sumDatum ∧ d.exch.pos = 0 ∧
    2 ^ w.level < d.exch.count ∧ d.exch.count ≤ 2 ^ (w.level + 1) ∧ d.toAll = false ∧ w.back = false ∧
    v.length = d.elements ∧ stepOf s r.x.id = some r.x ∧ r.js.head? = some root ∧ (s.joist root).inbox = [] ∧
    (List.zipWith (redOp d.op) w.vector v)[i]? = some x :=
  ⟨0, waitVecRun, waitVec, waitLevel, redAcross, [1, 2, 3, 4], 32, 0, 1, waitingVec,
    by decide +kernel⟩

theorem test_meets_ReductionsRun_11 : ∃ (bay : Nat) (m : Arrival) (s : State),
    (∀ (e : Run × Active × DeviceWait), levelWait s bay = some e → accepted e.fst e.snd.fst e.snd.snd m s = none) :=
  ⟨0, .vector 0 0 0 [], ready,
    by intro e h; cases h⟩

theorem test_meets_ReductionsRun_12 : ∃ (bay : Nat) (r : Run) (a : Active) (w : DeviceWait) (s : State),
    levelWait s bay = some (r, a, w) ∧ stepOf s r.x.id = some r.x :=
  ⟨0, waitRun, waitActive, { level := 0 }, waiting,
    by decide +kernel⟩

theorem test_meets_EthernetFramesAreAnswered_1 : ∃ (port : Nat) (ip : Nat) (s : State),
    portPresent s port = true ∧ portsServed s = true ∧ ip ∈ ownAddresses s port :=
  ⟨0, 21, addressed,
    by decide +kernel⟩

theorem test_meets_EthernetFramesAreAnswered_2 : ∃ (port : Nat) (ip : Nat) (s : State),
    portPresent s port = true ∧ portsServed s = true ∧ ip ∈ partners s port :=
  ⟨0, 0, ready,
    by decide +kernel⟩

theorem test_meets_EthernetFramesAreAnswered_3 : ∃ (port : Nat) (ip : Nat) (s : State),
    portPresent s port = true ∧ portsServed s = true ∧ ip ∈ ownAddresses s port ∧
    ((s.port port).icmpFrom + 1000000 ≤ usNow s ∨ (s.port port).icmpCount < 100) :=
  ⟨0, 21, addressed,
    by decide +kernel⟩

theorem test_meets_EthernetFramesAreAnswered_4 : ∃ (port : Nat) (n : Nat) (f : EthBody) (ok : Bool) (s : State),
    portPresent s port = true ∧ portsServed s = true ∧
    (n < 64 ∨ 9216 < n ∨ ok = false ∨ ¬f.etherType ∈ etherTypes ∨ otherIp f = true) :=
  ⟨11, 9217, { etherType := 0x0800 }, true, ready,
    by decide +kernel⟩

theorem test_meets_EthernetFramesAreAnswered_5 : ∃ (s : State),
    portsServed s = true ∧ s.kp.hubHeld = false :=
  ⟨ready,
    by decide +kernel⟩

theorem test_meets_EthernetFramesAreAnswered_6 : ∃ (port : Nat) (s : State),
    portPresent s port = true ∧ portsServed s = true :=
  ⟨11, ready,
    by decide +kernel⟩

theorem test_meets_EthernetFramesAreAnswered_7 : ∃ (port : Nat) (s : State),
    portPresent s port = true ∧ canTrain s port = true :=
  ⟨1, engineAt running,
    by decide +kernel⟩

theorem test_meets_EthernetFramesAreAnswered_8 : ∃ (port : Nat) (s : State),
    portPresent s port = true ∧ portUp s port = true :=
  ⟨0, lit { link := 2 },
    by decide +kernel⟩

theorem test_meets_EthernetFramesAreAnswered_9 : ∃ (port : Nat) (s : State),
    portPresent s port = true ∧ (s.port port).link = 0 :=
  ⟨11, ready,
    by decide +kernel⟩

theorem test_meets_EthernetFramesAreAnswered_10 : ∃ (port : Nat) (s : State),
    portPresent s port = true :=
  ⟨11, ready,
    by decide +kernel⟩

theorem test_meets_AbsentPartsStop_1 : ∃ (i : Instr) (p : Nat) (a : Nat) (b : Nat) (c : Nat) (f : LldpFrame) (g : Bool) (l : BitVec 4) (ch : BitVec 128) (dg : BitVec 256) (sg : BitVec 512) (body : EthBody) (s : State),
    portPresent s p = false ∧ i ∈ [Instr.arpRequestRx p a b c, Instr.arpReplyRx p a b, Instr.icmpEchoRx p a b c,
    Instr.lldpRx p f, Instr.portLinkUp p, Instr.portLinkDown p l, Instr.portTrainRetry p l, Instr.fecRateCheck p a b,
    Instr.reflectionOpen p, Instr.reflectionProbe p g, Instr.pfcXoffRx p a b, Instr.pfcPauseExpiry p a,
    Instr.frameDiscard p a body g, Instr.statusWindowRead p a b c 4, Instr.recoveryDatagramRefused p a, Instr.rHello p a,
    Instr.rBegin p a ch b c dg sg, Instr.rData p a b [], Instr.rEnd p a (), Instr.portLightLoss p, Instr.lightWake p,
    Instr.frameWake p] :=
  ⟨.portLightLoss 12, 12, 0, 0, 0, { chassis := 0, portId := 0 }, true, 0, 0, 0, 0, { etherType := 0 }, ready,
    by decide +kernel⟩

theorem test_meets_AbsentPartsStop_2 : ∃ (pk : Pkt) (s : State),
    portPresent s pk.port = false :=
  ⟨{ hostPkt with port := 12 }, ready,
    by decide +kernel⟩

theorem test_meets_AbsentPartsStop_3 : ∃ (f : MgmtFrame) (s : State),
    portPresent s f.port = false :=
  ⟨{ frame with port := 12 }, ready,
    by decide +kernel⟩

theorem test_meets_AbsentPartsStop_4 : ∃ (f : WakeFrame) (s : State),
    portPresent s f.port = false :=
  ⟨{ port := 12, tenancy := 0, session := 0, counter := 0 }, ready,
    by decide +kernel⟩

theorem test_meets_AbsentPartsStop_5 : ∃ (i : Instr) (e : Nat) (n : Nat) (g : Bool) (s : State),
    enginePresent s e = false ∧ i ∈ [Instr.laserModuleFault e n, Instr.laserRetry e g, Instr.enginePllLoss e,
    Instr.enginePllRelock e g, Instr.engineTripClear e g] :=
  ⟨.enginePllLoss 6, 6, 0, true, ready,
    by decide +kernel⟩

theorem test_meets_AbsentPartsStop_6 : ∃ (i : Instr) (b : Nat) (n : Nat) (l : List SiteReading),
    4 ≤ b ∧ i ∈ [Instr.ce2CandidateExpiry b, Instr.bentTripClear b, Instr.capSample b l, Instr.sillPllLoss b,
    Instr.sillPllRelock b n, Instr.marginRunDone b { vddLam := n, outcomes := [] }, Instr.retainExitBent b] :=
  ⟨.ce2CandidateExpiry 4, 4, 0, [],
    by decide +kernel⟩

theorem test_meets_AbsentPartsStop_7 : ∃ (i : Instr) (cx : Cmd),
    commandOf i = some cx :=
  ⟨.forceHotWrite opCmd 4 true, opCmd,
    by decide +kernel⟩

theorem test_meets_PowerIsHeld_3 : ∃ (a : Nat) (th : Int) (x : Nat) (s : State),
    (x = sampleRth (s.onThm (fun t => { t with thermistor := th })) a) ∧ s.pwr.retain < 2 ∧ 400 ≤ a :=
  ⟨400, 0, sampleRth (ready.onThm (fun t => { t with thermistor := 0 })) 400, ready,
    rfl, by decide +kernel⟩

theorem test_meets_PowerIsHeld_4 : ∃ (a : Nat) (s : State),
    (2 ≤ s.pwr.retain ∨ a < 400) :=
  ⟨399, ready,
    by decide +kernel⟩

theorem test_meets_PowerIsHeld_5 : ∃ (s : State),
    s.pwr.retain < 2 :=
  ⟨ready,
    by decide +kernel⟩

theorem test_meets_PowerIsHeld_6 : ∃ (s : State),
    2 ≤ s.pwr.retain :=
  ⟨retainAt 2,
    by decide +kernel⟩

theorem test_meets_ThermalCommandsComplete_1 : ∃ (cx : Cmd) (inlet : Int) (flow : Nat) (life : Nat) (s : State),
    Accepts cx 160 s ∧ 0 ≤ inlet ∧ inlet ≤ 960 ∧ flow ≤ 65535 ∧ 100 ≤ life ∧ life ≤ 60000 :=
  ⟨opCmd, 960, 65535, 60000, ready,
    by unfold Accepts; decide +kernel⟩

theorem test_meets_ThermalCommandsComplete_3 : ∃ (cx : Cmd) (s : State),
    Accepts cx 161 s ∧ baselineReady s = true ∧ mramOpen s = true :=
  ⟨opCmd, { ready with thm := { rthWatts := List.replicate 10000 1000 } },
    by unfold Accepts; decide +kernel⟩

theorem test_meets_ThermalCommandsComplete_4 : ∃ (cx : Cmd) (value : Nat) (s : State),
    Accepts cx 161 s ∧ 655 ≤ value ∧ value ≤ 6554 ∧ mramOpen s = true :=
  ⟨opCmd, 6554, ready,
    by unfold Accepts; decide +kernel⟩

theorem test_meets_ThermalCommandsComplete_5 : ∃ (cx : Cmd) (s : State),
    Accepts cx 161 s ∧ mramOpen s = true :=
  ⟨opCmd, ready,
    by unfold Accepts; decide +kernel⟩

theorem test_meets_TemperatureIsJudged_1 : ∃ (r : SiteReading) (s : State),
    siteExists r.site = true ∧ (r.site = keeperSite → keeperTemp (sampleSite r s) < 105 * 16) :=
  ⟨{ site := 540, a := 1679, b := 1679 }, ready,
    by decide +kernel⟩

theorem test_meets_TemperatureIsJudged_2 : ∃ (r : SiteReading) (b : Nat) (u : State) (s : State),
    u = sampleSite r s ∧ r.site < 512 ∧ r.site / 128 = b ∧ r.site % 128 < 72 ∧ 2 ≤ s.kp.stage ∧ s.kp.stage ≠ 13 ∧
    (s.bent b).sillPresent = true ∧ bentTripping u b = none :=
  ⟨{ site := 455, a := 300, b := 300 }, 3, sampleSite { site := 455, a := 300, b := 300 } ready, ready,
    rfl, by decide +kernel⟩

theorem test_meets_TemperatureIsJudged_3 : ∃ (r : SiteReading) (b : Nat) (u : State) (a : Nat × Int) (s : State),
    u = sampleSite r s ∧ r.site < 512 ∧ r.site / 128 = b ∧ r.site % 128 < 72 ∧ s.kp.stage = 10 ∧
    (s.bent b).sillPresent = true ∧ (s.bent b).tripped = false ∧ bentsInReset s = [] ∧ bentTripping u b = some a :=
  ⟨{ site := 0, a := 2000, b := 2000 }, 0, sampleSite { site := 0, a := 2000, b := 2000 } ready,
    (bentTripping (sampleSite { site := 0, a := 2000, b := 2000 } ready) 0).getD (0, 0), ready,
    rfl, by decide +kernel⟩

theorem test_meets_TemperatureIsJudged_4 : ∃ (b : Nat) (r : SiteReading) (u : State) (v : Int) (s : State),
    u = sampleSite r s ∧ v = (nearValue u r.site).getD ((s.bent b).capT + 80) ∧ b < 4 ∧ r.site ∈ capSites b ∧
    s.kp.coolantLoss = false :=
  ⟨3, { site := 457, a := 300, b := 300 }, sampleSite { site := 457, a := 300, b := 300 } ready,
    (nearValue (sampleSite { site := 457, a := 300, b := 300 } ready) 457).getD ((ready.bent 3).capT + 80), ready,
    rfl, rfl, by decide +kernel⟩

theorem test_meets_TemperatureIsJudged_5 : ∃ (b : Nat) (s : State),
    b < 4 ∧ (s.bent b).tripped = true ∧ bentCool s b = true ∧ s.kp.coolantLoss = false ∧
    (s.kp.stage = 10 ∨ s.kp.stage = 12) ∧ (bentsInReset s).contains b = false :=
  ⟨0, bentAt { bentOn with tripped := true },
    by decide +kernel⟩

theorem test_meets_TemperatureIsJudged_6 : ∃ (b : Nat) (s : State),
    b < 4 ∧ (s.bent b).tripped = true ∧ bentCool s b = true ∧ s.kp.coolantLoss = false ∧ s.kp.stage < 10 ∧
    s.kp.raising = false :=
  ⟨0, { bentAt { bentOn with tripped := true } with kp := { ready.kp with stage := 9 } },
    by decide +kernel⟩

theorem test_meets_TemperatureIsJudged_7 : ∃ (s : State),
    s.thm.hubTripped = true ∧ s.thm.hubT ≤ 85 * 16 :=
  ⟨{ ready with thm := { hubTripped := true, hubT := 1360 } },
    by decide +kernel⟩

theorem test_meets_TemperatureIsJudged_8 : ∃ (e : Nat) (s : State),
    enginePresent s e = true ∧ (s.engine e).tripped = true ∧ (s.engine e).temp ≤ 70 * 16 :=
  ⟨0, engineAt { running with tripped := true, temp := 1120 },
    by decide +kernel⟩

theorem test_meets_RecoveryTakesAnImage_1 : ∃ (port : Nat) (r : Recovery) (s : State),
    portPresent s port = true ∧ port < 2 ∧ s.kp.stage = 13 ∧ s.kp.recovery = some r ∧ s.kp.randomOk = true :=
  ⟨1, rec0, recovering rec0,
    by decide +kernel⟩

theorem test_meets_RecoveryTakesAnImage_2 : ∃ (port : Nat) (addr : Nat) (c : BitVec 128) (length : Nat) (version : Nat) (digest : BitVec 256) (sig : BitVec 512) (r : Recovery) (s : State),
    (∀ (k : BitVec 512), s.kp.operatorKey = some k → signedBy k (beginDigest s c length version digest) sig = true) ∧
    portPresent s port = true ∧ port < 2 ∧ s.kp.stage = 13 ∧ s.kp.recovery = some r ∧ elsewhere r addr = false ∧
    r.challenge = some c ∧ s.kp.fwCounter ≤ version :=
  ⟨1, 5, 6, 4096, 0, 0, 0, rec0, recovering rec0,
    fun _ h => absurd h (by simp [recovering]), by decide +kernel⟩

theorem test_meets_RecoveryTakesAnImage_3 : ∃ (port : Nat) (addr : Nat) (c : BitVec 128) (r : Recovery) (s : State),
    portPresent s port = true ∧ port < 2 ∧ s.kp.stage = 13 ∧ s.kp.recovery = some r ∧ elsewhere r addr = false ∧
    r.challenge ≠ some c :=
  ⟨1, 5, 7, rec0, recovering rec0,
    by decide +kernel⟩

theorem test_meets_RecoveryTakesAnImage_4 : ∃ (port : Nat) (addr : Nat) (c : BitVec 128) (length : Nat) (version : Nat) (digest : BitVec 256) (sig : BitVec 512) (r : Recovery) (s : State),
    ((∃ k, s.kp.operatorKey = some k ∧ signedBy k (beginDigest s c length version digest) sig = false) ∨ version < s.kp.fwCounter) ∧ portPresent s port = true ∧ port < 2 ∧ s.kp.stage = 13 ∧ s.kp.recovery = some r ∧ elsewhere r addr = false ∧ r.challenge = some c :=
  ⟨1, 5, 6, 4096, 0, 0, 0, rec0, { recovering rec0 with kp := { (recovering rec0).kp with fwCounter := 1 } },
    Or.inr (by decide +kernel), by decide +kernel⟩

theorem test_meets_RecoveryTakesAnImage_5 : ∃ (port : Nat) (addr : Nat) (offset : Nat) (data : List Byte) (r : Recovery) (x : Transfer) (s : State),
    portPresent s port = true ∧ port < 2 ∧ s.kp.stage = 13 ∧ s.kp.recovery = some r ∧ r.transfer = some x ∧
    elsewhere r addr = false ∧ data ≠ [] ∧ data.length ≤ 1024 ∧ offset + data.length ≤ Min.min x.length 8388608 ∧
    mramOpen s = true :=
  ⟨1, 5, 4095, [1], { rec0 with transfer := some transfer }, transfer, recovering { rec0 with transfer := some transfer },
    by decide +kernel⟩

theorem test_meets_RecoveryTakesAnImage_6 : ∃ (port : Nat) (addr : Nat) (r : Recovery) (x : Transfer) (s : State),
    s.kp.recovery = some r ∧ r.transfer = some x ∧ imageDigestOk s x.length x.digest = true ∧ imageAccepted s = true ∧
    portPresent s port = true ∧ port < 2 ∧ s.kp.stage = 13 ∧ elsewhere r addr = false ∧ mramOpen s = true :=
  ⟨1, 5, { rec0 with transfer := some transfer0 }, transfer0, recovering { rec0 with transfer := some transfer0 },
    rfl, rfl, decide_eq_true rfl, delivered_accepted _ rfl rfl rfl, by decide +kernel⟩

theorem test_meets_RecoveryTakesAnImage_7 : ∃ (r : Recovery) (s : State),
    s.kp.recovery = some r :=
  ⟨rec0, recovering rec0,
    by decide +kernel⟩

theorem test_meets_RecoveryTakesAnImage_8 : ∃ (port : Nat) (s : State),
    portPresent s port = true ∧ s.kp.stage ≠ 13 ∧ s.kp.hubHeld = false ∧ (¬(2 ≤ s.pwr.retain ∧ s.pwr.retain ≤ 7)) :=
  ⟨11, ready,
    by decide +kernel⟩

theorem test_meets_ProgramCommandsComplete_1 : ∃ (cx : Cmd) (bay : Nat) (w : Nat) (off : Nat) (rd : HubRead) (dg : BitVec 256) (named : List Named) (reply : Reply) (t : Nat) (y : Bay) (win : SliceWin) (m : List Finding) (b : List Byte) (img : Image) (s : State) (s1 : State) (s2 : State),
    s1 = noteTaken cx 48 s ∧ Owns cx bay t y s1 ∧ m = windowMeets s1 win off rd.count rd.found ∧ s2 = meetShared m s1 ∧
    b = windowBytes s2 win off rd.count ∧ img = decodeImage b named dg ∧ bytesDigest b = dg ∧ Accepts cx 48 s ∧
    s1.sliceWin t w = some win ∧ w ≤ 63 ∧ off % 64 = 0 ∧ 64 ≤ rd.count ∧ rd.count ≤ 1048576 ∧
    (off + rd.count ≤ (Option.map (fun z => (bayJoists s1 z).length) (s1.bayOf win.bay)).getD 0 * win.extent) ∧
    bayFenced s1 win.bay = false ∧ y.program = none ∧ win.halted = false ∧ ((m.any fun f => f.kind == EccKind.ue) = false) ∧
    imageBad s2 win off rd.count = false ∧ loadedBytes s2 + rd.count ≤ 2097152 ∧
    Sys2Proof.imageFault s2 b named img y = none ∧ (img.landing ≠ [] → s.kp.randomOk = true) ∧
    ((img.landing.any fun l => (landingNonce s2 0 t bay l.window).isNone) = false) ∧ 88 ≤ reply.len :=
  ⟨tenCmd, 0, 0, 0, ⟨192, []⟩, bytesDigest progRead, [], buf, 0, bay0, win0, [], progRead,
    decodeImage progRead [] (bytesDigest progRead), progState, progTaken, meetShared [] progTaken,
    rfl, ⟨by decide +kernel, ⟨ten0, by decide +kernel, rfl⟩, by decide +kernel, rfl, by decide +kernel⟩, rfl, rfl, rfl, rfl,
    rfl, by unfold Accepts; decide +kernel⟩

theorem test_meets_ProgramCommandsComplete_2 : ∃ (cx : Cmd) (bay : Nat) (w : Nat) (off : Nat) (rd : HubRead) (dg : BitVec 256) (named : List Named) (t : Nat) (y : Bay) (win : SliceWin) (m : List Finding) (b : List Byte) (img : Image) (f : Nat × Nat × Nat) (s : State) (s1 : State) (s2 : State),
    s1 = noteTaken cx 48 s ∧ Owns cx bay t y s1 ∧ m = windowMeets s1 win off rd.count rd.found ∧ s2 = meetShared m s1 ∧
    b = windowBytes s2 win off rd.count ∧ img = decodeImage b named dg ∧ bytesDigest b = dg ∧ Accepts cx 48 s ∧
    s1.sliceWin t w = some win ∧ w ≤ 63 ∧ off % 64 = 0 ∧ 64 ≤ rd.count ∧ rd.count ≤ 1048576 ∧
    (off + rd.count ≤ (Option.map (fun z => (bayJoists s1 z).length) (s1.bayOf win.bay)).getD 0 * win.extent) ∧
    bayFenced s1 win.bay = false ∧ y.program = none ∧ win.halted = false ∧ ((m.any fun f => f.kind == EccKind.ue) = false) ∧
    imageBad s2 win off rd.count = false ∧ loadedBytes s2 + rd.count ≤ 2097152 ∧
    Sys2Proof.imageFault s2 b named img y = some f :=
  ⟨tenCmd, 0, 0, 0, ⟨64, []⟩, bytesDigest zeroRead, [], 0, bay0, win0, [], zeroRead,
    decodeImage zeroRead [] (bytesDigest zeroRead), (0xFFFE, 0, 0), sliceState, zeroTaken, meetShared [] zeroTaken,
    rfl, ⟨by decide +kernel, ⟨ten0, by decide +kernel, rfl⟩, by decide +kernel, rfl, by decide +kernel⟩, rfl, rfl, rfl, rfl,
    rfl, by unfold Accepts; decide +kernel⟩

theorem test_meets_ProgramCommandsComplete_3 : ∃ (cx : Cmd) (bay : Nat) (w : Nat) (off : Nat) (rd : HubRead) (t : Nat) (y : Bay) (win : SliceWin) (m : List Finding) (s : State) (s1 : State) (s2 : State),
    s1 = noteTaken cx 48 s ∧ Owns cx bay t y s1 ∧ m = windowMeets s1 win off rd.count rd.found ∧ s2 = meetShared m s1 ∧
    Accepts cx 48 s ∧ s1.sliceWin t w = some win ∧ w ≤ 63 ∧ off % 64 = 0 ∧ 64 ≤ rd.count ∧ rd.count ≤ 1048576 ∧
    (off + rd.count ≤ (Option.map (fun z => (bayJoists s1 z).length) (s1.bayOf win.bay)).getD 0 * win.extent) ∧
    bayFenced s1 win.bay = false ∧ y.program = none ∧ win.halted = false ∧
    (imageBad s2 win off rd.count = true ∨ (m.any fun f => f.kind == EccKind.ue) = true) :=
  ⟨tenCmd, 0, 0, 0, ⟨64, [pegFinding]⟩, 0, bay0, win0, windowMeets zeroTaken win0 0 64 [pegFinding], sliceState, zeroTaken,
    meetShared (windowMeets zeroTaken win0 0 64 [pegFinding]) zeroTaken,
    rfl, ⟨by decide +kernel, ⟨ten0, by decide +kernel, rfl⟩, by decide +kernel, rfl, by decide +kernel⟩, rfl, rfl,
    by unfold Accepts; decide +kernel⟩

theorem test_meets_ProgramCommandsComplete_4 : ∃ (cx : Cmd) (bay : Nat) (t : Nat) (y : Bay) (s : State),
    Owns cx bay t y (noteTaken cx 49 s) ∧ Accepts cx 49 s ∧ stepsOf (noteTaken cx 49 s) bay = [] :=
  ⟨tenCmd, 0, 0, loaded (image (.await awaiting)), withBays (loaded (image (.await awaiting))),
    ⟨by decide +kernel, ⟨ten0, by decide +kernel, rfl⟩, by decide +kernel, rfl, by decide +kernel⟩,
    by unfold Accepts; decide +kernel⟩

theorem test_meets_ProgramCommandsComplete_5 : ∃ (cx : Cmd) (w : Nat) (bay : Nat) (acc : Nat) (addr : Nat) (ext : Nat) (t : Nat) (y : Bay) (nonce : Nat) (s : State),
    Owns cx bay t y (noteTaken cx 50 s) ∧ freshNonce (Config.random (drawNo s)).toNat (2 ^ 16) s.bay.deadKeys (rkey 2 t w) = some nonce ∧ Accepts cx 50 s ∧ w ≤ 63 ∧ acc ≤ 3 ∧ addr % 64 = 0 ∧ ext % 64 = 0 ∧ 64 ≤ ext ∧ ext ≤ 6291456 ∧ addr + ext ≤ sliceBytes s ∧ s.kp.randomOk = true :=
  ⟨tenCmd, 0, 0, 3, 0, 64, 0, bay0, (Config.random (drawNo (withBays bay0))).toNat % 2 ^ 16, withBays bay0,
    ⟨by decide +kernel, ⟨ten0, by decide +kernel, rfl⟩, by decide +kernel, rfl, by decide +kernel⟩, rfl,
    by unfold Accepts; decide +kernel⟩

theorem test_meets_BringUpStarts_1 : ∃ (s : State),
    storedFault s = none ∧ s.kp.raising = true ∧ s.kp.stage = 0 ∧ s.kp.coolantLoss = false ∧ s.kp.keeperTrip = false :=
  ⟨raisingAt 0,
    delivered_stored _ rfl rfl rfl ⟨rfl, rfl⟩, by decide +kernel⟩

theorem test_meets_BringUpStarts_2 : ∃ (c : Nat) (s : State),
    s.kp.raising = true ∧ s.kp.stage = 0 ∧ s.kp.coolantLoss = false ∧ s.kp.keeperTrip = false ∧ storedFault s = some c :=
  ⟨0, { raisingAt 0 with kp := { (raisingAt 0).kp with commitLo := 1 } },
    by decide +kernel⟩

theorem test_meets_BringUpStarts_3 : ∃ (s : State),
    s.kp.raising = true ∧ s.kp.stage = 1 ∧ s.kp.randomOk = true :=
  ⟨raisingAt 1,
    by decide +kernel⟩

theorem test_meets_BringUpStarts_4 : ∃ (linkOk : Bool) (framerOk : Bool) (s : State),
    s.kp.raising = true ∧ s.kp.stage = 1 ∧ (linkOk && framerOk && s.kp.randomOk) = false :=
  ⟨true, false, raisingAt 1,
    by decide +kernel⟩

theorem test_meets_BringUpStarts_5 : ∃ (s : State),
    s.kp.stage = 1 ∧ s.pwr.alerts.contains 2 = true ∧ s.pwr.pwrok = true ∧ s.kp.coolantLoss = false ∧ s.kp.keeperTrip = false :=
  ⟨{ raisingAt 1 with pwr := { pwrok := true, alerts := [2] } },
    by decide +kernel⟩

theorem test_meets_BringUpStarts_6 : ∃ (s : State),
    s.kp.raising = true ∧ s.kp.stage = 2 :=
  ⟨raisingAt 2,
    by decide +kernel⟩

theorem test_meets_BringUpStarts_7 : ∃ (s : State),
    s.kp.raising = true ∧ s.kp.stage = 3 :=
  ⟨raisingAt 3,
    by decide +kernel⟩

theorem test_meets_MemoryReadsBack_2 : ∃ (inSlice : Bool) (j : Nat) (a : Nat) (data : List Byte) (k : Nat),
    (k < memKey inSlice j a ∨ memKey inSlice j a + data.length ≤ k) :=
  ⟨true, 32, 64, [1, 2], 2,
    by decide +kernel⟩

theorem test_meets_MemoryReadsBack_4 : ∃ (a : Nat) (data : List Byte),
    a % 8 = 0 ∧ data.length % 8 = 0 :=
  ⟨8, [1, 2, 3, 4, 5, 6, 7, 8],
    by decide +kernel⟩

theorem test_meets_MemoryReadsBack_5 : ∃ (data : List Byte),
    data ≠ [] :=
  ⟨[1],
    by decide +kernel⟩

theorem test_meets_LightIsWatched_1 : ∃ (s : State),
    (s.kp.hubHeld = false ∨ s.kp.stage = 13) :=
  ⟨ready,
    by decide +kernel⟩

theorem test_meets_LightIsWatched_2 : ∃ (e : Nat) (s : State),
    enginePresent s e = true ∧ (s.engine e).laserOn = true :=
  ⟨0, engineAt running,
    by decide +kernel⟩

theorem test_meets_LightIsWatched_3 : ∃ (e : Nat) (s : State),
    enginePresent s e = true ∧ (s.engine e).laserOn = false ∧ laserAllowed s e = true :=
  ⟨0, engineAt { running with laserOn := false },
    by decide +kernel⟩

theorem test_meets_LightIsWatched_4 : ∃ (port : Nat) (s : State),
    portPresent s port = true :=
  ⟨11, ready,
    by decide +kernel⟩

theorem test_meets_LightIsWatched_5 : ∃ (port : Nat) (s : State),
    portPresent s port = true ∧ (s.port port).lightOff = true :=
  ⟨0, lit { lightOff := true },
    by decide +kernel⟩

theorem test_meets_LightIsWatched_6 : ∃ (port : Nat) (s : State),
    portPresent s port = true ∧ (s.port port).lightOff = true :=
  ⟨0, lit { lightOff := true },
    by decide +kernel⟩

theorem test_meets_LightIsWatched_7 : ∃ (port : Nat) (s : State),
    portPresent s port = true :=
  ⟨11, ready,
    by decide +kernel⟩

theorem test_meets_PegSequencesRun_1 : ∃ (ref : StageRef) (r : Run) (d : PegDesc) (s : State),
    StageReady ref r s ∧ r.g.work = StageWork.pegSeq d ∧ pegsBusy r = true :=
  ⟨{ bay := 0, ix := 1 }, pegsRun, peg0, pegsState,
    by unfold StageReady; decide +kernel⟩

theorem test_meets_PegSequencesRun_2 : ∃ (ref : StageRef) (r : Run) (d : PegDesc) (s : State),
    StageReady ref r s ∧ r.g.work = StageWork.pegSeq d ∧ pegsBusy r = false ∧ controlLost r.found = true :=
  ⟨controlRef, { theRun (.pegSeq peg0) with found := controlRef.found }, peg0, atStage (.pegSeq peg0),
    by unfold StageReady; decide +kernel⟩

theorem test_meets_PegSequencesRun_3 : ∃ (ref : StageRef) (r : Run) (d : PegDesc) (s : State),
    StageReady ref r s ∧ r.g.work = StageWork.pegSeq d ∧ pegsBusy r = false ∧ controlLost r.found = false :=
  ⟨ref, theRun (.pegSeq peg0), peg0, atStage (.pegSeq peg0),
    by unfold StageReady; decide +kernel⟩

theorem test_meets_PegSequencesRun_4 : ∃ (joist : Nat) (bank : Nat) (found : List Finding) (m : List Finding) (r : Run) (d : PegDesc) (a : Active) (u : State × PegRun × Nat) (l : List PegInstr) (s : State),
    (m = (found.filter (fun f => f.joist = joist ∧ f.unit = bank)).map (fun f => { classed s f with src := 3 })) ∧
    runSegment r joist bank m s = u ∧ l = (s.joist joist).pegList ∧ (s.peg joist bank).inSegment = true ∧
    pegRunOf s joist = some (r, d, a) ∧ bank < 24 ∧ u.snd.fst.halted = false ∧ u.snd.snd < l.length ∧ joist ∈ r.js ∧
    (s.peg joist bank).busy = true :=
  ⟨32, 23, [], [], pegRun peg49, peg49, active, runSegment (pegRun peg49) 32 23 [] (pegState peg49), peg49.list,
    pegState peg49,
    rfl, rfl, rfl, by decide +kernel⟩

theorem test_meets_PegSequencesRun_5 : ∃ (joist : Nat) (bank : Nat) (found : List Finding) (m : List Finding) (r : Run) (d : PegDesc) (a : Active) (u : State × PegRun × Nat) (s : State),
    (m = (found.filter (fun f => f.joist = joist ∧ f.unit = bank)).map (fun f => { classed s f with src := 3 })) ∧
    runSegment r joist bank m s = u ∧ (s.peg joist bank).inSegment = true ∧ pegRunOf s joist = some (r, d, a) ∧ bank < 24 ∧
    u.snd.fst.halted = false ∧ (s.joist joist).pegList.length ≤ u.snd.snd ∧ joist ∈ r.js ∧ r.g.num.replay = false ∧
    stepOf s r.x.id = some r.x ∧ r.js = [joist] ∧ (∀ (b : Nat), b < 24 → b ≠ bank → (s.peg joist b).busy = false) :=
  ⟨32, 23, [], [], pegRun peg0, peg0, active, runSegment (pegRun peg0) 32 23 [] (pegState peg0), pegState peg0,
    rfl, rfl, by decide +kernel⟩

theorem test_meets_RoundingFollowsItsMode_2 : ∃ (r : Nat) (d : Dy) (u : Int) (q : Int) (n : Int),
    d.e < u ∧ q = 2 ^ (u - d.e).toNat ∧ n = roundTo RMode.rtz r d u :=
  ⟨0, { m := -3, e := -1 }, 0, 2, -1,
    by decide +kernel⟩

theorem test_meets_RoundingFollowsItsMode_3 : ∃ (d : Dy) (u : Int) (q : Int),
    d.e < u ∧ q = 2 ^ (u - d.e).toNat :=
  ⟨{ m := -3, e := -1 }, 0, 2,
    by decide +kernel⟩

theorem test_meets_RoundingFollowsItsMode_4 : ∃ (d : Dy) (u : Int),
    u ≤ d.e :=
  ⟨{ m := 3, e := 0 }, 0,
    by decide +kernel⟩

theorem test_meets_StepsAreAdmittedAndStart_1 : ∃ (bay : Nat) (x : Step) (t : State) (s : State),
    tryAdmit s x = Admission.admitted t ∧ jigRuns s bay = true ∧ admitOrder s bay = [x] ∧ stepOf s x.id = some x ∧
    x.arm = none ∧ slotTaken s x = false :=
  ⟨0, { aStep with cx := tenCmd }, applyPlan { aStep with cx := tenCmd } { free := freePages queued 0 (loaded (image (.await awaiting))) } [] queued, queued,
    rfl, by decide +kernel⟩

theorem test_meets_StepsAreAdmittedAndStart_2 : ∃ (bay : Nat) (x : Step) (tag : Nat) (t : State) (s : State),
    tryAdmit s x = Admission.admitted t ∧ jigRuns s bay = true ∧ admitOrder s bay = [x] ∧ stepOf s x.id = some x ∧
    x.arm = some tag ∧ tagArmed s bay tag = false ∧ slotsFull s bay = false :=
  ⟨0, { armedStep with phase := .queued }, 5, admitTo armQueued { armedStep with phase := .queued }, armQueued,
    rfl, by decide +kernel⟩

theorem test_meets_StepsAreAdmittedAndStart_3 : ∃ (bay : Nat) (s : State),
    (jigRuns s bay = false ∨ admitOrder s bay = []) :=
  ⟨0, withBays bay0,
    by decide +kernel⟩

theorem test_meets_StepsAreAdmittedAndStart_4 : ∃ (bay : Nat) (x : Step) (s : State),
    jigRuns s bay = true ∧ admitOrder s bay = [x] ∧ x.arm = none ∧ slotTaken s x = true :=
  ⟨0, { aStep with id := 1 }, { queued with jig := { steps := [{ aStep with phase := .admitted }, { aStep with id := 1 }], nextId := 2 } },
    by decide +kernel⟩

theorem test_meets_StepsAreAdmittedAndStart_5 : ∃ (bay : Nat) (x : Step) (s : State),
    jigRuns s bay = true ∧ admitOrder s bay = [x] ∧ (x.arm ≠ none ∨ slotTaken s x = false) ∧ tryAdmit s x = Admission.held :=
  ⟨0, appending, sharing,
    by decide +kernel⟩

theorem test_meets_StepsAreAdmittedAndStart_6 : ∃ (bay : Nat) (x : Step) (s : State),
    jigRuns s bay = true ∧ admitOrder s bay = [x] ∧ (x.arm ≠ none ∨ slotTaken s x = false) ∧ tryAdmit s x = Admission.bad :=
  ⟨0, { aStep with table := [{ oneEntry with qlen := 9 }] }, oneQueued { aStep with table := [{ oneEntry with qlen := 9 }] },
    by decide +kernel⟩

theorem test_meets_StepsAreAdmittedAndStart_7 : ∃ (bay : Nat) (x : Step) (s : State),
    jigRuns s bay = true ∧ admitOrder s bay = [x] ∧ (x.arm ≠ none ∨ slotTaken s x = false) ∧
    tryAdmit s x = Admission.lacking ∧ x.admitTimeout = 0 :=
  ⟨0, { lackingStep with admitTimeout := 0 }, { lacking with jig := { steps := [{ lackingStep with admitTimeout := 0 }], nextId := 1 } },
    by decide +kernel⟩

theorem test_meets_StepsAreAdmittedAndStart_8 : ∃ (bay : Nat) (x : Step) (l : List Step) (s : State),
    jigRuns s bay = true ∧ admitOrder s bay = x :: l ∧ stepOf s x.id = some x ∧ (x.arm ≠ none ∨ slotTaken s x = false) ∧
    tryAdmit s x = Admission.lacking ∧ 0 < x.admitTimeout :=
  ⟨0, lackingStep, [], lacking,
    by decide +kernel⟩

theorem test_meets_StepsAreAdmittedAndStart_9 : ∃ (bay : Nat) (target : Nat) (y : Bay) (s : State),
    (∃ x c, x ∈ s.jig.steps ∧ x.bay = bay ∧ c ∈ x.grant.cows ∧ c.snd.snd.fst = target ∧ c.snd.snd.snd = false) ∧
    s.bayOf bay = some y ∧ (∀ (e : Nat × Nat), e ∈ pageBanks (bayJoists s y) [target] → pegTurn s e.fst e.snd = true) :=
  ⟨0, 2, loaded (image (.await awaiting)), copying,
    ⟨_, (0, 1, 2, false), List.mem_singleton.mpr rfl, by decide +kernel⟩, by decide +kernel⟩

theorem test_meets_StepsAreAdmittedAndStart_10 : ∃ (x : Step) (s : State),
    stepOf s x.id = some x ∧ x.isQueued = true ∧ s.qci.framerHalted = false :=
  ⟨{ aStep with cx := tenCmd }, queued,
    by decide +kernel⟩

theorem test_meets_StepsAreAdmittedAndStart_11 : ∃ (bay : Nat) (y : Bay) (x : Step) (s : State) (s1 : State),
    s1 = atBoundary bay s ∧ s.bayOf bay = some y ∧ runningStep s bay = none ∧ mayStart s1 bay y = true ∧
    nextStep s1 bay = some x ∧ planBroken s1 x = false :=
  ⟨0, loaded (image (.await awaiting)), { aStep with phase := .admitted }, admitted, atBoundary 0 admitted,
    rfl, by decide +kernel⟩

theorem test_meets_StepsAreAdmittedAndStart_12 : ∃ (bay : Nat) (y : Bay) (x : Step) (s : State) (s1 : State),
    s1 = atBoundary bay s ∧ s.bayOf bay = some y ∧ runningStep s bay = none ∧ mayStart s1 bay y = true ∧
    nextStep s1 bay = some x ∧ planBroken s1 x = true :=
  ⟨0, loaded (image (.await awaiting)), staleStep, planStale, atBoundary 0 planStale,
    rfl, by decide +kernel⟩

theorem test_meets_StepsAreAdmittedAndStart_13 : ∃ (bay : Nat) (y : Bay) (x : Step) (s : State) (j : Nat) (lt : Nat) (k : Nat) (s1 : State),
    s1 = atBoundary bay s ∧ s.bayOf bay = some y ∧ runningStep s bay = none ∧ mayStart s1 bay y = true ∧
    nextStep s1 bay = some x ∧ planBroken s1 x = false ∧ (lt = (Option.map (fun p => p.ltOff) y.program).getD 0) ∧
    lt + (tableBytes x.table).length ≤ 262144 ∧ j ∈ bayJoists s1 y ∧ k < (tableBytes x.table).length :=
  ⟨0, loaded (image (.await awaiting)), { aStep with phase := .admitted, table := [oneEntry] }, admittedWith [oneEntry], 32, 0,
    7, atBoundary 0 (admittedWith [oneEntry]),
    rfl, by decide +kernel⟩

theorem test_meets_StepsAreAdmittedAndStart_14 : ∃ (bay : Nat) (window : Nat) (y : Bay) (x : Step) (p : RxPkt) (imm : BitVec 32) (s : State),
    s.bayOf bay = some y ∧ triggerPkt s bay window imm = some p ∧ y.trigOn = true ∧ y.trigWindow = window ∧
    imm.toNat < 2 ^ 22 ∧ imm.toNat / 2 ^ 16 % 64 = bay ∧
    (List.find? (fun x => x.phase == StepPhase.armed && x.arm == some (imm.toNat % 2 ^ 16)) (stepsOf s bay) = some x) ∧
    mayStart s bay y = true ∧ stepFree s x = true ∧ (triggered s bay).any (stepFree s) = false ∧
    planBroken (atBoundary bay s) x = false :=
  ⟨0, 0, triggerBay, armedStep, trigRx 5, 5, withTrigger 5 armedState,
    by decide +kernel⟩

theorem test_meets_StepsAreAdmittedAndStart_15 : ∃ (bay : Nat) (window : Nat) (y : Bay) (x : Step) (p : RxPkt) (imm : BitVec 32) (s : State),
    s.bayOf bay = some y ∧ triggerPkt s bay window imm = some p ∧ y.trigOn = true ∧ y.trigWindow = window ∧
    imm.toNat < 2 ^ 22 ∧ imm.toNat / 2 ^ 16 % 64 = bay ∧
    (List.find? (fun x => x.phase == StepPhase.armed && x.arm == some (imm.toNat % 2 ^ 16)) (stepsOf s bay) = some x) ∧
    (mayStart s bay y = false ∨ stepFree s x = false ∨ (triggered s bay).any (stepFree s) = true) :=
  ⟨0, 0, triggerBay, armedStep, trigRx 5, 5, withTrigger 5 { armedState with kp := { armedState.kp with stage := 0xB } },
    by decide +kernel⟩

theorem test_meets_StepsAreAdmittedAndStart_16 : ∃ (bay : Nat) (window : Nat) (y : Bay) (p : RxPkt) (imm : BitVec 32) (s : State),
    s.bayOf bay = some y ∧ triggerPkt s bay window imm = some p ∧ y.trigOn = true ∧ y.trigWindow = window ∧
    (2 ^ 22 ≤ imm.toNat ∨ imm.toNat / 2 ^ 16 % 64 ≠ bay ∨ List.find? (fun x => x.phase == StepPhase.armed && x.arm == some (imm.toNat % 2 ^ 16)) (stepsOf s bay) = none) :=
  ⟨0, 0, triggerBay, trigRx 0x400000, 0x400000, withTrigger 0x400000 armedState,
    by decide +kernel⟩

theorem test_meets_StepsAreAdmittedAndStart_17 : ∃ (bay : Nat) (window : Nat) (imm : BitVec 32) (s : State),
    (triggerPkt s bay window imm = none ∨ ∀ (y : Bay), s.bayOf bay = some y → y.trigOn = false ∨ y.trigWindow ≠ window) :=
  ⟨9, 0, 0, ready,
    Or.inr (fun y h => nomatch h)⟩

theorem test_meets_MatrixStagesRun_1 : ∃ (ref : StageRef) (r : Run) (d : MatDesc) (s : State),
    StageReady ref r s ∧ r.g.work = StageWork.gemm d :=
  ⟨ref, theRun (.gemm matmul), matmul, atStage (.gemm matmul),
    by unfold StageReady; decide +kernel⟩

theorem test_meets_MatrixStagesRun_2 : ∃ (ref : StageRef) (r : Run) (d : MatDesc) (s : State),
    StageReady ref r s ∧ ref.found = [] ∧ r.g.work = StageWork.gemm d ∧ d.leaveOpen = true ∧ r.g.num.replay = false ∧
    d.group + d.vectors * d.chunks ≤ 8 ∧ r.js.Nodup ∧ s.mem.benchMark = [] ∧ s.mem.sliceMark = [] ∧ StagesPlainly r d ∧
    (∀ (j : Nat), j ∈ r.js → (s.joist j).trusses.length = 4 ∧ ∀ (x : Truss),
    x ∈ (s.joist j).trusses → ∀ (l : List (Bool × Val)), l ∈ x.half → l = []) :=
  ⟨ref, theRun (.gemm matmul), matmul, atStage (.gemm matmul),
    by unfold StagesPlainly StageReady; decide +kernel⟩

theorem test_meets_MatrixStagesRun_3 : ∃ (ref : StageRef) (r : Run) (d : MatDesc) (s : State),
    StageReady ref r s ∧ r.g.work = StageWork.gemvStream d :=
  ⟨ref, theRun (.gemvStream matmul), matmul, atStage (.gemvStream matmul),
    by unfold StageReady; decide +kernel⟩

theorem test_meets_MatrixStagesRun_4 : ∃ (ref : StageRef) (r : Run) (d : MatDesc) (s : State),
    StageReady ref r s ∧ ref.found = [] ∧ r.g.work = StageWork.gemvStream d ∧ d.leaveOpen = true ∧ r.g.num.replay = false ∧
    d.group + d.vectors * d.chunks ≤ 8 ∧ r.js.Nodup ∧ s.mem.benchMark = [] ∧ s.mem.sliceMark = [] ∧ d.isMx r.img = true ∧
    (∀ (j : Nat), j ∈ r.js → (s.joist j).trusses.length = 4 ∧ ∀ (x : Truss),
    x ∈ (s.joist j).trusses → ∀ (l : List (Bool × Val)), l ∈ x.half → l = []) :=
  ⟨ref, { theRun (.gemvStream matmul) with img := mxImage, y := loaded mxImage }, matmul, mxStream,
    by unfold StageReady; decide +kernel⟩

theorem test_meets_MatrixStagesRun_5 : ∃ (ref : StageRef) (r : Run) (d : MatDesc) (s : State),
    StageReady ref r s ∧ r.g.work = StageWork.conv d :=
  ⟨ref, theRun (.conv matmul), matmul, atStage (.conv matmul),
    by unfold StageReady; decide +kernel⟩

theorem test_meets_MatrixStagesRun_6 : ∃ (ref : StageRef) (r : Run) (d : MatDesc) (s : State),
    StageReady ref r s ∧ ref.found = [] ∧ r.g.work = StageWork.conv d ∧ d.leaveOpen = true ∧ r.g.num.replay = false ∧
    d.group + d.vectors * d.chunks ≤ 8 ∧ r.js.Nodup ∧ s.mem.benchMark = [] ∧ s.mem.sliceMark = [] ∧ StagesPlainly r d ∧
    (∀ (j : Nat), j ∈ r.js → (s.joist j).trusses.length = 4 ∧ ∀ (x : Truss),
    x ∈ (s.joist j).trusses → ∀ (l : List (Bool × Val)), l ∈ x.half → l = []) :=
  ⟨ref, theRun (.conv matmul), matmul, atStage (.conv matmul),
    by unfold StagesPlainly StageReady; decide +kernel⟩

theorem test_meets_SumsDoNotDependOnOrder_1 : ∃ (datum : Int) (a : SumTree) (b : SumTree),
    (∀ (c : Nat × Bool × Val), c ∈ a.contributions → c.fst < 16) ∧ a.contributions.Perm b.contributions ∧
    (SumTree.total datum a).ovf = false ∧ (SumTree.total datum b).ovf = false :=
  ⟨0, .leaf [(0, false, .num { m := 3, e := 0 }), (15, false, .num { m := 5, e := -1 })], .merge (.leaf [(15, false,
    .num { m := 5, e := -1 })]) (.leaf [(0, false, .num { m := 3, e := 0 })]),
    by decide, by decide +kernel⟩

theorem test_meets_SumsDoNotDependOnOrder_3 : ∃ (datum : Int) (a : SumTree) (i : Nat),
    (∀ (c : Nat × Bool × Val), c ∈ a.contributions → c.fst < 16) ∧ i < 16 ∧ (SumTree.total datum a).ovf = false ∧
    (SumTree.total datum a).flagged = false :=
  ⟨0, .leaf [(15, false, .num { m := 3, e := 0 })], 15,
    by decide +kernel⟩

theorem test_meets_SessionsOpen_1 : ∃ (cx : Cmd) (body : OpenBody) (s : State) (first : Nat) (i : Nat),
    Accepts cx 3 s ∧ openBodyOk s body = true ∧ openMode s = true ∧ body.mailbox = 255 ∧
    qpsFree s (bitsOf 12 body.portMask.toNat).length = true ∧ freeSlots (noteTaken cx 3 s) 255 body.slotCount = some first ∧
    freeSessionId (noteTaken cx 3 s) = some i :=
  ⟨opCmd, body 255, ready, 2, 0,
    by unfold Accepts; decide +kernel⟩

theorem test_meets_SessionsOpen_2 : ∃ (cx : Cmd) (body : OpenBody) (sig : BitVec 512) (key : BitVec 512) (s : State) (first : Nat) (i : Nat) (wk : Nat),
    signedBy key (openDigest s body 0 none) sig = true ∧ (body.mailbox = 255 ∧ wk = 805306368 ∨ body.mailbox ≠ 255 ∧ ∃ t,
    s.tenancy body.mailbox = some t ∧ t.destroying = none ∧ t.windowKey = wk) ∧ Accepts cx 3 s ∧ openBodyOk s body = true ∧
    openMode s = false ∧ 192 ≤ body.reply.len ∧ openKey s body.mailbox = some key ∧ s.kp.randomOk = true ∧
    qpsFree s (bitsOf 12 body.portMask.toNat).length = true ∧
    freeSlots (noteTaken cx 3 s) body.mailbox body.slotCount = some first ∧ freeSessionId (noteTaken cx 3 s) = some i :=
  ⟨opCmd, body 0, mkSig 5 (openDigest keyed (body 0) 0 none), 5, keyed, 1, 0, 0x30000001,
    signed_mkSig _ _, Or.inr ⟨by decide +kernel, ten0, rfl, rfl, rfl⟩, by unfold Accepts; decide +kernel⟩

theorem test_meets_SessionsOpen_3 : ∃ (cx : Cmd) (body : OpenBody) (key : BitVec 512) (sig : BitVec 512) (s : State) (s1 : State) (s2 : State) (first : Nat) (i : Nat),
    signedBy key (openDigest s body 1 (some key)) sig = true ∧
    (s1 = (noteTaken cx 3 s).onKp (fun k => { k with operatorKey := some key })) ∧
    (s2 = List.foldl (fun s i => endSession i 0 s) s1 (sessionsWhere s1 fun x => !x.isSealed)) ∧ Accepts cx 3 s ∧
    cx.session = preSession ∧ openBodyOk s body = true ∧ 192 ≤ body.reply.len ∧ body.keyForm = 4 ∧ openMode s = true ∧
    s.kp.fuses.testPortOff = true ∧ body.mailbox = 255 ∧ mramOpen s = true ∧ s.kp.randomOk = true ∧
    freeSlots s2 255 body.slotCount = some first ∧ freeSessionId s2 = some i ∧
    qpsFree s2 (bitsOf 12 body.portMask.toNat).length = true :=
  ⟨preCmd, body 255, 77, mkSig 77 (openDigest enrolling (body 255) 1 (some 77)), enrolling, enrolled,
    (sessionsWhere enrolled (fun x => !x.isSealed)).foldl (fun s i => endSession i 0 s) enrolled, 1, 0,
    signed_mkSig _ _, rfl, rfl, by unfold Accepts; decide +kernel⟩

theorem test_meets_ReadCommandsComplete_1 : ∃ (cx : Cmd) (reply : Reply) (x : Session) (p : Nat) (s : State) (s1 : State),
    s1 = noteTaken cx 176 s ∧ Accepts cx 176 s ∧ sessionRec s1 cx.session = some x ∧
    recordPort s1 cx.session x cx.port = some p ∧ 65536 + 24 ≤ reply.len :=
  ⟨opCmd, buf, { opSession with taken := 1, expect := 2 }, 0, ready, noteTaken opCmd 176 ready,
    rfl, by unfold Accepts; decide +kernel⟩

theorem test_meets_ReadCommandsComplete_2 : ∃ (cx : Cmd) (log : Nat) (first : Nat) (count : Nat) (reply : Reply) (x : Session) (p : Nat) (rows : List (List Nat)) (s : State) (s1 : State),
    s1 = noteTaken cx 177 s ∧ Accepts cx 177 s ∧ log ≤ 11 ∧ sessionRec s1 cx.session = some x ∧
    recordPort s1 cx.session x cx.port = some p ∧ rows = logSlice first count (logView s1 log).rows ∧
    (logView s1 log).headSize + (logView s1 log).size * rows.length + 24 ≤ reply.len :=
  ⟨opCmd, 11, 0, 1, buf, { opSession with taken := 1, expect := 2 }, 0,
    logSlice 0 1 (logView (noteTaken opCmd 177 ready) 11).rows, ready, noteTaken opCmd 177 ready,
    rfl, by unfold Accepts; decide +kernel⟩

theorem test_meets_ReadCommandsComplete_3 : ∃ (cx : Cmd) (addrs : List Nat) (s : State) (s1 : State),
    s1 = noteTaken cx 178 s ∧ (∀ (a : Nat), a ∈ addrs → ∃ k off c, blockOf s1 a = some (k, off) ∧
    callerOf s1 cx.session = some c ∧ mayRead s1 c k off = true) ∧ Accepts cx 178 s ∧ addrs ≠ [] ∧ addrs.length ≤ 4 :=
  ⟨opCmd, [0x10000000, 0x203007FC], ready, noteTaken opCmd 178 ready,
    rfl, by intro a ha; have h : a = 0x10000000 ∨ a = 0x203007FC := (by simpa using ha); rcases h with rfl | rfl <;> first | exact ⟨.hub, 0, .operator, by decide +kernel, by decide +kernel, by decide +kernel⟩ | exact ⟨.bent 3, 0x7FC, .operator, by decide +kernel, by decide +kernel, by decide +kernel⟩, by unfold Accepts; decide +kernel⟩

theorem test_meets_ManagementFramesAreServed_1 : ∃ (f : MgmtFrame) (x : Session) (s : State),
    mgmtFault s f = none ∧ portPresent s f.port = true ∧ mgmtTooSoon s f.port = false ∧ (¬(2 ≤ s.pwr.retain ∧
    s.pwr.retain ≤ 7)) ∧ s.session f.session = some x ∧ 1 ≤ f.action ∧ f.action ≤ 3 :=
  ⟨tagged { frame with action := 3 }, sealedOp, mgmtAt frame,
    mgmt_good (x := sealedOp) (by decide +kernel) (by decide +kernel) rfl (by decide +kernel) rfl rfl, by decide +kernel⟩

theorem test_meets_ManagementFramesAreServed_2 : ∃ (f : MgmtFrame) (c : Nat) (s : State),
    portPresent s f.port = true ∧ mgmtTooSoon s f.port = false ∧ (¬(2 ≤ s.pwr.retain ∧ s.pwr.retain ≤ 7)) ∧
    mgmtFault s f = some c ∧ mramOpen s = true :=
  ⟨{ frame with counter := 0 }, 4, mgmtAt frame,
    by decide +kernel⟩

theorem test_meets_ManagementFramesAreServed_3 : ∃ (f : MgmtFrame) (rest : List MgmtFrame) (x : Session) (s : State),
    s.kp.mgmt = f :: rest ∧ f.action = 1 ∧ (¬(2 ≤ s.pwr.retain ∧ s.pwr.retain ≤ 7)) ∧ s.session f.session = some x :=
  ⟨frame, [], sealedOp, mgmtAt frame,
    by decide +kernel⟩

theorem test_meets_ManagementFramesAreServed_4 : ∃ (f : MgmtFrame) (rest : List MgmtFrame) (x : Session) (s : State),
    s.kp.mgmt = f :: rest ∧ f.action = 2 ∧ (¬(2 ≤ s.pwr.retain ∧ s.pwr.retain ≤ 7)) ∧ s.session f.session = some x ∧
    1 ≤ f.arg ∧ f.arg ≤ 15 ∧ mayReset s (if x.mailbox = 255 then none else some x.mailbox) (bitsOf 4 f.arg) = true ∧
    s.kp.stage ≠ 11 ∧ s.kp.stage ≠ 12 ∧ s.kp.coolantLoss = false ∧
    (((bitsOf 4 f.arg).any fun b => (s.bent b).tripped) = false) ∧ (bitsOf 4 f.arg).any (bentsInReset s).contains = false :=
  ⟨{ frame with action := 2, arg := 15 }, [], sealedOp, mgmtAt { frame with action := 2, arg := 15 },
    by decide +kernel⟩

theorem test_meets_ManagementFramesAreServed_5 : ∃ (f : MgmtFrame) (rest : List MgmtFrame) (x : Session) (s : State),
    s.kp.mgmt = f :: rest ∧ f.action = 3 ∧ (¬(2 ≤ s.pwr.retain ∧ s.pwr.retain ≤ 7)) ∧ s.session f.session = some x ∧
    x.mailbox = 255 ∧ f.arg ≤ 1 :=
  ⟨{ frame with action := 3, arg := 1 }, [], sealedOp, mgmtAt { frame with action := 3, arg := 1 },
    by decide +kernel⟩

theorem test_meets_WakesEndRetain_1 : ∃ (port : Nat) (s : State),
    portPresent s port = true ∧ (s.port port).lit = false ∧ (wakeLight s).testBit port = true ∧ s.pwr.retain = 6 ∧
    s.pwr.wakePending = false :=
  ⟨11, { waking with pwr := { waking.pwr with retain := 6 } },
    by decide +kernel⟩

theorem test_meets_WakesEndRetain_2 : ∃ (port : Nat) (s : State),
    portPresent s port = true ∧ (wakeLight s).testBit port = false :=
  ⟨0, { ready with cfg := { inForce := [(settingId 4 0 0x10, some [2])] } },
    by decide +kernel⟩

theorem test_meets_WakesEndRetain_3 : ∃ (port : Nat) (s : State),
    portPresent s port = true ∧ port = sentryPort s ∧ s.pwr.retain = 6 ∧ s.pwr.wakePending = false :=
  ⟨1, { waking with pwr := { waking.pwr with retain := 6 } },
    by decide +kernel⟩

theorem test_meets_WakesEndRetain_4 : ∃ (port : Nat) (s : State),
    portPresent s port = true ∧ port = sentryPort s ∧ 2 ≤ s.pwr.retain ∧ s.pwr.retain ≤ 5 ∧ s.pwr.wakePending = false :=
  ⟨1, { waking with pwr := { waking.pwr with retain := 5 } },
    by decide +kernel⟩

theorem test_meets_WakesEndRetain_5 : ∃ (f : WakeFrame) (x : Session) (s : State),
    wakeFault s f = none ∧ portPresent s f.port = true ∧ f.port = sentryPort s ∧ s.pwr.retain = 6 ∧
    s.pwr.wakePending = false ∧ s.session f.session = some x :=
  ⟨{ wakeFrame with tag := wakeTag sealedOp wakeFrame }, sealedOp,
    { waking with pwr := { waking.pwr with retain := 6 }, qci := { sessions := [(1, some sealedOp)] } },
    wake_good (x := sealedOp) rfl rfl (by decide +kernel) rfl rfl, by decide +kernel⟩

theorem test_meets_WakesEndRetain_6 : ∃ (f : WakeFrame) (c : Nat) (s : State),
    portPresent s f.port = true ∧ f.port = sentryPort s ∧ s.pwr.retain = 6 ∧ s.pwr.wakePending = false ∧
    wakeFault s f = some c ∧ mramOpen s = true :=
  ⟨{ port := 1, tenancy := 0, session := 99, counter := 0 }, 1, { retainAt 6 with cfg := waking.cfg },
    by decide +kernel⟩

theorem test_meets_WakesEndRetain_7 : ∃ (s : State),
    s.pwr.retain = 7 :=
  ⟨retainAt 7,
    by decide +kernel⟩

theorem test_meets_WakesEndRetain_8 : ∃ (bent : Nat) (rest : List Nat) (s : State),
    bent < 4 ∧ s.pwr.retain = 8 ∧ s.pwr.exitOrder = bent :: rest ∧ (s.bent bent).tripped = false :=
  ⟨3, [], { retainAt 8 with pwr := { (retainAt 8).pwr with exitOrder := [3] } },
    by decide +kernel⟩

theorem test_meets_WakesEndRetain_9 : ∃ (bent : Nat) (rest : List Nat) (s : State),
    bent < 4 ∧ s.pwr.retain = 8 ∧ s.pwr.exitOrder = bent :: rest ∧ (s.bent bent).tripped = true :=
  ⟨3, [], { bentAt bentOn with bnt := [(3, { bentOn with tripped := true })], pwr := { ready.pwr with retain := 8, exitOrder := [3] } },
    by decide +kernel⟩

theorem test_meets_PacketsAreTaken_1 : ∃ (p : Pkt) (q : Qp) (g : Target) (h : Bool) (s : State),
    Arrived p q s ∧ q.peer = none ∧ p.psn = q.rxPsn ∧ p.op ≠ PktOp.send ∧ p.op ≠ PktOp.other ∧
    (isRead p = true → readsFull s (pktKey p) = false) ∧ WindowTakes q p g s ∧
    hostSpace s p.port p.priority (if isRead p = true then 0 else p.data.length) = some h :=
  ⟨hostPkt, hostQ, .slice 0 0, false, sliceState,
    by unfold Arrived WindowTakes; decide +kernel⟩

theorem test_meets_PacketsAreTaken_2 : ∃ (p : Pkt) (q : Qp) (e : Nat × Nat) (b : Nat) (w : Nat) (s : State),
    Arrived p q s ∧ q.peer = some e ∧ p.psn = q.rxPsn ∧ (p.op = PktOp.write ∨ p.op = PktOp.writeImm) ∧
    WindowTakes q p (Target.landing b w) s ∧ cellsHeld s (pktKey p) + cellCost (payloadBytes q p) ≤ grantOf s q :=
  ⟨peerPkt, peerQ, (0, 0), 0, 0, peerState,
    by unfold Arrived WindowTakes; decide +kernel⟩

theorem test_meets_PacketsAreTaken_3 : ∃ (p : Pkt) (q : Qp) (e : Nat × Nat) (s : State),
    Arrived p q s ∧ q.peer = some e ∧ p.psn = q.rxPsn ∧ p.op = PktOp.send ∧ p.data.length = 16 ∧ p.first = true ∧
    p.last = true ∧ leNat (List.drop 12 (openPkt q p).data) = 0 ∧ sealPasses q p = true ∧
    cellsHeld s (pktKey p) ≤ grantOf s q :=
  ⟨{ returnPkt with data := goodImm }, peerQ, (0, 0), peerState,
    by unfold Arrived; decide +kernel⟩

theorem test_meets_PacketsAreTaken_4 : ∃ (p : Pkt) (q : Qp) (s : State),
    Arrived p q s ∧ (p.psn + 2 ^ 24 - q.rxPsn) % 2 ^ 24 ≠ 0 ∧ (p.psn + 2 ^ 24 - q.rxPsn) % 2 ^ 24 < 2 ^ 23 :=
  ⟨{ hostPkt with psn := 2 ^ 23 - 1 }, hostQ, sliceState,
    by unfold Arrived; decide +kernel⟩

theorem test_meets_PacketsAreTaken_5 : ∃ (p : Pkt) (q : Qp) (s : State),
    portPresent s p.port = true ∧ hubAwake s = true ∧ p.headersOk = true ∧ p.qpn = 16 ∧ s.qp (pktKey p) = some q ∧
    bootLatches s p.port = true ∧ (s.port p.port).bootPeer = none ∧ p.psn = 0 :=
  ⟨{ hostPkt with qpn := 16, srcIp := 7 }, { port := 0 },
    { latching with net := { ready.net with qps := [(16, some { port := 0 })] } },
    by decide +kernel⟩

theorem test_meets_PacketsAreTaken_6 : ∃ (p : Pkt) (s : State),
    portPresent s p.port = true ∧ hubAwake s = true ∧ p.headersOk = true ∧ p.qpn ≠ 16 ∧ s.qp (pktKey p) = none :=
  ⟨{ hostPkt with qpn := 0x200 }, sliceState,
    by decide +kernel⟩

theorem test_meets_StepsKeepTheState_1 : ∃ (s : State) (t : State),
    MemoryKept s ∧ step s = Host.Outcome.next t :=
  ⟨{ ready with pending := [.hintExpiry] }, { ready with thm := { ready.thm with hint := none } },
    by unfold MemoryKept; decide +kernel, rfl⟩

theorem test_meets_StepsKeepTheState_2 : ∃ (s : State) (t : State),
    PostponedLow s ∧ step s = Host.Outcome.next t :=
  ⟨{ bankAt { due := true, postponed := 4 } with pending := [.hintExpiry] }, bankAt { due := true, postponed := 4 },
    by unfold PostponedLow; decide +kernel, rfl⟩

theorem test_meets_ClocksAndRailsFail_1 : ∃ (s : State),
    s.pwr.pwrok = true :=
  ⟨ready,
    by decide +kernel⟩

theorem test_meets_ClocksAndRailsFail_2 : ∃ (s : State),
    s.pwr.alerts.contains 5 = true ∧ s.pwr.pwrok = true :=
  ⟨{ ready with pwr := { ready.pwr with alerts := [5] } },
    by decide +kernel⟩

theorem test_meets_ClocksAndRailsFail_3 : ∃ (b : Nat) (s : State),
    b < 4 ∧ (s.bent b).sillLock = true :=
  ⟨3, ready,
    by decide +kernel⟩

theorem test_meets_ClocksAndRailsFail_4 : ∃ (b : Nat) (n : Nat) (s : State),
    b < 4 ∧ (s.bent b).sillLock = false ∧ (s.kp.stage = 10 ∨ s.kp.stage = 12) ∧ s.pwr.retain < 5 ∧ n < 3 ∧
    bentsInReset s = [] ∧ dropped s = false :=
  ⟨0, 2, { bentAt { bentOn with sillLock := false } with kp := { ready.kp with stage := 0xC } },
    by decide +kernel⟩

theorem test_meets_ClocksAndRailsFail_5 : ∃ (b : Nat) (n : Nat) (s : State),
    b < 4 ∧ (s.bent b).sillLock = false ∧ 3 ≤ s.kp.stage ∧ s.kp.stage ≤ 11 ∧ s.kp.stage ≠ 10 ∧ s.pwr.retain < 5 ∧ n < 3 ∧
    (s.bent b).up = true ∧ (s.bent b).tripped = false ∧ dropped s = false :=
  ⟨3, 2, { bentAt bentOn with bnt := [(3, { bentOn with sillLock := false })], kp := { ready.kp with stage := 3 } },
    by decide +kernel⟩

theorem test_meets_ClocksAndRailsFail_6 : ∃ (b : Nat) (n : Nat) (s : State),
    b < 4 ∧ (s.bent b).sillLock = false ∧ 3 ≤ s.kp.stage ∧ s.kp.stage ≠ 13 ∧ s.pwr.retain < 5 ∧ 3 ≤ n :=
  ⟨0, 3, bentAt { bentOn with sillLock := false },
    by decide +kernel⟩

theorem test_meets_ClocksAndRailsFail_7 : ∃ (e : Nat) (s : State),
    enginePresent s e = true ∧ (s.engine e).pllLock = true :=
  ⟨0, engineAt running,
    by decide +kernel⟩

theorem test_meets_ClocksAndRailsFail_8 : ∃ (e : Nat) (s : State),
    enginePresent s e = true ∧ (s.engine e).pllLock = false ∧ (s.engine e).tripped = false ∧ (s.engine e).state = 0 ∧
    (s.pwr.retain < 2 ∨ 7 < s.pwr.retain) :=
  ⟨0, { engineAt { running with pllLock := false } with pwr := { ready.pwr with retain := 8 } },
    by decide +kernel⟩

theorem test_meets_ClocksAndRailsFail_9 : ∃ (s : State),
    s.pwr.pwrok = false :=
  ⟨State.reset,
    by decide +kernel⟩

theorem test_meets_ClocksAndRailsFail_10 : ∃ (s : State),
    s.pwr.pwrok = true :=
  ⟨ready,
    by decide +kernel⟩

theorem test_meets_ClocksAndRailsFail_11 : ∃ (s : State),
    s.pwr.pwrok = true ∧ s.kp.keeperTrip = false :=
  ⟨ready,
    by decide +kernel⟩

theorem test_meets_BayCommandsComplete_1 : ∃ (cx : Cmd) (b : BayBody) (t : Nat) (x : Tenancy) (y : Bay) (s : State) (s1 : State),
    s1 = noteTaken cx 32 s ∧ y = bayOfBody b t cx.session s1.cfg.epoch ∧ Accepts cx 32 s ∧ tenantOf s1 cx = some t ∧
    s1.tenancy t = some x ∧ x.destroying = none ∧ bayRangesOk b = true ∧ bayPlaceOk s1 y = true ∧
    b.bentMask &&& x.bentMask = b.bentMask ∧ (((bitsOf 4 b.bentMask).any fun k => (s1.bent k).tripped) = false) ∧
    bayFenced s1 b.bay = false ∧ (bitsOf 4 b.bentMask).any (bentFenced s1) = false ∧ s1.bayOf b.bay = none ∧
    (bayJoists s1 y).any (usedJoists s1).contains = false ∧ touchedByOther s1 t (bayJoists s1 y) = false ∧
    (((bitsOf 4 b.bentMask).any fun k => (s1.bent k).margining.isSome) = false) ∧
    (List.foldl (fun n e => n + e.snd.seqSlots) b.seqSlots (present s1.bay.bays) ≤ 4096) ∧
    (baysOfTenancy s1 t).length < x.maxBays ∧ mramOpen s1 = true :=
  ⟨tenCmd, bay1, 0, ten0, bayOfBody bay1 0 2 1, ready, noteTaken tenCmd 32 ready,
    rfl, rfl, by unfold Accepts; decide +kernel⟩

theorem test_meets_BayCommandsComplete_2 : ∃ (cx : Cmd) (bay : Nat) (t : Nat) (y : Bay) (s : State),
    Owns cx bay t y (noteTaken cx 33 s) ∧ Accepts cx 33 s ∧ runningStep (noteTaken cx 33 s) bay = none :=
  ⟨tenCmd, 0, 0, bay0, withBays bay0,
    ⟨by decide +kernel, ⟨ten0, by decide +kernel, rfl⟩, by decide +kernel, rfl, by decide +kernel⟩,
    by unfold Accepts; decide +kernel⟩

theorem test_meets_BayCommandsComplete_3 : ∃ (cx : Cmd) (bay : Nat) (w : Nat) (t : Nat) (y : Bay) (l : Landing) (s : State),
    Owns cx bay t y (noteTaken cx 34 s) ∧ Accepts cx 34 s ∧ w ≤ 15 ∧ mget none y.landing w = some l :=
  ⟨tenCmd, 0, 15, 0, { bay0 with landing := [(15, some { benchOff := 0, extent := 64, nonce := 1 })] },
    { benchOff := 0, extent := 64, nonce := 1 }, withBays { bay0 with landing := [(15, some { benchOff := 0, extent := 64, nonce := 1 })] },
    ⟨by decide +kernel, ⟨ten0, by decide +kernel, rfl⟩, by decide +kernel, rfl, by decide +kernel⟩,
    by unfold Accepts; decide +kernel⟩

theorem test_meets_BayCommandsComplete_4 : ∃ (cx : Cmd) (bay : Nat) (w : Nat) (t : Nat) (y : Bay) (s : State),
    Owns cx bay t y (noteTaken cx 34 s) ∧ Accepts cx 34 s ∧ w ≤ 15 :=
  ⟨tenCmd, 0, 15, 0, bay0, withBays bay0,
    ⟨by decide +kernel, ⟨ten0, by decide +kernel, rfl⟩, by decide +kernel, rfl, by decide +kernel⟩,
    by unfold Accepts; decide +kernel⟩

theorem test_meets_BayCommandsComplete_5 : ∃ (cx : Cmd) (bay : Nat) (w : Nat) (t : Nat) (y : Bay) (s : State),
    Owns cx bay t y (noteTaken cx 34 s) ∧ Accepts cx 34 s ∧ w ≤ 15 ∧ armedSteps (noteTaken cx 34 s) bay = [] :=
  ⟨tenCmd, 0, 15, 0, bay0, withBays bay0,
    ⟨by decide +kernel, ⟨ten0, by decide +kernel, rfl⟩, by decide +kernel, rfl, by decide +kernel⟩,
    by unfold Accepts; decide +kernel⟩


/-! ### Worked examples of the spec -/

/-- Joist (2, 5, 17) has logical id 3,109 (the example under R8). -/
theorem test_logical_id : logicalId 2 5 17 = 3109 := by decide +kernel

/-- Column 5 of bent 1 with defects in physical rows 12 and 27: joist (1, 5, 30) lies at physical index 1,029 (R18). -/
def twoDefects : State :=
  { ready with kp := { ready.kp with hidden := [joistKey 1 (12 * 32 + 5), joistKey 1 (27 * 32 + 5)] } }
theorem test_column_with_two_defects : logicalJoist twoDefects 1 5 30 = some (joistKey 1 1029) ∧ logicalId 1 5 30 = 2245 := by
  decide +kernel
/-- The default and the ceiling scale of an E4M3 block whose largest magnitude is 500 (R68). -/
theorem test_default_scale :
    (encodeBlock .e4m3 .rne {} 0 id [{ m := 500, e := 0 }]) = (127, [{ code := 0x7E, sat := true }]) := by decide +kernel
theorem test_ceiling_scale :
    (encodeBlock .e4m3 .rne { scaleCeil := true } 0 id [{ m := 500, e := 0 }]) = (128, [{ code := 0x78, sat := false }]) := by
  decide +kernel

/-- Contributions at datum −74: 2.5 units round to 2, and 0.366 units to 0, counted as discarded (the example under R83). -/
theorem test_contribution_rounds :
    ((openGroup (-74)).contribute 0 false (.num { m := 40960, e := -88 })).acc.head? = some 2 := by decide +kernel
theorem test_contribution_is_discarded :
    ((openGroup (-74)).contribute 0 false (.num { m := 6000, e := -88 })).discard = 1 := by decide +kernel
/-- Slice address 0x24_2B45 is lamination 2, bank 3, row 133, codeword 40, byte 5 (R146), and its partner in row 200 is
0x26_4545 (R191). -/
theorem test_slice_address : decodeSA 0x242B45 = { lam := 2, bank := 3, row := 133, cw := 40, byte := 5 } := by decide +kernel
theorem test_partner_address : encodeSA { lam := 2, bank := 3, row := 200, cw := 40, byte := 5 } = 0x264545 := by decide +kernel
/-- Pages 40 and 5 are of class 0 (R242). -/
theorem test_page_class : pageClass 40 = 0 ∧ pageClass 5 = 0 := by decide +kernel
/-- A 4,096-byte payload costs 17 cells (R342). -/
theorem test_cell_cost : cellCost 4096 = 17 := by decide +kernel

/-- RTH_EST 2,261, an inlet of 40 °C: PCAP is 1,797 W (R507); with 6.40 J ahead and a base of 380 W level 2 is the first that fits,
and PEG_EFF is then 7 (R510). -/
def warm : State :=
  { ready with thm := { rth := 2261, hint := some { inlet := 640, flow := 0, until_ := 0 }, pcap := 1797, idleAvg := [(10000, 380)] } }
theorem test_power_cap : capFormula warm = 1797 := by decide +kernel
theorem test_forecast_level :
    levelFits warm 6400000 0 = false ∧ levelFits warm 6400000 1 = false ∧ levelFits warm 6400000 2 = true := by decide +kernel
theorem test_peg_eff : pegEffOf 8 2 = 7 := by decide +kernel

/-- JOIST_STATE of physical joist 700 of bent 2, with one defect below it, reads row 20 and column 28 (R561, R550). -/
def oneDefect : State := { ready with kp := { ready.kp with hidden := [joistKey 2 28], fuses := { defects := [joistKey 2 28] } } }
theorem test_joist_state :
    (blockOf oneDefect 0x442BC000).map (fun e => blockReg oneDefect e.1 e.2) = some 0x00141C00 := by decide +kernel

/-- −0 and +0 compare equal, and between equal values the lower position is better (R132). -/
theorem test_cull_order : cullBetter false (0x80000000, 3) (0, 4) = true ∧ cullBetter false (0x80000000, 4) (0, 3) = false := by
  decide +kernel
/-- The record of position 1,000 in page 137 lies at slice address 0x22_5A40, in row 75 (R271, R293). -/
theorem test_record_place : 137 * 16384 + 5376 + 2 * 672 = 0x225A40 ∧ (decodeSA 0x225A40).row = 75 ∧
    (decodeSA 0x225A40).bankIx = 9 ∧ (decodeSA 0x225C00).bankIx = 10 := by decide +kernel

/-! ### Single steps -/

/-- The block idles: the queue stays empty and the clock runs on. -/
theorem test_idle : (match step ready with | .next t => t.clk.t | _ => 0) = ready.clk.t + 136 := by decide +kernel
/-- PWROK begins a cold start (R441, R529). -/
theorem test_power_on : (match exec .pwrokRise State.reset with | .next t => t.kp.raising | _ => false) = true := by decide +kernel
/-- A tenancy session may not read the device's logs: E_AUTH (R371). -/
def statusOf (o : Host.Outcome State Fault Refusal) : Option Status :=
  match o with
  | .next t => t.out.findSome? (fun x => match x with | .completion c => some c.status | _ => none)
  | _ => none
theorem test_tenant_may_not_reset_device : statusOf (exec (.resetDevice tenCmd true) ready) = some .auth := by decide +kernel

/-- A bay outside its ranges: E_BAD_DESC (R237). -/
theorem test_bay_outside : statusOf (exec (.bayDefine tenCmd { bay1 with r0 := 40 }) ready) = some .badDesc := by decide +kernel
/-- A port that the variant lacks stops the machine. -/
theorem test_absent_port : exec (.portLinkUp 12) ready = .fault .absentPart := rfl
/-- 125 °C at a sill site trips its bent (R497, R498). -/
theorem test_bent_trip :
    (match exec (.sensorSample [{ site := 0, a := 2000, b := 2000 }]) ready with | .next t => (t.bent 0).tripped | _ => false) = true := by
  decide +kernel

/-- A contribution beyond the bound saturates and sets OVF (R48, R49). -/
theorem test_saturates :
    ((openGroup 0).contribute 0 false (.num { m := 1, e := 95 })).acc.head? = some (2 ^ 95 - 1) ∧
    ((openGroup 0).contribute 0 false (.num { m := 1, e := 95 })).ovf = true := by decide +kernel
/-- Written bytes read back, and a zero is not listed. -/
theorem test_memory : readMem (writeMem true 32 64 [1, 0, 3] false {}) true 32 64 3 = [1, 0, 3] ∧
    (writeMem true 32 64 [1, 0, 3] false {}).slice.length = 2 := by decide +kernel

/-! ### Ill-formed commands -/

theorem test_session_too_wide : (Instr.configCommit { session := 65536, seq := 1 }).wellFormed = false := by decide +kernel
theorem test_seq_too_wide : (Instr.configCommit { session := 1, seq := 2 ^ 32 }).wellFormed = false := by decide +kernel
theorem test_tag_too_wide : (Instr.configCommit { session := 1, seq := 1, tag := 2 ^ 64 }).wellFormed = false := by decide +kernel
theorem test_command_port : (Instr.configCommit { session := 1, seq := 1, port := 12 }).wellFormed = false := by decide +kernel
theorem test_deadline_too_wide : (Instr.configCommit { session := 1, seq := 1, deadline := 2 ^ 32 }).wellFormed = false := by decide +kernel
theorem test_session_operand : (Instr.sessionClose opCmd 65536).wellFormed = false := by decide +kernel
theorem test_tenancy_operand : (Instr.tenancyDestroy opCmd 256).wellFormed = false := by decide +kernel
theorem test_tenancy_fields :
    (Instr.tenancyCreate opCmd 0 256 1 1 0 0).wellFormed = false ∧ (Instr.tenancyCreate opCmd 0 0 256 1 0 0).wellFormed = false ∧
    (Instr.tenancyCreate opCmd 0 0 1 256 0 0).wellFormed = false ∧ (Instr.tenancyCreate opCmd 0 0 1 1 256 0).wellFormed = false := by
  decide +kernel
theorem test_bay_operand : (Instr.bayRelease opCmd 256).wellFormed = false := by decide +kernel
theorem test_window_operand : (Instr.bayArm opCmd 0 1 256).wellFormed = false := by decide +kernel
theorem test_access_and_address :
    (Instr.weightsBind opCmd 0 0 256 0 64).wellFormed = false ∧ (Instr.weightsBind opCmd 0 0 1 (2 ^ 32) 64).wellFormed = false := by
  decide +kernel
theorem test_prio_operand : (Instr.stepRun opCmd 0 256 false 0 0 []).wellFormed = false := by decide +kernel
theorem test_sequence_operands :
    (Instr.seqClose opCmd 65536).wellFormed = false ∧ (Instr.seqFork opCmd 65536 0).wellFormed = false ∧
    (Instr.seqReserve opCmd 0 256).wellFormed = false := by decide +kernel
theorem test_fence_mode_operand : (Instr.jobBind opCmd 256 0 0 2 ⟨1, []⟩).wellFormed = false := by decide +kernel
theorem test_peer_operand : (Instr.tallyReturnTimer 0 1024).wellFormed = false := by decide +kernel
theorem test_timeout_operand : (Instr.powerRetain opCmd (2 ^ 32)).wellFormed = false := by decide +kernel
theorem test_which_operand : (Instr.configRead opCmd 256 buf).wellFormed = false := by decide +kernel
theorem test_log_operand : (Instr.logRead opCmd 256 0 0 buf).wellFormed = false := by decide +kernel
theorem test_bent_operand : (Instr.marginRun opCmd 4).wellFormed = false := by decide +kernel
theorem test_setting_fields :
    (Instr.scrubRateWrite opCmd 0 4096).wellFormed = false ∧ (Instr.pegMaxWrite opCmd 0 256).wellFormed = false := by decide +kernel
theorem test_port_operand : (Instr.portLinkUp 12).wellFormed = false := by decide +kernel
theorem test_engine_operand : (Instr.enginePllLoss 6).wellFormed = false := by decide +kernel
theorem test_joist_operand : (Instr.joistReload 5376 0).wellFormed = false := by decide +kernel
theorem test_bank_and_row :
    (Instr.refreshDue 0 24).wellFormed = false ∧ (Instr.remapCopy 0 0 { row := 512 }).wellFormed = false := by decide +kernel
theorem test_packet_operand : (Instr.ucodePacketRx 0 32 0 true).wellFormed = false := by decide +kernel
theorem test_link_operand : (Instr.linkFlitRx 256 {}).wellFormed = false := by decide +kernel
theorem test_queue_pair_operands :
    (Instr.ackRx (12 * 2 ^ 24) 0).wellFormed = false ∧ (Instr.ackRx 0 (2 ^ 24)).wellFormed = false := by decide +kernel
theorem test_pause_operands :
    (Instr.pfcXoffRx 0 8 0).wellFormed = false ∧ (Instr.pfcXoffRx 0 0 65536).wellFormed = false := by decide +kernel
theorem test_recovery_address : (Instr.rHello 0 (2 ^ 128)).wellFormed = false := by decide +kernel
theorem test_target_operand : (Instr.cowCopyDone 0 ⟨65536, []⟩).wellFormed = false := by decide +kernel
theorem test_well_formed : (Instr.configCommit opCmd).wellFormed = true := by decide +kernel

/-- The opcode table gives no row any bits, so no word spells a command. -/
theorem test_no_word_spells_a_command : decodeTableWord 32 0xFFFFFFFF = none ∧ ready.withFetchWord 32 0 = ready := ⟨by decide +kernel, rfl⟩


end Sys2Proof.Tests
end

section
/-! PROOFS. What a step can answer: commands of the catalogue run through the framer, an event that names a port, an engine or a
bent through the guard of that part, and every other event goes on. -/

namespace Sys2Proof.Machine

/-- A step answers a next state. -/
def Answers (o : Host.Outcome State Fault Refusal) : Prop := ∃ t, o = .next t

theorem Answers.next (t : State) : Answers (.next t) := ⟨t, rfl⟩

theorem Answers.ite {c : Prop} [Decidable c] {a b : Host.Outcome State Fault Refusal} (ha : Answers a) (hb : Answers b) :
    Answers (if c then a else b) := by split <;> assumption

/-! ### The shared operations that run a command or an event -/

theorem qci_answers (cx : Cmd) (op : Nat) (body : State → Ans) (s : State) : Answers (qci cx op body s) := by
  unfold qci
  repeat' split
  all_goals exact .next _

theorem stageEvent_answers (ref : StageRef) (work : Run → Option (State → State × Active)) (s : State) :
    Answers (stageEvent ref work s) := by
  unfold stageEvent
  repeat' split
  all_goals exact .next _

theorem atPhase_answers (n : Nat) (f : PReset → State → State) (id : Nat) (s : State) : Answers (atPhase n f id s) := by
  unfold atPhase
  split
  · exact .next _
  · exact .ite (.next _) (.next _)

theorem atStage_answers (n : Nat) (f : State → State) (s : State) : Answers (atStage n f s) := .ite (.next _) (.next _)

theorem onMgmt_answers (n : Nat) (act : MgmtFrame → Session → State → State) (s : State) : Answers (onMgmt n act s) := by
  unfold onMgmt
  dsimp only
  repeat' split
  all_goals exact .next _

/-! ### Commands that arrive in slots -/

theorem runBody_answers (op len : Nat) (b : List Byte) (cx : Cmd) (found : List Finding) (named : List Named) (s : State) :
    Answers (runBody op len b cx found named s) := by
  unfold runBody
  repeat' split
  all_goals exact qci_answers _ _ _ _

theorem startSlot_answers (i : Nat) (x : Session) (c : SlotCopy) (more : Option SlotCopy) (s : State) :
    Answers (startSlot i x c more s) := by
  unfold startSlot
  split
  · exact .next _
  · exact runBody_answers ..

theorem takeSlot_answers (i : Nat) (x : Session) (c : SlotCopy) (s : State) : Answers (takeSlot i x c s) := by
  unfold takeSlot
  dsimp only
  split
  · exact startSlot_answers ..
  · exact .ite (.next _) (startSlot_answers ..)

theorem lookSlot_answers (c : SlotCopy) (s : State) : Answers (lookSlot c s) := by
  unfold lookSlot
  split
  · exact .next _
  · split
    · exact .next _
    · exact .ite (takeSlot_answers ..) (.ite (.next _) (.next _))

theorem execSlotCommitWrite_answers (w : SlotWrite) (s : State) : Answers (execSlotCommitWrite w s) := by
  unfold execSlotCommitWrite
  dsimp only
  split
  · exact .next _
  · exact .ite (.next _) (lookSlot_answers ..)

/-! ### What a command or an event runs through -/

/-- Every command of the catalogue runs through the framer. -/
theorem exec_command {i : Instr} {cx : Cmd} (h : commandOf i = some cx) :
    ∃ op body, ∀ s, exec i s = qci cx op body s := by
  revert h
  fun_cases commandOf i
  case case49 => nofun
  case case45 | case46 | case47 =>
    rintro ⟨⟩
    exact ⟨0x00B3, _, fun _ => by
      dsimp only [exec, execSensorDisagreeClear, execInletDisagreeClear, execPllLossClear, regCmd]⟩
  all_goals
    rintro ⟨⟩
    exact ⟨_, _, fun _ => by dsimp only [exec]; rfl⟩

/-- The port that an event names. -/
def portOf : Instr → Option Nat
  | .arpRequestRx p .. | .arpReplyRx p .. | .icmpEchoRx p .. | .lldpRx p .. | .portLinkUp p | .portLinkDown p ..
  | .portTrainRetry p .. | .fecRateCheck p .. | .reflectionOpen p | .reflectionProbe p .. | .pfcXoffRx p ..
  | .pfcPauseExpiry p .. | .frameDiscard p .. | .statusWindowRead p .. | .recoveryDatagramRefused p .. | .rHello p ..
  | .rBegin p .. | .rData p .. | .rEnd p .. | .portLightLoss p | .lightWake p | .frameWake p => some p
  | .rocePacketRx p => some p.port
  | .mgmtFrameRx f => some f.port
  | .wakeFrameRx f => some f.port
  | _ => none

/-- The engine that an event names. -/
def engineOf : Instr → Option Nat
  | .laserModuleFault e .. | .laserRetry e .. | .enginePllLoss e | .enginePllRelock e .. | .engineTripClear e .. => some e
  | _ => none

/-- The bent that an event names. -/
def bentOf : Instr → Option Nat
  | .ce2CandidateExpiry b | .bentTripClear b | .capSample b .. | .sillPllLoss b | .sillPllRelock b .. | .marginRunDone b ..
  | .retainExitBent b => some b
  | _ => none

theorem execFrameDiscard_onPort (p n : Nat) (body : EthBody) (fcsOk : Bool) :
    ∃ f, ∀ s, execFrameDiscard p n body fcsOk s = onPort p f s := by
  by_cases h : badFrame n body fcsOk = true
  · exact ⟨_, fun _ => if_pos h⟩
  · exact ⟨id, fun _ => if_neg h⟩

/-- An event that names a port acts at that port. -/
theorem exec_onPort {i : Instr} {p : Nat} (h : portOf i = some p) : ∃ f, ∀ s, exec i s = onPort p f s := by
  revert h
  fun_cases portOf i
  case case26 => nofun
  case case13 n body fcsOk =>
    rintro ⟨⟩
    exact execFrameDiscard_onPort _ n body fcsOk
  all_goals
    rintro ⟨⟩
    exact ⟨_, fun _ => by dsimp only [exec]; rfl⟩

/-- An event that names an engine acts at that engine. -/
theorem exec_onEngine {i : Instr} {e : Nat} (h : engineOf i = some e) : ∃ f, ∀ s, exec i s = onEngine e f s := by
  revert h
  fun_cases engineOf i
  case case6 => nofun
  all_goals
    rintro ⟨⟩
    exact ⟨_, fun _ => by dsimp only [exec]; rfl⟩

/-- An event that names a bent acts at that bent. -/
theorem exec_onBent {i : Instr} {b : Nat} (h : bentOf i = some b) : ∃ f, ∀ s, exec i s = onBent b f s := by
  revert h
  fun_cases bentOf i
  case case8 => nofun
  all_goals
    rintro ⟨⟩
    exact ⟨_, fun _ => by dsimp only [exec]; rfl⟩

/-- An event that names no port, engine or bent answers a next state. -/
theorem exec_event_answers {i : Instr} (hc : commandOf i = none) (hp : portOf i = none) (he : engineOf i = none)
    (hb : bentOf i = none) (s : State) : Answers (exec i s) := by
  cases i with
  | slotCommitWrite w => exact execSlotCommitWrite_answers w s
  | gemm r | gemvStream r | conv r | attend r | attendBwd r | norm r | eltwise r | convert r | pegSeq r | reduce r | cull r
  | stats r | exchange r | await r => dsimp only [exec]; exact stageEvent_answers ..
  | partitionFence r | partitionDrain r | partitionStop r | partitionQuiesce r | partitionClear r | partitionReclaim r
  | partitionSlices r | partitionRaise r | partitionReload r missed | partitionDone r =>
    dsimp only [exec]; exact atPhase_answers ..
  | bringupKeeper fw | bringupHub linkOk framerOk selfTest | bringupLinks failed failedLanes
  | bringupEngines calFailed openPorts noModule | bringupTopology absent | bringupRaising | bringupSlices
  | bringupTests selfTestFailed sliceFailed absentLams margin | bringupZero | bringupBroadcast missed | repairRoundEnd missed
  | bringupReady => dsimp only [exec]; exact atStage_answers ..
  | mgmtStatus | mgmtResetPartition | mgmtResetDevice => dsimp only [exec]; exact onMgmt_answers ..
  -- events that act at any time
  | sramCe1Writeback joist unit word | hintExpiry | randomHealthRecovered | bayGate bay | bayUngated bay
  | sensorSample readings | vddKeepRemoved | ackRx qpn psn | powerMeasure watts avg10ms => exact .next _
  -- events that act where a condition holds
  | retainStop | retainSelfRefresh | retainRetention | retainExitHub | refreshDue joist bank | refreshIssue joist bank
  | scrubVisit joist bank found | remapMramRetry | hubStageRetry | ucodePacketRx joist packet imageId crcOk
  | joistReload joist missing | keeperLinkMessage authOk | hubTripClear | refclkLoss hubPll | refclkValid | pwrokRise
  | pwrokFall | rstNAssert | stepAdmit bay | statusWindowSnapshot | lldpSend | laserPoll modules faults | lcapLower avg10ms
  | pcapUpdate | heartbeatTick | framerStall | randomHealthFail | mramQueueFlush | nakRx qpn psn kind
  | rthUpdate avg10ms thermistor => exact .ite (.next _) (.next _)
  -- events that act where what they name stands
  | tenancyZeroise tenancy | configApplyDrained | configApplyTimeout | retainDrainDone | retainDrainTimeout | retainClose
  | remapCopy joist bank read | partitionResetOvertime r | braceImageArrival bay a | deviceLevelTimeout bay ix
  | jobBindLldpTimeout tenancy | ph1Rx tenancy peer serial grant epoch eph nonce | ph2Rx tenancy peer msg | ph2Timeout tenancy
  | awaitTimeout bay ix | cowCopyDone bay target | admissionTimeout step | stepBoundary bay | rdmaWriteRx id found
  | rdmaReadRx id found | packetDelivered id | armedTrigger bay window imm | landingArrival id | ackCoalesceTimer qpn
  | tallyReturnTimer tenancy peer | tallyReturnRx id | ackTimeout qpn | cnpRateStep qpn | recoverySilence | scatterKv r
  | stageEnd bay ix | deadlineExpiry session seq | pegSegmentEnd joist bank found | linkFlitRx link rx | cnpRx qpn =>
    dsimp only [exec, execTenancyZeroise, execConfigApplyDrained, execConfigApplyTimeout, execRetainDrainDone,
      execRetainDrainTimeout, execRetainClose, execRemapCopy, execPartitionResetOvertime, execBraceImageArrival,
      execDeviceLevelTimeout, execJobBindLldpTimeout, execPh1Rx, execPh2Rx, execPh2Timeout, execAwaitTimeout, execCowCopyDone,
      execAdmissionTimeout, execStepBoundary, execRdmaWriteRx, execRdmaReadRx, execPacketDelivered, execArmedTrigger,
      execLandingArrival, execAckCoalesceTimer, execTallyReturnTimer, execTallyReturnRx, execAckTimeout, execCnpRateStep,
      execRecoverySilence, execScatterKv, execStageEnd, execDeadlineExpiry, execPegSegmentEnd, execLinkFlitRx, execCnpRx]
    repeat' split
    all_goals exact .next _
  | _ => simp [commandOf, portOf, engineOf, bentOf] at hc hp he hb

/-! ### Absent parts -/

theorem onPort_absent {s : State} {p : Nat} (h : portPresent s p = false) (f : State → State) :
    onPort p f s = .fault .absentPart := by simp [onPort, h]

theorem onEngine_absent {s : State} {e : Nat} (h : enginePresent s e = false) (f : State → State) :
    onEngine e f s = .fault .absentPart := by simp [onEngine, h]

theorem onBent_absent {b : Nat} (h : 4 ≤ b) (f : State → State) (s : State) :
    onBent b f s = .fault .absentPart := by simp [onBent, h]

theorem onPort_outcome (p : Nat) (f : State → State) (s : State) :
    Answers (onPort p f s) ∨ onPort p f s = .fault .absentPart := by
  by_cases h : portPresent s p = true
  · exact .inl ⟨f s, if_pos h⟩
  · exact .inr (if_neg h)

theorem onEngine_outcome (e : Nat) (f : State → State) (s : State) :
    Answers (onEngine e f s) ∨ onEngine e f s = .fault .absentPart := by
  by_cases h : enginePresent s e = true
  · exact .inl ⟨f s, if_pos h⟩
  · exact .inr (if_neg h)

theorem onBent_outcome (b : Nat) (f : State → State) (s : State) :
    Answers (onBent b f s) ∨ onBent b f s = .fault .absentPart := by
  by_cases h : b < 4
  · exact .inl ⟨f s, if_pos h⟩
  · exact .inr (if_neg h)

theorem exec_absentPort {i : Instr} {p : Nat} {s : State} (hi : portOf i = some p) (h : portPresent s p = false) :
    exec i s = .fault .absentPart := by
  obtain ⟨f, hf⟩ := exec_onPort hi
  exact (hf s).trans (onPort_absent h f)

theorem exec_absentEngine {i : Instr} {e : Nat} {s : State} (hi : engineOf i = some e) (h : enginePresent s e = false) :
    exec i s = .fault .absentPart := by
  obtain ⟨f, hf⟩ := exec_onEngine hi
  exact (hf s).trans (onEngine_absent h f)

theorem exec_absentBent {i : Instr} {b : Nat} (hi : bentOf i = some b) (h : 4 ≤ b) (s : State) :
    exec i s = .fault .absentPart := by
  obtain ⟨f, hf⟩ := exec_onBent hi
  exact (hf s).trans (onBent_absent h f s)

theorem exec_command_answers {i : Instr} {cx : Cmd} (h : commandOf i = some cx) (s : State) : Answers (exec i s) := by
  obtain ⟨op, body, he⟩ := exec_command h
  rw [he s]
  exact qci_answers ..

/-- Nothing is refused, and the one fault is that of an absent part. -/
theorem exec_outcome (i : Instr) (s : State) : Answers (exec i s) ∨ exec i s = .fault .absentPart := by
  cases hc : commandOf i with
  | some cx => exact .inl (exec_command_answers hc s)
  | none =>
    cases hp : portOf i with
    | some p =>
      obtain ⟨f, hf⟩ := exec_onPort hp
      exact hf s ▸ onPort_outcome p f s
    | none =>
      cases he : engineOf i with
      | some e =>
        obtain ⟨f, hf⟩ := exec_onEngine he
        exact hf s ▸ onEngine_outcome e f s
      | none =>
        cases hb : bentOf i with
        | some b =>
          obtain ⟨f, hf⟩ := exec_onBent hb
          exact hf s ▸ onBent_outcome b f s
        | none => exact .inl (exec_event_answers hc hp he hb s)

/-- Settles O60: each event listed names its part, an event that names a part goes through the guard of that part, and whatever names
none goes on. -/
theorem absentPartsStop : Obligations.AbsentPartsStop := by
  unfold Obligations.AbsentPartsStop
  refine ⟨fun i p a b c f g l ch dg sg body s h hi => ?ports, fun pk s h => exec_absentPort rfl h,
    fun f s h => exec_absentPort rfl h, fun f s h => exec_absentPort rfl h, fun i e n g s h hi => ?engines,
    fun i b n l s h hi => ?bents, fun i cx s h => exec_command_answers h s, exec_outcome⟩
  case ports =>
    have hp : portOf i = some p := by revert i; simp [portOf]
    exact exec_absentPort hp h
  case engines =>
    have he : engineOf i = some e := by revert i; simp [engineOf]
    exact exec_absentEngine he h
  case bents =>
    have hb : bentOf i = some b := by revert i; simp [bentOf]
    exact exec_absentBent hb h s

end Sys2Proof.Machine
end

section
/-! PROOFS. HELLO and ATTEST: their bodies in the state in which the framer has taken them (R373, R416). -/

namespace Sys2Proof.Machine

/-! ### Sessions -/

theorem session_putSession (s : State) (i j : Nat) (v : Option Session) :
    (s.putSession i v).session j = if j = i then v else s.session j := mget_mset ..

theorem sessionRec_of_ne {i : Nat} (h : i ≠ preSession) (s : State) : sessionRec s i = s.session i := by
  cases hs : s.session i <;> simp [sessionRec, hs, h]

/-- Taking a command leaves the ring of every session but the pre-session one. -/
theorem noteTaken_ring {cx : Cmd} (h : cx.session ≠ preSession) (op : Nat) (s : State) (i : Nat) :
    ((noteTaken cx op s).session i).map (fun x => x.ring) = (s.session i).map (fun x => x.ring) := by
  rw [noteTaken_session]
  split
  case isFalse => rfl
  case isTrue hi =>
    subst hi
    rw [sessionRec_of_ne h]
    cases s.session cx.session <;> rfl

/-! ### HELLO -/

theorem devId_eq {s t : State} (h : t.kp = s.kp) : devId t = devId s := by simp [devId, keeperReg, h]

theorem helloFlags_eq {s t : State} (hk : t.kp = s.kp) (ht : t.ten = s.ten) : helloFlags t = helloFlags s := by
  simp [helloFlags, openMode, hk, ht]

/-- HELLO's result reads nothing of the command interface. -/
theorem helloResult_eq {s t : State} (cx : Cmd) (h : OnlyChanges [.qci] s t) :
    [devId t, t.kp.running.version, helloFlags t, cx.port] = [devId s, s.kp.running.version, helloFlags s, cx.port] := by
  have hk : t.kp = s.kp := h .kp (by decide)
  have ht : t.ten = s.ten := h .ten (by decide)
  rw [devId_eq hk, helloFlags_eq hk ht, hk]

/-- The state in which a HELLO has been taken. -/
def helloTaken (cx : Cmd) (s : State) : State := restartSeries cx (noteTaken cx 0x0001 s)

theorem helloTaken_frame (cx : Cmd) (s : State) : OnlyChanges [.qci] s (helloTaken cx s) :=
  (noteTaken_frame cx 0x0001 s).trans restartSeries_frame

/-- In a session a HELLO leaves every ring as it was. -/
theorem helloTaken_ring {cx : Cmd} (h : cx.session ≠ preSession) (s : State) (i : Nat) :
    ((helloTaken cx s).session i).map (fun x => x.ring) = (s.session i).map (fun x => x.ring) := by
  have hr : helloTaken cx s = noteTaken cx 0x0001 s := if_neg (fun hc => h hc.1)
  rw [hr, noteTaken_ring h]

/-- A HELLO registers the ring of the pre-session slot. -/
def ringRegistered (va key n : Nat) (s : State) : State :=
  s.putSession preSession (some { (sessionRec s preSession).getD emptyPre with ring := { va := va, key := key, entries := n } })

theorem ringRegistered_ring (va key n : Nat) (s : State) :
    ((ringRegistered va key n s).session preSession).map (fun x => x.ring) = some { va := va, key := key, entries := n } := by
  simp [ringRegistered, session_putSession]

/-- What HELLO does once it has been taken. -/
def helloBody (cx : Cmd) (va key n : Nat) (s : State) : Ans :=
  let s := restartSeries cx s
  let result := [devId s, s.kp.running.version, helloFlags s, cx.port]
  if cx.session = preSession then
    if ringOk n then .ok (ringRegistered va key n s) result else .fail s .badDesc
  else .ok s result

theorem exec_hello (cx : Cmd) (va key n : Nat) (s : State) :
    exec (.hello cx va key n) s = qci cx 0x0001 (helloBody cx va key n) s := by
  dsimp only [exec]
  rfl

theorem helloBody_pre {cx : Cmd} {n : Nat} (hs : cx.session = preSession) (hn : ringOk n = true) (va key : Nat) (s : State) :
    helloBody cx va key n (noteTaken cx 0x0001 s) =
      .ok (ringRegistered va key n (helloTaken cx s)) [devId s, s.kp.running.version, helloFlags s, cx.port] := by
  rw [← helloResult_eq cx (helloTaken_frame cx s)]
  exact (if_pos hs).trans (if_pos hn)

theorem helloBody_session {cx : Cmd} (hs : cx.session ≠ preSession) (va key n : Nat) (s : State) :
    helloBody cx va key n (noteTaken cx 0x0001 s) =
      .ok (helloTaken cx s) [devId s, s.kp.running.version, helloFlags s, cx.port] := by
  rw [← helloResult_eq cx (helloTaken_frame cx s)]
  exact if_neg hs

theorem hello_pre_completes {cx : Cmd} {n : Nat} {s : State} (h : Accepts cx 0x0001 s) (hs : cx.session = preSession)
    (hn : ringOk n = true) (va key : Nat) :
    Completes (.hello cx va key n) cx 0x0001 [devId s, s.kp.running.version, helloFlags s, cx.port] s (fun u =>
      (u.session preSession).map (fun x => x.ring) = some { va := va, key := key, entries := n } ∧ OnlyChanges [.qci] s u) :=
  completes_of (exec_hello cx va key n s) h (helloBody_pre hs hn va key s)
    ⟨ringRegistered_ring va key n _, (helloTaken_frame cx s).trans putSession_frame⟩

theorem hello_session_completes {cx : Cmd} {s : State} (h : Accepts cx 0x0001 s) (hs : cx.session ≠ preSession)
    (va key n : Nat) :
    Completes (.hello cx va key n) cx 0x0001 [devId s, s.kp.running.version, helloFlags s, cx.port] s (fun u =>
      (∀ i, (u.session i).map (fun x => x.ring) = (s.session i).map (fun x => x.ring)) ∧ OnlyChanges [.qci] s u) :=
  completes_of (exec_hello cx va key n s) h (helloBody_session hs va key n s)
    ⟨helloTaken_ring hs s, helloTaken_frame cx s⟩

/-! ### ATTEST -/

/-- A reply for which its buffer has room, with the 24 bytes that a seal takes, goes out whole (R370). -/
theorem writeReply_fits {cx : Cmd} {buf : Reply} {size : Nat} {s : State} {x : Session} {p : Nat}
    (hx : sessionRec s cx.session = some x) (hp : recordPort s cx.session x cx.port = some p) (hl : size + 24 ≤ buf.len)
    (data : ReplyData) : ∃ t, OnlyChanges [.qci, .net, .out] s t ∧
      writeReply cx buf size data s = (t.send (.reply cx.session buf data false), false) := by
  have hroom : ∀ sealing : Bool, ¬(if sealing = true then buf.len - 24 else buf.len) < size := by
    intro sealing
    split <;> omega
  simp only [writeReply, hx, hp, hroom, decide_false]
  exact ⟨_, .cond (sendObject_frame.then setSession_frame) (sendObject_frame.mono (by decide)), rfl⟩

/-- A command whose reply fits its buffer completes with OK and its result. -/
theorem replied_fits {cx : Cmd} {buf : Reply} {size : Nat} {s : State} {x : Session} {p : Nat}
    (hx : sessionRec s cx.session = some x) (hp : recordPort s cx.session x cx.port = some p) (hl : size + 24 ≤ buf.len)
    (data : ReplyData) (result : List Nat) : ∃ u, OnlyChanges [.qci, .net, .out] s u ∧
      Out.reply cx.session buf data false ∈ u.out ∧ replied cx buf size data result s = .ok u result := by
  obtain ⟨t, ht, he⟩ := writeReply_fits hx hp hl data
  exact ⟨t.send (.reply cx.session buf data false), ht.trans (send_frame.mono (by decide)), by simp [State.send],
    by simp [replied, he]⟩

theorem length_chainBytes_le (s : State) : (chainBytes s).length ≤ 4 + 4096 := by
  have h : (chainCerts s).length ≤ 4096 := List.length_take_le ..
  simpa [chainBytes, leBytes] using Nat.add_le_add_left h 4

/-- What ATTEST does once it has been taken. -/
def attestBody (cx : Cmd) (nonce : BitVec 256) (chain : Bool) (reply : Reply) (s : State) : Ans :=
  let c := if chain then chainBytes s else []
  replied cx reply (384 + c.length) (.report (reportFor s ((tenantOf s cx).getD 0xFF) cx.session nonce) c) [] s

theorem exec_attest (cx : Cmd) (nonce : BitVec 256) (chain : Bool) (reply : Reply) (s : State) :
    exec (.attest cx nonce chain reply) s = qci cx 0x0002 (attestBody cx nonce chain reply) s := by
  dsimp only [exec]
  rfl

theorem attestBody_fits {cx : Cmd} {reply : Reply} {s : State} {x : Session} {p : Nat} (hx : sessionRec s cx.session = some x)
    (hp : recordPort s cx.session x cx.port = some p) (hl : 388 + 4096 + 24 ≤ reply.len) (nonce : BitVec 256) (chain : Bool) :
    ∃ u, OnlyChanges [.qci, .net, .out] s u ∧
      Out.reply cx.session reply (.report (reportFor s ((tenantOf s cx).getD 0xFF) cx.session nonce)
        (if chain then chainBytes s else [])) false ∈ u.out ∧ attestBody cx nonce chain reply s = .ok u [] := by
  have hc : (if chain then chainBytes s else []).length ≤ 4 + 4096 := by
    split
    · exact length_chainBytes_le s
    · simp
  exact replied_fits hx hp (by omega) _ []

/-- Settles O1: the body of each command in the state in which it has been taken, where HELLO's result reads nothing that taking it
changes, and the longest report with its chain fits the buffer asked for. -/
theorem sessionCommandsComplete : Obligations.SessionCommandsComplete := by
  unfold Obligations.SessionCommandsComplete
  refine ⟨fun cx va key n s h hs hn => hello_pre_completes h hs hn va key,
    fun cx va key n s h hs => hello_session_completes h hs va key n, ?_⟩
  rintro cx nonce chain reply s s1 x p rfl h hx hp hl
  obtain ⟨u, hu, hout, hbody⟩ := attestBody_fits hx hp hl nonce chain
  exact completes_of (exec_attest cx nonce chain reply s) h hbody ⟨hout, (noteTaken_frame cx 0x0002 s).then hu⟩

end Sys2Proof.Machine
end

section
/-! PROOFS. The die-to-die links while they carry traffic: replay, retirement and keeper-link messages (R24 to R27, R437). -/

namespace Sys2Proof.Machine

/-! ### One direction of a link (R24) -/

/-- Refilling the replay buffer keeps every flit in its place. -/
@[simp] theorem LinkEnd.flits_refill (e : LinkEnd) : e.refill.flits = e.flits := by
  simp [LinkEnd.flits, LinkEnd.refill]

@[simp] theorem LinkEnd.flits_offer (l : List Flit) (e : LinkEnd) : (e.offer l).flits = e.flits ++ l := by
  rw [LinkEnd.offer, LinkEnd.flits_refill]
  simp [LinkEnd.flits]

/-- A sender that has flits holds the oldest of them once its buffer is refilled. -/
theorem LinkEnd.held_refill {e : LinkEnd} {f : Flit} {rest : List Flit} (h : e.flits = f :: rest) :
    ∃ l, e.refill.held = f :: l := by
  obtain ⟨held, queue⟩ := e
  cases held with
  | nil =>
    obtain rfl : queue = f :: rest := h
    exact ⟨rest.take 47, rfl⟩
  | cons g held =>
    obtain ⟨rfl, -⟩ := List.cons.inj h
    exact ⟨_, rfl⟩

theorem LinkEnd.held_offer {e : LinkEnd} {l rest : List Flit} {f : Flit} (h : e.flits ++ l = f :: rest) :
    ∃ k, (e.offer l).held = f :: k :=
  held_refill (e := { e with queue := e.queue ++ l }) (by rw [← h]; simp [LinkEnd.flits])

/-- The acknowledged flit is the oldest one, and the others stay in order. -/
theorem LinkEnd.flits_acked {e : LinkEnd} {f : Flit} {l : List Flit} (h : e.held = f :: l) : e.flits = f :: e.acked.flits := by
  simp only [LinkEnd.acked, LinkEnd.flits_refill]
  simp [LinkEnd.flits, h]

@[simp] theorem Link.dir_onDir (back c : Bool) (g : LinkEnd → LinkEnd) (l : Link) :
    (l.onDir back g).dir c = if c = back then g (l.dir back) else l.dir c := by
  cases back <;> cases c <;> rfl

@[simp] theorem Link.onDir_state (back : Bool) (g : LinkEnd → LinkEnd) (l : Link) : (l.onDir back g).state = l.state := by
  cases back <;> rfl

@[simp] theorem Link.onDir_replays (back : Bool) (g : LinkEnd → LinkEnd) (l : Link) : (l.onDir back g).replays = l.replays := by
  cases back <;> rfl

/-! ### Reading a link after writing -/

theorem link_setLink (s : State) (n : Nat) (g : Link → Link) (o : Nat) :
    (s.setLink n g).link o = if o = n then g (s.link n) else s.link o := mget_mmod ..

@[simp] theorem link_setLink_same (s : State) (n : Nat) (g : Link → Link) : (s.setLink n g).link n = g (s.link n) := by
  simp [link_setLink]

theorem link_setLink_ne {o n : Nat} (h : o ≠ n) (s : State) (g : Link → Link) : (s.setLink n g).link o = s.link o := by
  simp [link_setLink, h]

@[simp] theorem link_send (x : Out) (s : State) (o : Nat) : (s.send x).link o = s.link o := rfl

theorem mem_out_send (x : Out) (s : State) : x ∈ (s.send x).out := by simp [State.send]

theorem mem_out_send_of_mem {x : Out} {s : State} (h : x ∈ s.out) (y : Out) : x ∈ (s.send y).out := by
  simp [State.send, h]

/-! ### A flit arrives -/

/-- The state in which the sender has been given a flit, if any. -/
def offered (n : Nat) (back : Bool) (x : Option Flit) (s : State) : State :=
  s.setLink n (Link.onDir back (LinkEnd.offer x.toList))

theorem offered_frame {n : Nat} {back : Bool} {x : Option Flit} {s : State} : OnlyChanges [.lnk] s (offered n back x s) :=
  setLink_frame

theorem offered_flits (n : Nat) (back : Bool) (x : Option Flit) (s : State) :
    (((offered n back x s).link n).dir back).flits = ((s.link n).dir back).flits ++ x.toList := by
  simp [offered]

theorem offered_dir_not (n : Nat) (back : Bool) (x : Option Flit) (s : State) :
    ((offered n back x s).link n).dir (!back) = (s.link n).dir (!back) := by
  simp [offered]

theorem offered_link_state (n : Nat) (back : Bool) (x : Option Flit) (s : State) :
    ((offered n back x s).link n).state = (s.link n).state := by
  simp [offered]

theorem offered_replays (n : Nat) (back : Bool) (x : Option Flit) (s : State) :
    ((offered n back x s).link n).replays = (s.link n).replays := by
  simp [offered]

theorem offered_link_ne {o n : Nat} (h : o ≠ n) (back : Bool) (x : Option Flit) (s : State) :
    (offered n back x s).link o = s.link o := link_setLink_ne h s _

theorem offered_held {n : Nat} {back : Bool} {x : Option Flit} {f : Flit} {rest : List Flit} {s : State}
    (h : ((s.link n).dir back).flits ++ x.toList = f :: rest) : ∃ l, (((offered n back x s).link n).dir back).held = f :: l := by
  simpa [offered] using LinkEnd.held_offer h

/-- On a link that carries flits, the oldest flit is judged in the state in which the new one has been given. -/
theorem exec_linkFlitRx {n : Nat} {back crcOk : Bool} {x : Option Flit} {f : Flit} {rest : List Flit} {s : State} (hn : n < 96)
    (hu : linkUp s n = true) (hc : linkClocked s n = true) (h : ((s.link n).dir back).flits ++ x.toList = f :: rest) :
    exec (.linkFlitRx n ⟨back, x, crcOk⟩) s =
      .next (if crcOk then flitGood n back f (offered n back x s) else flitBad n back (offered n back x s)) := by
  obtain ⟨l, hl⟩ := offered_held h
  dsimp only [offered] at hl ⊢
  simp only [exec, execLinkFlitRx, hn, hu, hc, and_self, if_true, hl]

/-! ### A good flit -/

theorem flitGood_flits {n : Nat} {back : Bool} {f : Flit} {l : List Flit} {s : State} (h : ((s.link n).dir back).held = f :: l) :
    ((s.link n).dir back).flits = f :: (((flitGood n back f s).link n).dir back).flits := by
  simpa [flitGood] using LinkEnd.flits_acked h

/-- A flit that passes its check is delivered and acknowledged, and nothing else moves. -/
theorem linkFlitRx_good {n : Nat} {back : Bool} {x : Option Flit} {f : Flit} {rest : List Flit} {s : State} (hn : n < 96)
    (hu : linkUp s n = true) (hc : linkClocked s n = true) (h : ((s.link n).dir back).flits ++ x.toList = f :: rest) :
    Runs (.linkFlitRx n ⟨back, x, true⟩) s (fun t => Out.flit n back f ∈ t.out ∧ Out.flitAck n back ∈ t.out ∧
      ((t.link n).dir back).flits = rest ∧ (t.link n).dir (!back) = (s.link n).dir (!back) ∧
      (t.link n).state = (s.link n).state ∧ (∀ o, o ≠ n → t.link o = s.link o) ∧ OnlyChanges [.lnk, .out] s t) := by
  refine ⟨_, exec_linkFlitRx hn hu hc h, mem_out_send_of_mem (mem_out_send _ _) _, mem_out_send _ _, ?flits, ?other, ?state,
    fun o ho => ?links, offered_frame.then flitGood_frame⟩
  case flits =>
    obtain ⟨l, hl⟩ := offered_held h
    exact (List.cons.inj ((flitGood_flits hl).symm.trans ((offered_flits n back x s).trans h))).2
  case other => simpa [flitGood] using offered_dir_not n back x s
  case state => simpa [flitGood] using offered_link_state n back x s
  case links => simpa [flitGood, link_setLink_ne ho] using offered_link_ne ho back x s

/-! ### A replay -/

/-- The times of a link's replays in the window that ends now, with the one that happens now. -/
def recentReplays (n : Nat) (s : State) : List Nat :=
  ((s.link n).replays.filter (fun a => decide (keeperNow s < a + replayWindow s))) ++ [keeperNow s]

/-- The state in which a replay has been counted and the sender has sent again all that it holds. -/
def sentAgain (n : Nat) (back : Bool) (s : State) : State :=
  (s.setLink n (fun l => { l with replays := recentReplays n s })).send (.flitReplay n back ((s.link n).dir back).held.length)

theorem sentAgain_frame {n : Nat} {back : Bool} {s : State} : OnlyChanges [.lnk, .out] s (sentAgain n back s) :=
  setLink_frame.then send_frame

@[simp] theorem sentAgain_link_same (n : Nat) (back : Bool) (s : State) :
    (sentAgain n back s).link n = { s.link n with replays := recentReplays n s } := by
  simp [sentAgain]

theorem sentAgain_link_ne {o n : Nat} (h : o ≠ n) (back : Bool) (s : State) : (sentAgain n back s).link o = s.link o := by
  rw [sentAgain, link_send, link_setLink_ne h]

/-- A replay leaves both directions as they are. -/
theorem sentAgain_dir (n : Nat) (back c : Bool) (s : State) : ((sentAgain n back s).link n).dir c = (s.link n).dir c := by
  rw [sentAgain_link_same]
  cases c <;> rfl

/-- The state in which a flit, if any, has been given and a replay has followed. -/
def afterReplay (n : Nat) (back : Bool) (x : Option Flit) (s : State) : State := sentAgain n back (offered n back x s)

theorem afterReplay_frame {n : Nat} {back : Bool} {x : Option Flit} {s : State} :
    OnlyChanges [.lnk, .out] s (afterReplay n back x s) := offered_frame.then sentAgain_frame

theorem afterReplay_flits (n : Nat) (back : Bool) (x : Option Flit) (s : State) :
    (((afterReplay n back x s).link n).dir back).flits = ((s.link n).dir back).flits ++ x.toList := by
  rw [afterReplay, sentAgain_dir, offered_flits]

theorem afterReplay_dir_not (n : Nat) (back : Bool) (x : Option Flit) (s : State) :
    ((afterReplay n back x s).link n).dir (!back) = (s.link n).dir (!back) := by
  rw [afterReplay, sentAgain_dir, offered_dir_not]

theorem afterReplay_link_state (n : Nat) (back : Bool) (x : Option Flit) (s : State) :
    ((afterReplay n back x s).link n).state = (s.link n).state := by
  simp [afterReplay, offered_link_state]

theorem afterReplay_link_ne {o n : Nat} (h : o ≠ n) (back : Bool) (x : Option Flit) (s : State) :
    (afterReplay n back x s).link o = s.link o := (sentAgain_link_ne h _ _).trans (offered_link_ne h _ _ _)

theorem linkUp_afterReplay (n : Nat) (back : Bool) (x : Option Flit) (s : State) : linkUp (afterReplay n back x s) = linkUp s := by
  funext o
  by_cases h : o = n
  · subst h
    simp [linkUp, afterReplay_link_state]
  · simp [linkUp, afterReplay_link_ne h]

/-- Giving the sender a flit changes neither the count of replays nor the settings it is held against. -/
theorem recentReplays_offered (n : Nat) (back : Bool) (x : Option Flit) (s : State) :
    recentReplays n (offered n back x s) = recentReplays n s := by
  unfold recentReplays
  rw [offered_replays]
  rfl

theorem replayLimit_offered (n : Nat) (back : Bool) (x : Option Flit) (s : State) :
    replayLimit (offered n back x s) = replayLimit s := rfl

/-- Within the threshold a flit that fails its check leaves the state after its replay. -/
theorem flitBad_offered_of_le {n : Nat} {s : State} (h : (recentReplays n s).length ≤ replayLimit s) (back : Bool)
    (x : Option Flit) : flitBad n back (offered n back x s) = afterReplay n back x s := by
  rw [← recentReplays_offered n back x, ← replayLimit_offered n back x] at h
  exact if_neg (Nat.not_lt.2 h)

/-- Beyond the threshold the link is retired once the replay has been counted. -/
theorem flitBad_offered_of_lt {n : Nat} {s : State} (h : replayLimit s < (recentReplays n s).length) (back : Bool)
    (x : Option Flit) : flitBad n back (offered n back x s) = retireLink n (afterReplay n back x s) := by
  rw [← recentReplays_offered n back x, ← replayLimit_offered n back x] at h
  exact if_pos h

/-- Within the threshold a flit that fails its check is counted and sent again with all that follow it. -/
theorem linkFlitRx_bad_kept {n : Nat} {back : Bool} {x : Option Flit} {f : Flit} {rest : List Flit} {s : State} (hn : n < 96)
    (hu : linkUp s n = true) (hc : linkClocked s n = true) (h : ((s.link n).dir back).flits ++ x.toList = f :: rest)
    (hl : (recentReplays n s).length ≤ replayLimit s) :
    Runs (.linkFlitRx n ⟨back, x, false⟩) s (fun t => Out.flitReplay n back ((t.link n).dir back).held.length ∈ t.out ∧
      ((t.link n).dir back).flits = f :: rest ∧ (t.link n).dir (!back) = (s.link n).dir (!back) ∧
      (t.link n).replays = recentReplays n s ∧ (t.link n).state = (s.link n).state ∧
      (∀ o, o ≠ n → t.link o = s.link o) ∧ OnlyChanges [.lnk, .out] s t) := by
  refine ⟨afterReplay n back x s, (exec_linkFlitRx hn hu hc h).trans (congrArg _ (flitBad_offered_of_le hl back x)), ?sent,
    ?flits, afterReplay_dir_not .., ?replays, afterReplay_link_state .., fun o ho => afterReplay_link_ne ho .., afterReplay_frame⟩
  case sent => rw [afterReplay, sentAgain_dir]; exact mem_out_send _ _
  case flits => rw [afterReplay_flits, h]
  case replays => simp [afterReplay, recentReplays_offered]

/-! ### Retirement (R25, R26) -/

/-- Whether the topology holds depends on the links in service alone. -/
theorem linksBroken_congr {s t : State} (h : ∀ m, linkUp t m = linkUp s m) : linksBroken t = linksBroken s := by
  have hup : linksUp t = linksUp s := by
    funext first n
    simp only [linksUp, h]
  unfold linksBroken hubRoute hubLinks joined xor1Links xor2Links
  rw [hup]

/-- The state in which a link has left service and its buffers are empty. -/
def unlinked (n : Nat) (s : State) : State := s.setLink n (fun l => { l with state := 2, fwd := {}, rev := {}, replays := [] })

theorem linkUp_unlinked (n : Nat) (s : State) (m : Nat) : linkUp (unlinked n s) m = (decide (m ≠ n) && linkUp s m) := by
  by_cases h : m = n <;> simp [linkUp, unlinked, link_setLink, h]

/-- Taking over flits leaves the state of every link. -/
theorem resend_link_state (n : Nat) (back : Bool) (l : List Flit) (s : State) (o : Nat) :
    ((resend n back l s).link o).state = (s.link o).state := by
  have hset (m : Nat) (c : Bool) : ((s.setLink m (Link.onDir c (LinkEnd.offer l))).link o).state = (s.link o).state := by
    by_cases h : o = m <;> simp [link_setLink, h]
  unfold resend
  split
  · exact hset _ _
  · split
    · exact hset _ _
    · rfl

theorem linkUp_resend (n : Nat) (back : Bool) (l : List Flit) (s : State) : linkUp (resend n back l s) = linkUp s :=
  funext fun o => by simp [linkUp, resend_link_state]

theorem resend_of_bundle {n m : Nat} {s : State} (h : (bundleOf n).find? (linkUp s) = some m) (back : Bool) (l : List Flit) :
    resend n back l s = s.setLink m (Link.onDir back (LinkEnd.offer l)) := by
  simp only [resend, h]

/-- The flits of both directions of link n go to the links that remain. -/
def passedOn (n : Nat) (s : State) : State :=
  resend n true ((s.link n).dir true).flits (resend n false ((s.link n).dir false).flits (unlinked n s))

theorem passedOn_frame {n : Nat} {s : State} : OnlyChanges [.lnk] s (passedOn n s) :=
  (setLink_frame.trans resend_frame).trans resend_frame

theorem linkUp_passedOn (n : Nat) (s : State) : linkUp (passedOn n s) = linkUp (unlinked n s) := by
  simp only [passedOn, linkUp_resend]

theorem passedOn_link_state (n : Nat) (s : State) : ((passedOn n s).link n).state = 2 := by
  simp [passedOn, resend_link_state, unlinked]

theorem ne_of_find?_others {l : List Nat} {n m : Nat} {p : Nat → Bool}
    (h : (l.filter (fun m => decide (m ≠ n))).find? p = some m) : m ≠ n := by
  simpa using (List.mem_filter.1 (List.mem_of_find?_eq_some h)).2

/-- The lowest-numbered link that remains of the bundle takes the flits of both directions behind its own (log entry 14). -/
theorem passedOn_link {n m : Nat} {s : State}
    (hm : ((bundleOf n).filter (fun m => decide (m ≠ n))).find? (linkUp s) = some m) :
    (∀ c, (((passedOn n s).link m).dir c).flits = ((s.link m).dir c).flits ++ ((s.link n).dir c).flits) ∧
      (∀ o, o ≠ n → o ≠ m → (passedOn n s).link o = s.link o) := by
  have hfind : (bundleOf n).find? (linkUp (unlinked n s)) = some m := by
    rw [← hm, List.find?_filter, funext (linkUp_unlinked n s)]
    simp only [decide_eq_true_eq, Bool.decide_and, Bool.decide_eq_true]
  have hne : m ≠ n := ne_of_find?_others hm
  have hpass : passedOn n s = ((unlinked n s).setLink m (Link.onDir false (LinkEnd.offer ((s.link n).dir false).flits))).setLink m
      (Link.onDir true (LinkEnd.offer ((s.link n).dir true).flits)) := by
    rw [passedOn, resend_of_bundle (m := m), resend_of_bundle hfind]
    rwa [linkUp_resend]
  rw [hpass]
  refine ⟨fun c => ?_, fun o hn ho => ?_⟩
  · have hkeep : (unlinked n s).link m = s.link m := link_setLink_ne hne s _
    cases c <;> simp [hkeep]
  · rw [link_setLink_ne ho, link_setLink_ne ho, unlinked, link_setLink_ne hn]

theorem retireLink_eq (n : Nat) (s : State) : retireLink n s =
    if linksBroken (passedOn n s) = true ∧ 5 ≤ (passedOn n s).kp.stage ∧ (passedOn n s).kp.stage ≤ 0xA then
      (enterFailed 2 (passedOn n s)).onKp (fun k => { k with raising := false })
    else passedOn n s := rfl

/-- Beyond passing on the flits, a retirement leaves the links alone. -/
theorem retireLink_link (n : Nat) (s : State) (o : Nat) : (retireLink n s).link o = (passedOn n s).link o := by
  have hlnk : (retireLink n s).lnk = (passedOn n s).lnk := by
    rw [retireLink_eq]
    split
    · exact (enterFailed_frame.then onKp_frame : OnlyChanges
        [.kp, .cfg, .qci, .bay, .rack, .jig, .joi, .mem, .net, .pwr, .out] (passedOn n s) _) .lnk (by decide)
    · rfl
  simp only [State.link, hlnk]

/-- While the topology still holds, a retirement only passes on the flits. -/
theorem retireLink_of_whole {n : Nat} {s : State} (h : linksBroken (unlinked n s) = false) : retireLink n s = passedOn n s := by
  have hwhole : linksBroken (passedOn n s) = false := (linksBroken_congr (congrFun (linkUp_passedOn n s))).trans h
  rw [retireLink_eq, if_neg (by simp [hwhole])]

/-- Beyond the threshold the link leaves service, and the rest of its bundle takes over its flits. -/
theorem linkFlitRx_bad_retired {n : Nat} {back : Bool} {x : Option Flit} {f : Flit} {rest : List Flit} {s : State} (hn : n < 96)
    (hu : linkUp s n = true) (hc : linkClocked s n = true) (h : ((s.link n).dir back).flits ++ x.toList = f :: rest)
    (hl : replayLimit s < (recentReplays n s).length) :
    Runs (.linkFlitRx n ⟨back, x, false⟩) s (fun t => (t.link n).state = 2 ∧
      (∀ m, ((bundleOf n).filter (fun m => decide (m ≠ n))).find? (linkUp s) = some m →
        ((t.link m).dir back).flits = ((s.link m).dir back).flits ++ f :: rest ∧
        ((t.link m).dir (!back)).flits = ((s.link m).dir (!back)).flits ++ ((s.link n).dir (!back)).flits ∧
        (∀ o, o ≠ n → o ≠ m → t.link o = s.link o)) ∧
      (linksBroken (s.setLink n (fun l => { l with state := 2 })) = false → OnlyChanges [.lnk, .out] s t)) := by
  refine ⟨retireLink n (afterReplay n back x s),
    (exec_linkFlitRx hn hu hc h).trans (congrArg _ (flitBad_offered_of_lt hl back x)), ?state, fun m hm => ?bundle, fun hw => ?frame⟩
  case state => rw [retireLink_link, passedOn_link_state]
  case bundle =>
    obtain ⟨hflits, hrest⟩ := passedOn_link (s := afterReplay n back x s) (by rwa [linkUp_afterReplay])
    simp only [retireLink_link, hflits, afterReplay_link_ne (ne_of_find?_others hm), afterReplay_flits, afterReplay_dir_not, h]
    exact ⟨trivial, trivial, fun o ho hm => (hrest o ho hm).trans (afterReplay_link_ne ho ..)⟩
  case frame =>
    have hwhole : linksBroken (unlinked n (afterReplay n back x s)) = false := by
      rw [← hw]
      refine linksBroken_congr fun m => ?_
      rw [linkUp_unlinked, linkUp_afterReplay]
      by_cases hmn : m = n <;> simp [linkUp, link_setLink, hmn]
    rw [retireLink_of_whole hwhole]
    exact afterReplay_frame.then passedOn_frame

/-! ### Events in the log (R422, R573) -/

/-- The newest entry is never the one that a full log drops. -/
theorem mem_mramAppend_self (l : List MramEntry) (e : MramEntry) : e ∈ mramAppend l e := by
  rw [mramAppend, List.drop_append_of_le_length (by omega)]
  simp

/-- Folding over a single entry, of which the number lost before it is written first, for any fold function: on `mramAppend` itself
the kernel would have to compute with the 8192 of the log's size. -/
theorem foldl_withLost_singleton (g : List MramEntry → MramEntry → List MramEntry) (n : Nat) (e : MramEntry)
    (l : List MramEntry) : (withLost n [e]).foldl g l = g l { e with lost := sat 0xFFFF n } := rfl

/-- An event goes into an open log behind what still waited. -/
theorem logEvent_log {s : State} (h : mramOpen s = true) (code source : Nat) (data : List Int) :
    (logEvent code source data s).kp.log = mramAppend (flushQueue s.kp).log
      { time := keeperNow s, boot := s.kp.boots, code := code, source := source, data := data,
        lost := sat 0xFFFF (flushQueue s.kp).logLost } := by
  simp only [logEvent, State.onKp_kp, h, if_true]
  rw [foldl_withLost_singleton]

/-- While MRAM may be written an event is in the log at once, with the time at which it happened. -/
theorem logEvent_mem_log {s : State} (h : mramOpen s = true) (code source : Nat) (data : List Int) :
    ∃ e, e ∈ (logEvent code source data s).kp.log ∧ e.code = code ∧ e.time = keeperNow s := by
  rw [logEvent_log h]
  exact ⟨_, mem_mramAppend_self _ _, rfl, rfl⟩

/-- While MRAM may not be written an event waits in the keeper's queue, where there is room. -/
theorem logEvent_mem_logQueue {s : State} (h : mramOpen s = false) (hq : queuedMram s.kp < 256) (code source : Nat)
    (data : List Int) : ∃ e, e ∈ (logEvent code source data s).kp.logQueue ∧ e.code = code ∧ e.time = keeperNow s := by
  simp only [logEvent, State.onKp_kp, h, hq, if_true, Bool.false_eq_true, if_false]
  exact ⟨_, List.mem_append_right _ (List.mem_singleton_self _), rfl, rfl⟩

/-- A keeper-link message that fails authentication is logged, and that is all. -/
theorem keeperLinkMessage_failed (s : State) :
    Runs (.keeperLinkMessage false) s (fun t =>
      (mramOpen s = true → ∃ e, e ∈ t.kp.log ∧ e.code = 3 ∧ e.time = keeperNow s) ∧
      (mramOpen s = false → queuedMram s.kp < 256 → ∃ e, e ∈ t.kp.logQueue ∧ e.code = 3 ∧ e.time = keeperNow s) ∧
      OnlyChanges [.kp] s t) :=
  ⟨logEvent 0x0003 0 [] s, by simp [exec, execKeeperLinkMessage], fun h => logEvent_mem_log h _ _ _,
    fun h hq => logEvent_mem_logQueue h hq _ _ _, logEvent_frame⟩

theorem keeperLinkMessage_passed (s : State) : Runs (.keeperLinkMessage true) s (fun t => t = s) :=
  ⟨s, by simp [exec, execKeeperLinkMessage], rfl⟩

/-! ### The obligation -/

/-- Settles O42: the outcomes of a flit, by its check and by the count of replays, and the two outcomes of a keeper-link message. -/
theorem dieLinksReplay : Obligations.DieLinksReplay := by
  unfold Obligations.DieLinksReplay
  refine ⟨fun n back x f rest s hn hu hc h => linkFlitRx_good hn hu hc h, ?kept, ?retired, keeperLinkMessage_failed,
    keeperLinkMessage_passed⟩
  case kept =>
    rintro n back x f rest recent s hn hu hc h rfl hl
    exact linkFlitRx_bad_kept hn hu hc h hl
  case retired =>
    intro n back x f rest s hn hu hc h hl
    exact linkFlitRx_bad_retired hn hu hc h (by simpa [recentReplays] using hl)

end Sys2Proof.Machine
end

section
/-! PROOFS. PEG_SEQ and the ends of its segments: what sets up the pegs, advances one and finishes the sequence (R175, R193 to
R202). -/

namespace Sys2Proof.Machine

/-! ### Reading pegs, joists and steps after an update -/

theorem peg_setPeg (s : State) (j b k c : Nat) (f : Peg → Peg) :
    (s.setPeg j b f).peg k c = if k * 32 + c = j * 32 + b then f (s.peg j b) else s.peg k c := mget_mmod ..

@[simp] theorem peg_setPeg_same (s : State) (j b : Nat) (f : Peg → Peg) : (s.setPeg j b f).peg j b = f (s.peg j b) := by
  simp [peg_setPeg]

theorem peg_setPeg_ne {b c : Nat} (h : c ≠ b) (s : State) (j : Nat) (f : Peg → Peg) : (s.setPeg j b f).peg j c = s.peg j c := by
  simp [peg_setPeg, h]

theorem peg_setPeg_cases (s : State) (j b k c : Nat) (f : Peg → Peg) :
    (s.setPeg j b f).peg k c = f (s.peg j b) ∨ (s.setPeg j b f).peg k c = s.peg k c := by
  rw [peg_setPeg]
  split <;> simp

theorem joist_setJoist (s : State) (j : Nat) (f : Joist → Joist) (k : Nat) :
    (s.setJoist j f).joist k = if k = j then f (s.joist j) else s.joist k := mget_mmod ..

@[simp] theorem peg_setJoist (s : State) (j : Nat) (f : Joist → Joist) (k b : Nat) : (s.setJoist j f).peg k b = s.peg k b := rfl

theorem peg_congr {s t : State} (h : t.joi = s.joi) (j b : Nat) : t.peg j b = s.peg j b := by rw [State.peg, State.peg, h]
theorem joist_congr {s t : State} (h : t.joi = s.joi) (j : Nat) : t.joist j = s.joist j := by rw [State.joist, State.joist, h]
theorem stepOf_congr {s t : State} (h : t.jig = s.jig) (i : Nat) : stepOf t i = stepOf s i := by rw [stepOf, stepOf, h]

theorem stepOf_id {s : State} {i : Nat} {x : Step} (h : stepOf s i = some x) : x.id = i := by
  simpa using List.find?_some h

theorem stepOf_setStep {f : Step → Step} (hf : ∀ x, (f x).id = x.id) (s : State) (n i : Nat) :
    stepOf (setStep n f s) i = (stepOf s i).map (fun x => if x.id = n then f x else x) := by
  have hid : ∀ x : Step, (if x.id = n then f x else x).id = x.id := by
    intro x
    split <;> simp [hf]
  simp only [stepOf, setStep, State.onJig_jig, List.find?_map]
  congr 2
  funext x
  simp [hid]

/-- The step that is changed reads as changed. -/
theorem stepOf_setStep_same {f : Step → Step} (hf : ∀ x, (f x).id = x.id) {s : State} {i : Nat} {x : Step}
    (h : stepOf s i = some x) : stepOf (setStep i f s) i = some (f x) := by
  rw [stepOf_setStep hf, h, Option.map_some, if_pos (stepOf_id h)]

/-- What holds after one of a list of operations, whatever went before it, and outlives the others, holds after all of them. -/
theorem foldl_reaches {β : Type} {P : State → Prop} (f : State → β → State) {l : List β} {b : β} (hb : b ∈ l)
    (hf : ∀ s, P (f s b)) (hk : ∀ s c, P s → P (f s c)) (s : State) : P (l.foldl f s) := by
  obtain ⟨l₁, l₂, rfl⟩ := List.append_of_mem hb
  rw [List.foldl_append, List.foldl_cons]
  exact foldl_keeps f hk l₂ (hf _)

/-! ### What meeting errors leaves alone (R214 to R221) -/

/-- The joists' registers, the pegs, every byte and the active stages of every step stand as before. -/
structure MeetKeeps (s t : State) : Prop where
  joists : t.joi.joists = s.joi.joists
  pegs : t.joi.pegs = s.joi.pegs
  slice : t.mem.slice = s.mem.slice
  bench : t.mem.bench = s.mem.bench
  active : ∀ i x, stepOf s i = some x → ∃ z, stepOf t i = some z ∧ z.active = x.active

theorem MeetKeeps.refl (s : State) : MeetKeeps s s := ⟨rfl, rfl, rfl, rfl, fun _ x h => ⟨x, h, rfl⟩⟩

theorem MeetKeeps.trans {s t u : State} (h : MeetKeeps s t) (k : MeetKeeps t u) : MeetKeeps s u where
  joists := k.joists.trans h.joists
  pegs := k.pegs.trans h.pegs
  slice := k.slice.trans h.slice
  bench := k.bench.trans h.bench
  active i x hx := by
    obtain ⟨y, hy, hyx⟩ := h.active i x hx
    obtain ⟨z, hz, hzy⟩ := k.active i y hy
    exact ⟨z, hz, hzy.trans hyx⟩

theorem OnlyChanges.meetKeeps {ps : List Part} {s t : State} (h : OnlyChanges ps s t) (hj : Part.joi ∉ ps := by decide)
    (hm : Part.mem ∉ ps := by decide) (hg : Part.jig ∉ ps := by decide) : MeetKeeps s t := by
  have ej : t.joi = s.joi := h .joi hj
  have em : t.mem = s.mem := h .mem hm
  have eg : t.jig = s.jig := h .jig hg
  exact ⟨by rw [ej], by rw [ej], by rw [em], by rw [em], fun i x hx => ⟨x, (stepOf_congr eg i).trans hx, rfl⟩⟩

/-- An operation on the memories that leaves their bytes. -/
theorem onMem_meetKeeps (f : Mem → Mem) (s : State) (hs : (f s.mem).slice = s.mem.slice := by rfl)
    (hb : (f s.mem).bench = s.mem.bench := by rfl) : MeetKeeps s (s.onMem f) := ⟨rfl, rfl, hs, hb, fun _ x h => ⟨x, h, rfl⟩⟩

/-- A change of the slice caches or the capture counters. -/
theorem onJoi_meetKeeps (f : Joists → Joists) (s : State) (hj : (f s.joi).joists = s.joi.joists := by rfl)
    (hp : (f s.joi).pegs = s.joi.pegs := by rfl) : MeetKeeps s (s.onJoi f) := ⟨hj, hp, rfl, rfl, fun _ x h => ⟨x, h, rfl⟩⟩

theorem markUnit_meetKeeps (f : Finding) (v : Nat) (s : State) : MeetKeeps s (markUnit f v s) := by
  unfold markUnit
  split
  · split <;> exact onMem_meetKeeps _ s
  · split
    · exact onMem_meetKeeps _ s
    · split
      · exact onMem_meetKeeps _ s
      · exact .refl s

theorem queueCe2_meetKeeps (f : Finding) (s : State) : MeetKeeps s (queueCe2 f s) := by
  unfold queueCe2
  split
  · exact onMem_meetKeeps _ s
  · exact .refl s

theorem loseLine_meetKeeps (f : Finding) (s : State) : MeetKeeps s (loseLine f s) := by
  unfold loseLine
  split
  · exact .refl s
  · split
    · exact (onJoi_meetKeeps _ s).trans (onMem_meetKeeps _ _)
    · exact onJoi_meetKeeps _ s

/-- An uncorrectable error is counted and marked, and goes into both logs. -/
theorem noteUe_meetKeeps (f : Finding) (syn : BitVec 16) (code source : Nat) (data : List Int) (s : State) :
    MeetKeeps s (logEvent code source data (eccLog 2 f syn (markUnit f 1 (countUe f s)))) :=
  (countUe_frame.meetKeeps.trans (markUnit_meetKeeps f 1 _)).trans (eccLog_frame.then logEvent_frame (rs := [.kp, .ecc])).meetKeeps

theorem meet_meetKeeps (f : Finding) (s : State) : MeetKeeps s (meet f s) := by
  unfold meet
  dsimp only
  split
  · exact .refl s
  · have hs : MeetKeeps s (spend 1 s) := spend_frame.meetKeeps
    split
    case h_1 => exact hs.trans ((countCe_frame.trans eccLog_frame).trans queueWord_frame).meetKeeps
    case h_2 =>
      exact (hs.trans ((countCe_frame.trans eccLog_frame).then noteCe2_frame (rs := [.kp, .ecc])).meetKeeps).trans
        (queueCe2_meetKeeps ..)
    case h_3 =>
      split
      · exact hs.trans (countPoison_frame.trans eccLog_frame).meetKeeps
      · split
        · exact (hs.trans (noteUe_meetKeeps ..)).trans scheduleRemap_frame.meetKeeps
        · split
          · exact (hs.trans (noteUe_meetKeeps ..)).trans (loseLine_meetKeeps ..)
          · exact hs.trans (noteUe_meetKeeps ..)

theorem meetAll_meetKeeps (l : List Finding) (s : State) : MeetKeeps s (meetAll l s) :=
  foldl_keeps (P := MeetKeeps s) _ (fun _ f h => h.trans (meet_meetKeeps f _)) l (.refl s)

theorem Step.voided_id (n : Nat) (x : Step) : (x.voided n).id = x.id := by
  unfold Step.voided
  split <;> rfl

theorem Step.voided_active (n : Nat) (x : Step) : (x.voided n).active = x.active := by
  unfold Step.voided
  split <;> rfl

theorem setVoided_meetKeeps (step n : Nat) (s : State) : MeetKeeps s (setStep step (Step.voided n) s) := by
  refine ⟨rfl, rfl, rfl, rfl, fun i x hx => ?_⟩
  rw [stepOf_setStep (Step.voided_id n), hx]
  refine ⟨_, rfl, ?_⟩
  dsimp only
  split
  · exact Step.voided_active n x
  · rfl

theorem meetStage_meetKeeps (step : Nat) (l : List Finding) (s : State) : MeetKeeps s (meetStage step l s) := by
  unfold meetStage
  dsimp only
  split
  · exact (meetAll_meetKeeps l s).trans (setVoided_meetKeeps ..)
  · exact meetAll_meetKeeps l s

theorem startCapture_meetKeeps (r : Run) (s : State) : MeetKeeps s (startCapture r s) := by
  unfold startCapture
  split
  · exact onJoi_meetKeeps _ s
  · exact .refl s

/-! ### A stage event whose stage may run -/

/-- The state in which a stage has met the errors found for it. -/
def stageMet (r : Run) (s : State) : State := meetStage r.x.id (mine r r.found) (startCapture r s)

theorem stageMet_meetKeeps (r : Run) (s : State) : MeetKeeps s (stageMet r s) :=
  (startCapture_meetKeeps r s).trans (meetStage_meetKeeps ..)

theorem stageMet_frame {r : Run} {s : State} : OnlyChanges [.clk, .kp, .jig, .joi, .mem, .ecc, .bnt] s (stageMet r s) :=
  startCapture_frame.then meetStage_frame

/-- The stage that is ready does its work in the state in which its errors are met, and stands in the record. -/
theorem stageEvent_ready {ref : StageRef} {r : Run} {s : State} {work : Run → Option (State → State × Active)}
    {f : State → State × Active} (h : StageReady ref r s) (hw : work r = some f) :
    stageEvent ref work s = .next (enterStage r (f (stageMet r s)).2 (f (stageMet r s)).1) := by
  obtain ⟨hr, -, hfetch, hhub⟩ := h
  simp only [stageEvent, hr, hw, runStage, hfetch, hhub, Bool.false_eq_true, if_false]
  rfl

theorem stageEvent_waits {ref : StageRef} {r : Run} {s : State} {work : Run → Option (State → State × Active)}
    (h : StageReady ref r s) (hw : work r = none) : stageEvent ref work s = .next s := by
  obtain ⟨hr, -⟩ := h
  simp only [stageEvent, hr, hw]

theorem stepOf_enterStage {r : Run} {s : State} {x : Step} (h : stepOf s r.x.id = some x) (a : Active) :
    stepOf (enterStage r a s) r.x.id = some { x with nextIx := r.ix + 1, active := x.active ++ [a] } := by
  rw [enterStage, stepOf_congr (showStage_frame .jig (by decide)),
    stepOf_setStep_same (f := fun z => { z with nextIx := r.ix + 1, active := z.active ++ [a] }) (fun _ => rfl) h]

/-- A ready stage is entered, after errors met and work that leaves the steps. -/
theorem entered_of_ready {ref : StageRef} {r : Run} {s u : State} (h : StageReady ref r s) (hu : u.jig = (stageMet r s).jig)
    (a : Active) : Entered r a (enterStage r a u) := by
  obtain ⟨-, hx, -⟩ := h
  obtain ⟨z, hz, ha⟩ := (stageMet_meetKeeps r s).active _ _ hx
  exact ⟨_, stepOf_enterStage ((stepOf_congr hu _).trans hz) a, rfl, by rw [ha]⟩

/-! ### What running pegs leaves of each other's work -/

/-- What only the peg's own segment changes of it, whether or not the segment has started. -/
def Peg.work (p : Peg) : Peg := { p with inSegment := false, waiting := false }

theorem Peg.of_work_eq {p q : Peg} (h : p.work = q.work) : p.busy = q.busy ∧ p.ip = q.ip ∧ p.bregs = q.bregs :=
  ⟨(congrArg Peg.busy h :), (congrArg Peg.ip h :), (congrArg Peg.bregs h :)⟩

/-- The list that a joist holds, and whose it is. -/
def Joist.list (x : Joist) : List PegInstr × Nat × Nat := (x.pegList, x.pegBay, x.pegStage)

/-- The work of every peg, the peg lists, the benches and which stages are active in each step stand as before. -/
structure KeepsPegs (s t : State) : Prop where
  work : ∀ j b, (t.peg j b).work = (s.peg j b).work
  list : ∀ j, (t.joist j).list = (s.joist j).list
  bench : t.mem.bench = s.mem.bench
  stages : ∀ i x, stepOf s i = some x → ∃ z, stepOf t i = some z ∧ z.active.map Active.ix = x.active.map Active.ix

theorem KeepsPegs.busy {s t : State} (h : KeepsPegs s t) (j b : Nat) : (t.peg j b).busy = (s.peg j b).busy :=
  (Peg.of_work_eq (h.work j b)).1

theorem KeepsPegs.pegList {s t : State} (h : KeepsPegs s t) (j : Nat) : (t.joist j).pegList = (s.joist j).pegList :=
  (congrArg Prod.fst (h.list j) :)

theorem KeepsPegs.trans {s t u : State} (h : KeepsPegs s t) (k : KeepsPegs t u) : KeepsPegs s u where
  work j b := (k.work j b).trans (h.work j b)
  list j := (k.list j).trans (h.list j)
  bench := k.bench.trans h.bench
  stages i x hx := by
    obtain ⟨y, hy, hyx⟩ := h.stages i x hx
    obtain ⟨z, hz, hzy⟩ := k.stages i y hy
    exact ⟨z, hz, hzy.trans hyx⟩

theorem MeetKeeps.keepsPegs {s t : State} (h : MeetKeeps s t) : KeepsPegs s t where
  work j b := by rw [State.peg, h.pegs, State.peg]
  list j := by rw [State.joist, h.joists, State.joist]
  bench := h.bench
  stages i x hx := by
    obtain ⟨z, hz, ha⟩ := h.active i x hx
    exact ⟨z, hz, by rw [ha]⟩

theorem KeepsPegs.refl (s : State) : KeepsPegs s s := (MeetKeeps.refl s).keepsPegs

/-- A change of one peg that leaves its work. -/
theorem setPeg_keepsPegs (f : Peg → Peg) (s : State) (j b : Nat) (hf : ∀ p, (f p).work = p.work := by intro; rfl) :
    KeepsPegs s (s.setPeg j b f) where
  work k c := by
    rw [peg_setPeg]
    split
    case isTrue h => rw [hf, State.peg, State.peg, h]
    case isFalse => rfl
  list _ := rfl
  bench := rfl
  stages _ x hx := ⟨x, hx, rfl⟩

/-- A change of one joist that leaves its list. -/
theorem setJoist_keepsPegs (f : Joist → Joist) (s : State) (j : Nat) (hf : ∀ x, (f x).list = x.list := by intro; rfl) :
    KeepsPegs s (s.setJoist j f) where
  work _ _ := rfl
  list k := by
    rw [joist_setJoist]
    split
    case isTrue h => rw [h, hf]
    case isFalse => rfl
  bench := rfl
  stages _ x hx := ⟨x, hx, rfl⟩

/-- A write of slice bytes. -/
theorem onSlice_keepsPegs (f : Mem → Mem) (s : State) (hf : (f s.mem).bench = s.mem.bench := by rfl) : KeepsPegs s (s.onMem f) :=
  ⟨fun _ _ => rfl, fun _ => rfl, hf, fun _ x hx => ⟨x, hx, rfl⟩⟩

/-! ### Starting segments (R197, R201, R202) -/

theorem startSegment_keepsPegs (j b : Nat) (s : State) : KeepsPegs s (startSegment j b s) :=
  (setRefresh_frame.meetKeeps.keepsPegs.trans (setPeg_keepsPegs _ _ j b)).trans (setJoist_keepsPegs _ _ j)

theorem delaySegment_keepsPegs (j b : Nat) (s : State) : KeepsPegs s (delaySegment j b s) := by
  unfold delaySegment
  split
  · exact .refl s
  · exact (setPeg_keepsPegs _ s j b).trans setBent_frame.meetKeeps.keepsPegs

theorem startSegments_keepsPegs (j : Nat) (s : State) : KeepsPegs s (startSegments j s) :=
  foldl_keeps (P := KeepsPegs s) _ (fun _ b h => h.trans (delaySegment_keepsPegs j b _)) _
    (foldl_keeps (P := KeepsPegs s) _ (fun _ b h => h.trans (startSegment_keepsPegs j b _)) _ (.refl s))

/-! ### Running a segment (R181 to R190) -/

theorem stampJoist_keepsPegs (t : Nat) (inSlice : Bool) (j : Nat) (s : State) : KeepsPegs s (stampJoist t inSlice j s) := by
  unfold stampJoist
  split
  · exact setJoist_keepsPegs _ s j
  · exact .refl s

theorem pegStore_keepsPegs (p : PegPlace) (row col : Nat) (bytes : List Byte) (bad : Nat → Bool) (s : State) :
    KeepsPegs s (pegStore p row col bytes bad s) :=
  (onSlice_keepsPegs _ s (foldl_keeps (P := fun m : Mem => m.bench = s.mem.bench) _ (by intro _ _ h; exact h) _ rfl)).trans
    (stampJoist_keepsPegs ..)

theorem pegScalars_keepsPegs (p : PegPlace) (k : Nat) (i : PegInstr) (vals : List (Word × Bool)) (a : PegRun) :
    KeepsPegs a.s (pegScalars p k i vals a).s := pegStore_keepsPegs ..

theorem pegBlocks_keepsPegs (p : PegPlace) (k : Nat) (i : PegInstr) (vals : List (Word × Bool)) (a : PegRun) :
    KeepsPegs a.s (pegBlocks p k i vals a).s := by
  unfold pegBlocks
  dsimp only
  split
  · exact pegStore_keepsPegs ..
  · exact (pegStore_keepsPegs ..).trans (onSlice_keepsPegs _ _)

theorem pegRunInstr_keepsPegs (p : PegPlace) (k : Nat) (i : PegInstr) (a : PegRun) : KeepsPegs a.s (pegRunInstr p k i a).s := by
  unfold pegRunInstr
  dsimp only
  split
  case h_1 => exact pegStore_keepsPegs ..
  case h_2 => exact pegStore_keepsPegs ..
  case h_3 => split <;> exact .refl _
  case h_4 => exact .refl _
  case h_5 =>
    split
    · exact pegBlocks_keepsPegs ..
    · exact pegScalars_keepsPegs ..

theorem pegStep_keepsPegs (p : PegPlace) (a : PegRun) (e : Nat × PegInstr) : KeepsPegs a.s (pegStep p a e).s := by
  unfold pegStep
  dsimp only
  split
  · exact .refl _
  · refine KeepsPegs.trans ?_ (pegRunInstr_keepsPegs p e.1 e.2 _)
    refine (MeetKeeps.trans ?_ (meetStage_meetKeeps ..)).keepsPegs
    exact onJoi_meetKeeps _ a.s

theorem writeBack_keepsPegs (j b : Nat) (s : State) : KeepsPegs s (writeBack j b s) := onSlice_keepsPegs _ s

theorem runSegment_keepsPegs (r : Run) (j b : Nat) (found : List Finding) (s : State) :
    KeepsPegs s (runSegment r j b found s).1 :=
  (foldl_keeps (P := fun a : PegRun => KeepsPegs s a.s) _ (fun a e h => h.trans (pegStep_keepsPegs _ a e)) _
    (meetStage_meetKeeps ..).keepsPegs).trans (writeBack_keepsPegs ..)

theorem length_takeOps_le (n : Nat) (l : List PegInstr) : (takeOps n l).length ≤ l.length := by
  induction l generalizing n with
  | nil => exact Nat.le_refl 0
  | cons i l ih =>
    unfold takeOps
    split
    · exact Nat.succ_le_succ (ih _)
    · exact Nat.zero_le _

theorem length_segmentOf (j b : Nat) (s : State) :
    (segmentOf j b s).length = (takeOps 48 ((s.joist j).pegList.drop (s.peg j b).ip)).length := by
  have hl : (((s.joist j).pegList.mapIdx (fun k i => (k, i))).drop (s.peg j b).ip).map (fun e => e.2) =
      (s.joist j).pegList.drop (s.peg j b).ip := by
    rw [List.map_drop]
    congr 1
    exact List.ext_getElem (by simp) (by simp)
  unfold segmentOf
  simp only [hl, List.length_take]
  have hle := length_takeOps_le 48 ((s.joist j).pegList.drop (s.peg j b).ip)
  simp only [List.length_drop, List.length_mapIdx] at hle ⊢
  omega

/-! ### Setting up the pegs (R175, R193) -/

/-- A peg of a masked bank as the sequence starts. -/
def freshPeg (r : Run) (d : PegDesc) (raise : Int) : Peg :=
  { busy := true, bregs := (d.bcast ++ List.replicate 8 0).take 8
    stats := d.statGroups.foldl (fun l k => mset {} l k (openGroup (stageDatum r.g raise k))) ([] : NMap Group) }

/-- One joist takes the list and opens the groups. -/
def listTaken (r : Run) (d : PegDesc) (raise : Int) (j : Nat) (s : State) : State :=
  d.statGroups.foldl (fun s k => s.setGroup j k (fun _ => openGroup (stageDatum r.g raise k)))
    (s.setJoist j (fun x =>
      { x with pegList := d.list, pegBay := r.bay, pegStage := r.ix, pegBanks := d.banks, pegBegun := false }))

/-- The pegs of one joist are set up, before any of their segments starts. -/
def pegsTaken (r : Run) (d : PegDesc) (raise : Int) (j : Nat) (s : State) : State :=
  d.banks.foldl (fun s b => s.setPeg j b (fun _ => freshPeg r d raise)) (listTaken r d raise j s)

theorem setPegs_eq (r : Run) (d : PegDesc) (raise : Int) (s : State) :
    setPegs r d raise s = r.js.foldl (fun s j => startSegments j (pegsTaken r d raise j s)) s := rfl

theorem setGroups_joist (j : Nat) (f : Nat → Group) (l : List Nat) (s : State) (k : Nat) :
    (l.foldl (fun s g => s.setGroup j g (fun _ => f g)) s).joist k = s.joist k :=
  foldl_keeps (P := fun t : State => t.joist k = s.joist k) _ (by intro _ _ h; exact h) l rfl

theorem setGroups_peg (j : Nat) (f : Nat → Group) (l : List Nat) (s : State) (k b : Nat) :
    (l.foldl (fun s g => s.setGroup j g (fun _ => f g)) s).peg k b = s.peg k b :=
  foldl_keeps (P := fun t : State => t.peg k b = s.peg k b) _ (by intro _ _ h; exact h) l rfl

theorem pegsTaken_list (r : Run) (d : PegDesc) (raise : Int) (j : Nat) (s : State) (k : Nat) :
    ((pegsTaken r d raise j s).joist k).list = if k = j then (d.list, r.bay, r.ix) else (s.joist k).list := by
  have hp : (pegsTaken r d raise j s).joist k = (listTaken r d raise j s).joist k :=
    foldl_keeps (P := fun t : State => t.joist k = (listTaken r d raise j s).joist k) _ (by intro _ _ h; exact h) d.banks rfl
  rw [hp, listTaken, setGroups_joist, joist_setJoist]
  split <;> rfl

theorem pegsTaken_same (r : Run) (d : PegDesc) (raise : Int) (j : Nat) (s : State) {b : Nat} (hb : b ∈ d.banks) :
    (pegsTaken r d raise j s).peg j b = freshPeg r d raise := by
  refine foldl_reaches (P := fun t : State => t.peg j b = freshPeg r d raise) _ hb (fun s => peg_setPeg_same ..) (fun s c h => ?_) _
  rcases peg_setPeg_cases s j c j b (fun _ => freshPeg r d raise) with he | he
  · exact he
  · exact he.trans h

/-- A peg that has been set up is not set up otherwise by another joist's turn. -/
theorem pegsTaken_keeps {r : Run} {d : PegDesc} {raise : Int} {s : State} {k b : Nat}
    (h : (s.peg k b).work = (freshPeg r d raise).work) (j : Nat) :
    ((pegsTaken r d raise j s).peg k b).work = (freshPeg r d raise).work := by
  refine foldl_keeps (P := fun t : State => (t.peg k b).work = (freshPeg r d raise).work) _ (fun s c h => ?_) _ ?_
  · rcases peg_setPeg_cases s j c k b (fun _ => freshPeg r d raise) with he | he
    · rw [he]
    · rw [he, h]
  · rw [listTaken, setGroups_peg, peg_setJoist, h]

theorem setPegs_list (r : Run) (d : PegDesc) (raise : Int) (s : State) {j : Nat} (hj : j ∈ r.js) :
    ((setPegs r d raise s).joist j).list = (d.list, r.bay, r.ix) := by
  rw [setPegs_eq]
  refine foldl_reaches (P := fun t : State => (t.joist j).list = (d.list, r.bay, r.ix)) _ hj (fun s => ?_) (fun s k h => ?_) s
  · rw [(startSegments_keepsPegs j _).list, pegsTaken_list, if_pos rfl]
  · rw [(startSegments_keepsPegs k _).list, pegsTaken_list, h, ite_self]

theorem setPegs_work (r : Run) (d : PegDesc) (raise : Int) (s : State) {j b : Nat} (hj : j ∈ r.js) (hb : b ∈ d.banks) :
    ((setPegs r d raise s).peg j b).work = (freshPeg r d raise).work := by
  rw [setPegs_eq]
  refine foldl_reaches (P := fun t : State => (t.peg j b).work = (freshPeg r d raise).work) _ hj (fun s => ?_) (fun s k h => ?_) s
  · rw [(startSegments_keepsPegs j _).work, pegsTaken_same r d raise j s hb]
  · rw [(startSegments_keepsPegs k _).work, pegsTaken_keeps h]

/-! ### PEG_SEQ -/

/-- What a PEG_SEQ does when it is its turn, if anything. -/
def pegSeqWork (r : Run) : Option (State → State × Active) :=
  match r.g.work with
  | .pegSeq d =>
    if pegsBusy r then none
    else if controlLost r.found then some (fun s => (s, r.failed .uncorrectable))
    else some (pegSeqStage r d)
  | _ => none

theorem exec_pegSeq (ref : StageRef) (s : State) : exec (.pegSeq ref) s = stageEvent ref pegSeqWork s := rfl

section
variable {ref : StageRef} {r : Run} {d : PegDesc} {s : State} (h : StageReady ref r s) (hd : r.g.work = .pegSeq d)
include h hd

theorem pegSeq_waits (hb : pegsBusy r = true) : Runs (.pegSeq ref) s (fun t => t = s) :=
  ⟨s, by rw [exec_pegSeq, stageEvent_waits h (by simp [pegSeqWork, hd, hb])], rfl⟩

theorem pegSeq_fails (hb : pegsBusy r = false) (hc : controlLost r.found = true) :
    Runs (.pegSeq ref) s (fun t => Entered r (r.failed .uncorrectable) t ∧ t.mem.slice = s.mem.slice ∧ t.mem.bench = s.mem.bench ∧
      OnlyChanges [.clk, .kp, .bay, .jig, .joi, .mem, .ecc, .bnt] s t) := by
  have hw : pegSeqWork r = some (fun s => (s, r.failed .uncorrectable)) := by simp [pegSeqWork, hd, hb, hc]
  have hm := stageMet_meetKeeps r s
  have he := enterStage_frame (r := r) (a := r.failed .uncorrectable) (s := stageMet r s)
  have hmem := he .mem (by decide)
  exact ⟨_, (exec_pegSeq ref s).trans (stageEvent_ready h hw), entered_of_ready h rfl _, (congrArg Mem.slice hmem).trans hm.slice,
    (congrArg Mem.bench hmem).trans hm.bench, stageMet_frame.then he⟩

theorem pegSeq_starts (hb : pegsBusy r = false) (hc : controlLost r.found = false) :
    Runs (.pegSeq ref) s (fun t => Entered r { ix := r.ix, finished := false } t ∧
      (∀ j, j ∈ r.js → (t.joist j).pegList = d.list ∧ (t.joist j).pegBay = r.bay ∧ (t.joist j).pegStage = r.ix) ∧
      (∀ j b, j ∈ r.js → b ∈ d.banks → b < 32 → (t.peg j b).busy = true ∧ (t.peg j b).ip = 0 ∧
        (t.peg j b).bregs = (d.bcast ++ List.replicate 8 0).take 8) ∧
      t.mem.slice = s.mem.slice ∧ t.mem.bench = s.mem.bench ∧
      OnlyChanges [.clk, .kp, .bay, .jig, .joi, .mem, .rfr, .ecc, .bnt] s t) := by
  have hw : pegSeqWork r = some (pegSeqStage r d) := by simp [pegSeqWork, hd, hb, hc]
  have hm := stageMet_meetKeeps r s
  have hp := setPegs_frame (r := r) (d := d) (raise := 0) (s := stageMet r s)
  have he := enterStage_frame (r := r) (a := { ix := r.ix, finished := false }) (s := setPegs r d 0 (stageMet r s))
  have hmem := (he .mem (by decide)).trans (hp .mem (by decide))
  have hjoi := he .joi (by decide)
  refine ⟨_, (exec_pegSeq ref s).trans (stageEvent_ready h hw), entered_of_ready h (hp .jig (by decide)) _, fun j hj => ?lists,
    fun j b hj hb _ => ?pegs, (congrArg Mem.slice hmem).trans hm.slice, (congrArg Mem.bench hmem).trans hm.bench,
    (stageMet_frame.then hp (rs := [.clk, .kp, .jig, .joi, .mem, .rfr, .ecc, .bnt])).then he⟩
  case lists =>
    have hl := setPegs_list r d 0 (stageMet r s) hj
    rw [← joist_congr hjoi] at hl
    exact ⟨congrArg Prod.fst hl, congrArg (fun e => e.2.1) hl, congrArg (fun e => e.2.2) hl⟩
  case pegs =>
    have hl := setPegs_work r d 0 (stageMet r s) hj hb
    rw [← peg_congr hjoi] at hl
    exact Peg.of_work_eq hl

end

/-! ### The end of a segment (R196, R199) -/

theorem stepOf_setActive {step ix : Nat} {f : Active → Active} {s : State} {x : Step} (h : stepOf s step = some x) :
    stepOf (setActive step ix f s) step = some { x with active := x.active.map (fun a => if a.ix = ix then f a else a) } :=
  stepOf_setStep_same (f := fun z => { z with active := z.active.map (fun a => if a.ix = ix then f a else a) }) (fun _ => rfl) h

theorem setActive_keepsPegs (step ix : Nat) (f : Active → Active) (s : State) (hf : ∀ a, (f a).ix = a.ix := by intro; rfl) :
    KeepsPegs s (setActive step ix f s) := by
  refine ⟨fun _ _ => rfl, fun _ => rfl, rfl, fun i x hx => ?_⟩
  have hix : ∀ a : Active, (if a.ix = ix then f a else a).ix = a.ix := by
    intro a
    split <;> simp [hf]
  rw [setActive, stepOf_setStep (by intro; rfl), hx]
  refine ⟨_, rfl, ?_⟩
  dsimp only
  split
  · simp [Function.comp_def, hix]
  · rfl

theorem noteSegment_keepsPegs (r : Run) (a : PegRun) (s : State) : KeepsPegs s (noteSegment r a s) := setActive_keepsPegs _ _ _ s

/-- The state in which the segment has run, its flags are noted and its boundary has served the refresh. -/
def segmentRun (r : Run) (j b : Nat) (found : List Finding) (s : State) : State :=
  (noteSegment r (runSegment r j b found s).2.1 (runSegment r j b found s).1).setRefresh j b boundaryRefresh

theorem segmentRun_keepsPegs (r : Run) (j b : Nat) (found : List Finding) (s : State) : KeepsPegs s (segmentRun r j b found s) :=
  ((runSegment_keepsPegs r j b found s).trans (noteSegment_keepsPegs ..)).trans setRefresh_frame.meetKeeps.keepsPegs

/-- What a peg takes over from its segment where its list goes on at instruction n. -/
def Peg.advanced (n : Nat) (a : PegRun) (p : Peg) : Peg :=
  { p with
    ip := n, inSegment := false, bregs := a.bregs, stats := a.stats, convSat := a.convSat, nan := a.nan, poison := a.poison,
    bufA := a.bufs.1, bufB := a.bufs.2.1, bufC := a.bufs.2.2.1, bufOut := a.bufs.2.2.2 }

/-- The state behind the boundary of a segment, with the starts that follow. -/
def segmentBoundary (r : Run) (j b : Nat) (found : List Finding) (s : State) : State :=
  let u := runSegment r j b found s
  let t := segmentRun r j b found s
  startSegments j (if u.2.1.halted ∨ (t.joist j).pegList.length ≤ u.2.2 then endBank j b u.2.1.halted u.2.1.stats t
    else t.setPeg j b (Peg.advanced u.2.2 u.2.1))

section
variable {r : Run} {j b : Nat} {found : List Finding} {s : State} (hh : (runSegment r j b found s).2.1.halted = false)
include hh

theorem segmentBoundary_goesOn (hl : (runSegment r j b found s).2.2 < (s.joist j).pegList.length) :
    segmentBoundary r j b found s = startSegments j
      ((segmentRun r j b found s).setPeg j b (Peg.advanced (runSegment r j b found s).2.2 (runSegment r j b found s).2.1)) := by
  rw [← (segmentRun_keepsPegs r j b found s).pegList] at hl
  unfold segmentBoundary
  dsimp only
  rw [if_neg (by simp [hh, hl])]

theorem segmentBoundary_ends (hl : (s.joist j).pegList.length ≤ (runSegment r j b found s).2.2) :
    segmentBoundary r j b found s = startSegments j
      (endBank j b false (runSegment r j b found s).2.1.stats (segmentRun r j b found s)) := by
  rw [← (segmentRun_keepsPegs r j b found s).pegList] at hl
  unfold segmentBoundary
  dsimp only
  rw [if_pos (.inr hl), hh]

/-- A peg whose list goes on is still busy, and stands behind the instructions that have run. -/
theorem segmentBoundary_advances (hl : (runSegment r j b found s).2.2 < (s.joist j).pegList.length)
    (hb : (s.peg j b).busy = true) :
    ((segmentBoundary r j b found s).peg j b).busy = true ∧
      ((segmentBoundary r j b found s).peg j b).ip = (runSegment r j b found s).2.2 ∧
      ((segmentBoundary r j b found s).peg j b).bregs = (runSegment r j b found s).2.1.bregs ∧
      (segmentBoundary r j b found s).mem.bench = s.mem.bench := by
  have hrun := segmentRun_keepsPegs r j b found s
  have hstart := startSegments_keepsPegs j
    ((segmentRun r j b found s).setPeg j b (Peg.advanced (runSegment r j b found s).2.2 (runSegment r j b found s).2.1))
  have hwork := hstart.work j b
  rw [peg_setPeg_same] at hwork
  rw [segmentBoundary_goesOn hh hl]
  obtain ⟨hbusy, hip, hbregs⟩ := Peg.of_work_eq hwork
  exact ⟨hbusy.trans ((hrun.busy j b).trans hb), hip, hbregs, hstart.bench.trans hrun.bench⟩

end

/-- A bank that ends its list leaves every other peg of its joist as it was, and its own is free. -/
theorem endBank_peg (j b : Nat) (stats : NMap Group) (s : State) (c : Nat) :
    ((endBank j b false stats s).peg j c).busy = if c = b then false else (s.peg j c).busy := by
  have hg : ∀ c, (stats.foldl (fun s e => s.setGroup j e.1 (fun g => g.merge e.2)) s).peg j c = s.peg j c := fun c =>
    foldl_keeps (P := fun t : State => t.peg j c = s.peg j c) _ (by intro _ _ h; exact h) stats rfl
  unfold endBank
  simp only [Bool.false_eq_true, if_false]
  split
  case isTrue h => rw [h, peg_setPeg_same]
  case isFalse h => rw [peg_setPeg_ne h, hg]

/-- No peg of a bank of the stage's joists is busy. -/
def pegsIdle (r : Run) (s : State) : Bool := r.js.all (fun j => (List.range 24).all (fun b => !(s.peg j b).busy))

theorem pegsIdle_false {r : Run} {s : State} {j b : Nat} (hj : j ∈ r.js) (hb : b < 24) (h : (s.peg j b).busy = true) :
    pegsIdle r s = false := by
  refine Bool.eq_false_iff.2 (fun hi => ?_)
  simp only [pegsIdle, List.all_eq_true, List.mem_range] at hi
  simpa [h] using hi j hj b hb

/-- The sequence finishes where no peg of it is busy any more. -/
def finishWhenIdle (r : Run) (d : PegDesc) (s : State) : State :=
  if pegsIdle r s then
    match stepOf s r.x.id with
    | none => s
    | some z => match z.active.find? (fun e => e.ix = r.ix) with
      | some a => finishPegs { r with x := z } d a s
      | none => s
  else s

theorem segmentEnd_eq (r : Run) (d : PegDesc) (j b : Nat) (found : List Finding) (s : State) :
    segmentEnd r d j b found s = finishWhenIdle r d (segmentBoundary r j b found s) := rfl

theorem finishWhenIdle_busy {r : Run} {s : State} (h : pegsIdle r s = false) (d : PegDesc) : finishWhenIdle r d s = s := by
  simp [finishWhenIdle, h]

theorem finishWhenIdle_idle {r : Run} {s : State} {z : Step} {e : Active} (h : pegsIdle r s = true)
    (hz : stepOf s r.x.id = some z) (he : e ∈ z.active) (hix : e.ix = r.ix) (d : PegDesc) :
    ∃ a, finishWhenIdle r d s = finishPegs { r with x := z } d a s := by
  obtain ⟨a, ha⟩ : ∃ a, z.active.find? (fun e => e.ix = r.ix) = some a :=
    Option.isSome_iff_exists.1 (List.find?_isSome.2 ⟨e, he, by simp [hix]⟩)
  exact ⟨a, by simp only [finishWhenIdle, h, hz, ha, if_true]⟩

/-! ### The sequence finishes -/

/-- The joists of a sequence that has ended hold no list. -/
def listsCleared (js : List Nat) (s : State) : State :=
  js.foldl (fun s j => s.setJoist j (fun x =>
    { x with pegList := [], pegBay := 0, pegStage := 0, pegBanks := [], pegBegun := false })) s

/-- Without replay the stage of a sequence ends with its summary. -/
theorem finishPegs_final {r : Run} (h : r.g.num.replay = false) (d : PegDesc) (a : Active) (s : State) :
    finishPegs r d a s = setActive r.x.id r.ix (fun z => { z with
      finished := true, summary := pegSummary r d a s
      status := if z.status = .dmaUe then .dmaUe else (pegSummary r d a s).status }) (listsCleared r.js s) :=
  if_neg (by simp [h])

theorem finishPegs_peg {r : Run} (h : r.g.num.replay = false) (d : PegDesc) (a : Active) (s : State) (j b : Nat) :
    (finishPegs r d a s).peg j b = s.peg j b := by
  rw [finishPegs_final h]
  exact foldl_keeps (P := fun t : State => t.peg j b = s.peg j b) _ (by intro _ _ h; exact h) r.js rfl

theorem finishPegs_finished {r : Run} {s : State} {x : Step} {e : Active} (h : r.g.num.replay = false)
    (hx : stepOf s r.x.id = some x) (he : e ∈ x.active) (hix : e.ix = r.ix) (d : PegDesc) (a : Active) :
    ∃ z y, stepOf (finishPegs r d a s) r.x.id = some y ∧ z ∈ y.active ∧ z.ix = r.ix ∧ z.finished = true := by
  have hc : stepOf (listsCleared r.js s) r.x.id = some x :=
    (stepOf_congr (foldl_frame (ps := [.joi]) _ (fun _ _ => setJoist_frame) r.js s .jig (by decide)) _).trans hx
  rw [finishPegs_final h]
  refine ⟨_, _, stepOf_setActive hc, List.mem_map_of_mem he, ?_⟩
  rw [if_pos hix]
  exact ⟨hix, rfl⟩

/-! ### PEG_SEGMENT_END -/

theorem pegRunOf_active {s : State} {j : Nat} {r : Run} {d : PegDesc} {a : Active} (h : pegRunOf s j = some (r, d, a)) :
    a ∈ r.x.active ∧ a.ix = r.ix := by
  unfold pegRunOf at h
  dsimp only at h
  split at h
  case h_2 => cases h
  case h_1 =>
    obtain ⟨img, -, h⟩ := Option.bind_eq_some_iff.1 h
    obtain ⟨g, -, h⟩ := Option.bind_eq_some_iff.1 h
    split at h
    case h_2 => cases h
    case h_1 ha =>
      cases h
      exact ⟨List.mem_of_find?_eq_some ha, by simpa using List.find?_some ha⟩

/-- The findings of a segment's reads: those of its joist and bank, as the peg meets them. -/
def segmentFound (j b : Nat) (found : List Finding) (s : State) : List Finding :=
  (found.filter (fun f => f.joist = j ∧ f.unit = b)).map (fun f => { classed s f with src := 3 })

theorem exec_pegSegmentEnd {j b : Nat} {s : State} {r : Run} {d : PegDesc} {a : Active} (hin : (s.peg j b).inSegment = true)
    (hr : pegRunOf s j = some (r, d, a)) (found : List Finding) :
    exec (.pegSegmentEnd j b found) s = .next (segmentEnd r d j b (segmentFound j b found s) s) := by
  change execPegSegmentEnd j b found s = _
  simp only [execPegSegmentEnd, hin, hr, Bool.not_true, Bool.false_eq_true, if_false]
  rfl

theorem pegSegmentEnd_advances {j b : Nat} {found m : List Finding} {s : State} {r : Run} {d : PegDesc} {a : Active}
    (hm : m = segmentFound j b found s) (hin : (s.peg j b).inSegment = true) (hr : pegRunOf s j = some (r, d, a)) (hb : b < 24)
    (hh : (runSegment r j b m s).2.1.halted = false) (hl : (runSegment r j b m s).2.2 < (s.joist j).pegList.length)
    (hj : j ∈ r.js) (hbusy : (s.peg j b).busy = true) :
    Runs (.pegSegmentEnd j b found) s (fun t =>
      (t.peg j b).busy = true ∧
      (t.peg j b).ip = (s.peg j b).ip + (takeOps 48 ((s.joist j).pegList.drop (s.peg j b).ip)).length ∧
      (t.peg j b).bregs = (runSegment r j b m s).2.1.bregs ∧ t.mem.bench = s.mem.bench ∧
      OnlyChanges [.clk, .kp, .jig, .joi, .mem, .rfr, .ecc, .bnt] s t) := by
  subst hm
  obtain ⟨hbusy', hip, hbregs, hbench⟩ := segmentBoundary_advances hh hl hbusy
  refine ⟨_, exec_pegSegmentEnd hin hr found, ?_⟩
  have hframe := segmentEnd_frame (r := r) (d := d) (j := j) (bank := b) (found := segmentFound j b found s) (s := s)
  rw [segmentEnd_eq, finishWhenIdle_busy (pegsIdle_false hj hb hbusy')] at hframe ⊢
  exact ⟨hbusy', hip.trans (congrArg _ (length_segmentOf j b s)), hbregs, hbench, hframe⟩

theorem pegSegmentEnd_finishes {j b : Nat} {found m : List Finding} {s : State} {r : Run} {d : PegDesc} {a : Active}
    (hm : m = segmentFound j b found s) (hin : (s.peg j b).inSegment = true) (hr : pegRunOf s j = some (r, d, a))
    (hh : (runSegment r j b m s).2.1.halted = false) (hl : (s.joist j).pegList.length ≤ (runSegment r j b m s).2.2)
    (hreplay : r.g.num.replay = false) (hx : stepOf s r.x.id = some r.x) (hjs : r.js = [j])
    (hidle : ∀ c, c < 24 → c ≠ b → (s.peg j c).busy = false) :
    Runs (.pegSegmentEnd j b found) s (fun t => (t.peg j b).busy = false ∧
      (∃ z x, stepOf t r.x.id = some x ∧ z ∈ x.active ∧ z.ix = r.ix ∧ z.finished = true) ∧
      OnlyChanges [.clk, .kp, .jig, .joi, .mem, .rfr, .ecc, .bnt] s t) := by
  subst hm
  obtain ⟨ha, haix⟩ := pegRunOf_active hr
  have hrun := segmentRun_keepsPegs r j b (segmentFound j b found s) s
  have hend := segmentBoundary_ends hh hl
  have hbusy : ∀ c, c < 24 ∨ c = b → ((segmentBoundary r j b (segmentFound j b found s) s).peg j c).busy = false := by
    intro c hc
    rw [hend, (startSegments_keepsPegs j _).busy, endBank_peg]
    split
    case isTrue => rfl
    case isFalse hne => rw [hrun.busy, hidle c (hc.resolve_right hne) hne]
  obtain ⟨y, hy, hyix⟩ := hrun.stages _ _ hx
  have hz : stepOf (segmentBoundary r j b (segmentFound j b found s) s) r.x.id = some y := by
    rw [hend, stepOf_congr (startSegments_frame .jig (by decide)), stepOf_congr (endBank_frame .jig (by decide)), hy]
  obtain ⟨e, he, heix⟩ : ∃ e, e ∈ y.active ∧ e.ix = a.ix := List.mem_map.1 (hyix ▸ List.mem_map_of_mem ha)
  have hall : pegsIdle r (segmentBoundary r j b (segmentFound j b found s) s) = true := by
    simp only [pegsIdle, hjs, List.all_cons, List.all_nil, Bool.and_true, List.all_eq_true, List.mem_range]
    intro c hc
    rw [hbusy c (.inl hc)]
    rfl
  obtain ⟨act, hact⟩ := finishWhenIdle_idle hall hz he (heix.trans haix) d
  refine ⟨_, exec_pegSegmentEnd hin hr found, ?free, ?finished, segmentEnd_frame⟩
  case free => rw [segmentEnd_eq, hact, finishPegs_peg (r := { r with x := y }) hreplay, hbusy b (.inr rfl)]
  case finished =>
    have hid : y.id = r.x.id := stepOf_id hz
    have hfin := finishPegs_finished (r := { r with x := y }) hreplay (hid ▸ hz) he (heix.trans haix) d act
    rw [segmentEnd_eq, hact, ← hid]
    exact hfin

/-! ### The obligation -/

/-- Settles O24: the three outcomes of a PEG_SEQ whose turn it is, and the two of a segment's end. -/
theorem pegSequencesRun : Obligations.PegSequencesRun := by
  unfold Obligations.PegSequencesRun
  refine ⟨fun _ _ _ _ => pegSeq_waits, fun _ _ _ _ => pegSeq_fails, fun _ _ _ _ => pegSeq_starts, ?advances, ?finishes⟩
  case advances =>
    rintro j b found m r d a u l s hm hin hr hb rfl rfl hh hl hj hbusy
    exact pegSegmentEnd_advances hm hin hr hb hh hl hj hbusy
  case finishes =>
    rintro j b found m r d a u s hm hin hr - rfl hh hl - hreplay hx hjs hidle
    exact pegSegmentEnd_finishes hm hin hr hh hl hreplay hx hjs hidle

end Sys2Proof.Machine
end

section
/-! PROOFS. The microcode: BROADCAST with its repair rounds, READY, and the reload of one joist (R446 to R453). -/

namespace Sys2Proof.Machine

/-! ### What an entry of the event log leaves of the keeper -/

@[simp] theorem logEvent_fuses (code source : Nat) (data : List Int) (s : State) :
    (logEvent code source data s).kp.fuses = s.kp.fuses := by
  simp only [logEvent, State.onKp_kp]
  repeat' split
  all_goals rfl

@[simp] theorem logEvent_retired (code source : Nat) (data : List Int) (s : State) :
    (logEvent code source data s).kp.retired = s.kp.retired := by
  simp only [logEvent, State.onKp_kp]
  repeat' split
  all_goals rfl

/-! ### Joists that are loaded -/

theorem loadJoist_joist (s : State) (j : Nat) (t : State) (o : Nat) :
    (loadJoist s j t).joist o = if o = j then
      { t.joist j with ucode := BitVec.ofNat 32 (allPackets s), ucodeOk := true, needsReload := false } else t.joist o :=
  joist_setJoist (t.onMem _) j _ o

/-- The joists of a list report, one after another. -/
def roundReports (s : State) (missed : List (Nat × BitVec 32)) (l : List Nat) (t : State) : State :=
  l.foldl (fun t j => reportJoist s missed j t) t

theorem roundReports_frame {s t : State} {missed : List (Nat × BitVec 32)} {l : List Nat} :
    OnlyChanges [.joi, .mem] t (roundReports s missed l t) := foldl_frame _ (fun _ _ => reportJoist_frame) _ _

/-- Where nothing is missed each joist that reports holds the whole section. -/
theorem roundReports_loaded (s : State) {l : List Nat} {j : Nat} (hj : j ∈ l) (t : State) :
    ((roundReports s [] l t).joist j).ucodeOk = true := by
  refine foldl_reaches (P := fun t => (t.joist j).ucodeOk = true) _ hj (fun t => ?_) (fun t c h => ?_) t
  · change ((loadJoist s j t).joist j).ucodeOk = true
    simp [loadJoist_joist]
  · change ((loadJoist s c t).joist j).ucodeOk = true
    rw [loadJoist_joist]
    split
    · rfl
    · exact h

theorem roundReports_slice (s : State) (l : List Nat) (t : State) : (roundReports s [] l t).mem.slice = t.mem.slice :=
  foldl_keeps (P := fun u : State => u.mem.slice = t.mem.slice) (fun u j => reportJoist s [] j u) (fun _ _ h => h) l rfl

theorem roundReports_bench (s : State) (l : List Nat) (t : State) : (roundReports s [] l t).mem.bench = t.mem.bench :=
  foldl_keeps (P := fun u : State => u.mem.bench = t.mem.bench) (fun u j => reportJoist s [] j u) (fun _ _ h => h) l rfl

/-! ### Joists that are retired (R449) -/

theorem unusable_congr {s t : State} (h : t.kp = s.kp) : unusable t = unusable s := by simp [unusable, h]

theorem unusable_logEvent (code source : Nat) (data : List Int) (s : State) :
    unusable (logEvent code source data s) = unusable s := by simp [unusable]

theorem mem_unusable_retireJoist_self (cause j : Nat) (s : State) : j ∈ unusable (retireJoist cause j s) := by
  unfold retireJoist
  split
  case isTrue h => exact List.contains_iff_mem.1 h
  case isFalse => simp [unusable]

theorem mem_unusable_retireJoist {i : Nat} {s : State} (h : i ∈ unusable s) (cause j : Nat) :
    i ∈ unusable (retireJoist cause j s) := by
  unfold retireJoist
  split
  case isTrue => exact h
  case isFalse =>
    simp only [unusable, State.onKp_kp, List.map_append, ← List.append_assoc]
    exact List.mem_append_left _ h

theorem mem_unusable_retireUnloaded_self (j : Nat) (s : State) : j ∈ unusable (retireUnloaded j s) := by
  rw [retireUnloaded, unusable_logEvent]
  exact mem_unusable_retireJoist_self 3 j s

theorem mem_unusable_retireUnloaded {i : Nat} {s : State} (h : i ∈ unusable s) (j : Nat) :
    i ∈ unusable (retireUnloaded j s) := by
  rw [retireUnloaded, unusable_logEvent]
  exact mem_unusable_retireJoist h 3 j

@[simp] theorem retireUnloaded_fuses (j : Nat) (s : State) : (retireUnloaded j s).kp.fuses = s.kp.fuses := by
  rw [retireUnloaded, logEvent_fuses, retireJoist]
  split <;> rfl

/-! ### The end of a round (R448, R449) -/

theorem fixAssignment_kp (s : State) : (fixAssignment s).kp =
    { s.kp with hidden := unusable s, bcast := { s.kp.bcast with active := false, fixed := true, missing := [] } } := by
  unfold fixAssignment
  exact foldl_frame (ps := [.bnt]) (fun s b => assignBent b s) (fun _ _ => assignBent_frame) _ _ .kp (by decide)

theorem unusable_fixAssignment (s : State) : unusable (fixAssignment s) = unusable s := by simp [unusable, fixAssignment_kp]

theorem afterRound_nil (round : Nat) (s : State) : afterRound round [] s = fixAssignment s := rfl

section
variable {round : Nat} {l : List (Nat × BitVec 32)} (hl : l ≠ [])
include hl

/-- Packets are missing and a repair round is left: it asks for just those. -/
theorem afterRound_next (hr : round < 3) (s : State) :
    (afterRound round l s).kp.bcast = { active := true, round := round + 1, missing := l } ∧
      OnlyChanges [.kp, .out] s (afterRound round l s) := by
  rw [afterRound, if_neg hl, if_neg (Nat.not_le.2 hr)]
  exact ⟨congrArg Keeper.bcast (resendUcode_frame .kp (by decide)), onKp_frame.then resendUcode_frame⟩

/-- Packets are missing after the third repair round: their joists are retired, and the assignment is fixed. -/
theorem afterRound_last (hr : 3 ≤ round) (s : State) :
    (afterRound round l s).kp.bcast.fixed = true ∧ (∀ e, e ∈ l → e.1 ∈ unusable (afterRound round l s)) ∧
      OnlyChanges [.kp, .bnt] s (afterRound round l s) := by
  rw [afterRound, if_neg hl, if_pos hr]
  refine ⟨by rw [fixAssignment_kp], fun e he => ?_,
    (foldl_frame _ (fun _ _ => retireUnloaded_frame) l s).then fixAssignment_frame⟩
  rw [unusable_fixAssignment]
  exact foldl_reaches (P := fun t => e.1 ∈ unusable t) _ he (fun t => mem_unusable_retireUnloaded_self e.1 t)
    (fun t c h => mem_unusable_retireUnloaded h c.1) s

end

/-! ### BROADCAST -/

/-- The joists that take the broadcast: the usable ones of every bent. -/
def broadcastJoists (s : State) : List Nat := (List.range 4).flatMap (usableJoists s)

theorem mem_broadcastJoists {s : State} {b j : Nat} (hb : b < 4) (hj : j ∈ usableJoists s b) : j ∈ broadcastJoists s :=
  List.mem_flatMap.2 ⟨b, List.mem_range.2 hb, hj⟩

/-- The broadcast has gone out, and the joists have reported. -/
def broadcastReported (missed : List (Nat × BitVec 32)) (s : State) : State :=
  roundReports s missed (broadcastJoists s) (sendBents [0, 1, 2, 3] s)

theorem broadcastReported_frame {missed : List (Nat × BitVec 32)} {s : State} :
    OnlyChanges [.joi, .mem, .out] s (broadcastReported missed s) := sendBents_frame.then roundReports_frame

section
variable {s : State} (hr : s.kp.raising = true) (hs : s.kp.stage = 9)
include hr hs

theorem atStage_nine (f : State → State) : atStage 9 f s = .next (f s) := if_pos ⟨hr, hs⟩

theorem exec_bringupBroadcast (ha : s.kp.bcast.active = false) (hf : s.kp.bcast.fixed = false) (missed : List (Nat × BitVec 32)) :
    exec (.bringupBroadcast missed) s =
      .next (afterRound 0 (stillMissing s (broadcastJoists s) missed) (broadcastReported missed s)) := by
  dsimp only [exec, execBringupBroadcast]
  rw [atStage_nine hr hs, ha, hf]
  rfl

theorem bringupBroadcast_loads (ha : s.kp.bcast.active = false) (hf : s.kp.bcast.fixed = false) :
    Runs (.bringupBroadcast []) s (fun t => t.kp.bcast.fixed = true ∧ t.kp.hidden = unusable s ∧
      (∀ b j, b < 4 → j ∈ usableJoists s b → (t.joist j).ucodeOk = true) ∧ t.mem.slice = s.mem.slice ∧
      t.mem.bench = s.mem.bench ∧ OnlyChanges [.kp, .joi, .mem, .bnt, .out] s t) := by
  have hfix := fixAssignment_frame (s := broadcastReported [] s)
  have hmem : (fixAssignment (broadcastReported [] s)).mem = (broadcastReported [] s).mem := hfix .mem (by decide)
  have hsent : (sendBents [0, 1, 2, 3] s).mem = s.mem := sendBents_frame .mem (by decide)
  refine ⟨_, exec_bringupBroadcast hr hs ha hf [], ?fixed, ?hidden, fun b j hb hj => ?loaded, ?slice, ?bench,
    broadcastReported_frame.then afterRound_frame⟩ <;> rw [stillMissing, List.map_nil, List.filter_nil, afterRound_nil]
  case fixed => rw [fixAssignment_kp]
  case hidden =>
    rw [fixAssignment_kp]
    exact unusable_congr (broadcastReported_frame .kp (by decide))
  case loaded =>
    rw [joist_congr (hfix .joi (by decide))]
    exact roundReports_loaded s (mem_broadcastJoists hb hj) _
  case slice => rw [hmem, broadcastReported, roundReports_slice, hsent]
  case bench => rw [hmem, broadcastReported, roundReports_bench, hsent]

theorem bringupBroadcast_repairs (ha : s.kp.bcast.active = false) (hf : s.kp.bcast.fixed = false)
    {missed l : List (Nat × BitVec 32)} (hl : l = stillMissing s (broadcastJoists s) missed) (hne : l ≠ []) :
    Runs (.bringupBroadcast missed) s (fun t => t.kp.bcast = { active := true, round := 1, missing := l } ∧
      OnlyChanges [.kp, .joi, .mem, .out] s t) := by
  subst hl
  obtain ⟨hb, hframe⟩ := afterRound_next hne (round := 0) (by decide) (broadcastReported missed s)
  exact ⟨_, exec_bringupBroadcast hr hs ha hf missed, hb, broadcastReported_frame.then hframe⟩

/-! ### Repair rounds -/

/-- The joists that a repair round asks have reported. -/
def repairReported (missed : List (Nat × BitVec 32)) (s : State) : State :=
  roundReports s missed (s.kp.bcast.missing.map (fun e => e.1)) s

theorem exec_repairRoundEnd (ha : s.kp.bcast.active = true) (missed : List (Nat × BitVec 32)) :
    exec (.repairRoundEnd missed) s = .next (afterRound s.kp.bcast.round
      (stillMissing s (s.kp.bcast.missing.map (fun e => e.1)) missed) (repairReported missed s)) := by
  dsimp only [exec, execRepairRoundEnd]
  rw [atStage_nine hr hs, ha]
  rfl

theorem repairRoundEnd_loads (ha : s.kp.bcast.active = true) :
    Runs (.repairRoundEnd []) s (fun t => t.kp.bcast.fixed = true ∧ t.kp.bcast.active = false ∧
      (∀ e, e ∈ s.kp.bcast.missing → (t.joist e.1).ucodeOk = true) ∧ OnlyChanges [.kp, .joi, .mem, .bnt] s t) := by
  have hfix := fixAssignment_frame (s := repairReported [] s)
  refine ⟨_, exec_repairRoundEnd hr hs ha [], ?fixed, ?active, fun e he => ?loaded, ?frame⟩ <;>
    rw [stillMissing, List.map_nil, List.filter_nil, afterRound_nil]
  case fixed => rw [fixAssignment_kp]
  case active => rw [fixAssignment_kp]
  case loaded =>
    rw [joist_congr (hfix .joi (by decide))]
    exact roundReports_loaded s (List.mem_map_of_mem he) s
  case frame => exact roundReports_frame.then hfix

theorem repairRoundEnd_next (ha : s.kp.bcast.active = true) (hround : s.kp.bcast.round < 3) {missed l : List (Nat × BitVec 32)}
    (hl : l = stillMissing s (s.kp.bcast.missing.map (fun e => e.1)) missed) (hne : l ≠ []) :
    Runs (.repairRoundEnd missed) s (fun t => t.kp.bcast = { active := true, round := s.kp.bcast.round + 1, missing := l } ∧
      OnlyChanges [.kp, .joi, .mem, .out] s t) := by
  subst hl
  obtain ⟨hb, hframe⟩ := afterRound_next hne hround (repairReported missed s)
  exact ⟨_, exec_repairRoundEnd hr hs ha missed, hb, roundReports_frame.then hframe⟩

theorem repairRoundEnd_retires (ha : s.kp.bcast.active = true) (hround : 3 ≤ s.kp.bcast.round)
    {missed l : List (Nat × BitVec 32)} (hl : l = stillMissing s (s.kp.bcast.missing.map (fun e => e.1)) missed) (hne : l ≠ []) :
    Runs (.repairRoundEnd missed) s (fun t => t.kp.bcast.fixed = true ∧ (∀ e, e ∈ l → e.1 ∈ unusable t) ∧
      OnlyChanges [.kp, .joi, .mem, .bnt] s t) := by
  subst hl
  obtain ⟨hb, hretired, hframe⟩ := afterRound_last hne hround (repairReported missed s)
  exact ⟨_, exec_repairRoundEnd hr hs ha missed, hb, hretired, roundReports_frame.then hframe⟩

/-! ### READY (R431, R450, R452) -/

theorem exec_bringupReady (hf : s.kp.bcast.fixed = true) : exec .bringupReady s = .next (readyStage s) :=
  (atStage_nine hr hs _).trans (congrArg _ (if_pos hf))

end

/-- The keeper at READY: the remaps are fixed, the retention record is written, and the boot is timed. -/
def readyKeeper (s : State) (k : Keeper) : Keeper :=
  { k with
    remapFixed := true, stage := 0xA, retention := some (retentionNow s), raising := false
    bootMs := (keeperNow s - k.t0) / 25000, bootStamp := Config.stamp (drawNo s) % 2 ^ 64 }

theorem readyStage_kp (s : State) : (readyStage s).kp = readyKeeper s s.kp :=
  (snapshot_frame .kp (by decide)).trans (openBoots_frame .kp (by decide))

theorem snapshot_snap (s : State) : (snapshot s).qci.snap = (s.qci.snap + 1) % 2 ^ 32 := rfl

theorem readyStage_snap (s : State) : (readyStage s).qci.snap = (s.qci.snap + 1) % 2 ^ 32 := by
  rw [readyStage, snapshot_snap, show (openBoots _).qci = _ from openBoots_frame .qci (by decide)]
  rfl

theorem bringupReady_opens {s : State} (hr : s.kp.raising = true) (hs : s.kp.stage = 9) (hf : s.kp.bcast.fixed = true) :
    Runs .bringupReady s (fun t => t.kp.stage = 0xA ∧ t.kp.raising = false ∧ t.kp.remapFixed = true ∧
      (t.kp.retention.map (fun r => r.writtenAt)) = some (keeperNow s) ∧ t.qci.snap = (s.qci.snap + 1) % 2 ^ 32 ∧
      t.kp.fuses = s.kp.fuses ∧ OnlyChanges [.clk, .kp, .qci, .net] s t) := by
  refine ⟨_, exec_bringupReady hr hs hf, ?_⟩
  simp only [readyStage_kp]
  exact ⟨rfl, rfl, rfl, rfl, readyStage_snap s, rfl, readyStage_frame⟩

/-! ### Packets that arrive (R446, R447) -/

theorem ucodePacketRx_kept {j n : Nat} {s : State} (ht : takesPackets s j = true) (hu : (unusable s).contains j = false)
    (hb : keyBent j < 4) (hn : n < s.kp.running.ucodeLen / 512) :
    Runs (.ucodePacketRx j n (imageId s) true) s (fun t =>
      (t.joist j).ucode = (s.joist j).ucode ||| BitVec.ofNat 32 (2 ^ n) ∧ (∀ o, o ≠ j → t.joist o = s.joist o) ∧
      OnlyChanges [.joi] s t) := by
  have hkeep : (takesPackets s j && !(unusable s).contains j && true
      && decide (imageId s = imageId s ∧ keyBent j < 4 ∧ n < s.kp.running.ucodeLen / 512)) = true := by
    rw [ht, hu, decide_eq_true ⟨rfl, hb, hn⟩]
    rfl
  refine ⟨_, if_pos hkeep, ?_, fun o ho => ?_, setJoist_frame⟩
  · simp [joist_setJoist]
  · simp [joist_setJoist, ho]

/-! ### The reload of one joist (R219, R451) -/

theorem exec_joistReload {j : Nat} {s : State} (hn : (s.joist j).needsReload = true) (hu : (unusable s).contains j = false)
    (missing : BitVec 32) : exec (.joistReload j missing) s = .next (reloadReport j missing s) :=
  if_pos (by rw [hn, hu]; rfl)

theorem reloadReport_complete {j : Nat} {missing : BitVec 32} {s : State} (hm : missing &&& BitVec.ofNat 32 (allPackets s) = 0) :
    reloadReport j missing s = loadJoist s j s := if_pos hm

theorem reloadReport_failed {j : Nat} {missing : BitVec 32} {s : State} (hm : missing &&& BitVec.ofNat 32 (allPackets s) ≠ 0)
    (hround : 3 ≤ (s.joist j).reloadRound) : reloadReport j missing s = reloadFailed j s :=
  (if_neg hm).trans (if_pos hround)

/-- A joist that misses the packets m of all takes the others, and its next repair round begins. -/
def nextReload (all m : BitVec 32) (x : Joist) : Joist := { x with ucode := all &&& ~~~m, reloadRound := x.reloadRound + 1 }

theorem reloadReport_resends {j : Nat} {missing : BitVec 32} {s : State} (hm : missing &&& BitVec.ofNat 32 (allPackets s) ≠ 0)
    (hround : (s.joist j).reloadRound < 3) :
    reloadReport j missing s = resendUcode [(j, missing &&& BitVec.ofNat 32 (allPackets s))]
      (s.setJoist j (nextReload (BitVec.ofNat 32 (allPackets s)) (missing &&& BitVec.ofNat 32 (allPackets s)))) :=
  (if_neg hm).trans (if_neg (Nat.not_le.2 hround))

/-- The joist that could not be loaded, before its bent is judged. -/
def reloadRetired (j : Nat) (s : State) : State :=
  retireUnloaded j (s.setJoist j (fun x => { x with needsReload := false, ucodeOk := false }))

theorem reloadFailed_eq (j : Nat) (s : State) :
    reloadFailed j s = if inService s j then bentOut (keyBent j) (reloadRetired j s) else reloadRetired j s := rfl

theorem reloadFailed_keeps {j : Nat} {s : State} : OnlyChanges [.bnt] (reloadRetired j s) (reloadFailed j s) := by
  rw [reloadFailed_eq]
  exact .cond bentOut_frame (.refl _ _)

theorem reloadRetired_joist (j : Nat) (s : State) : ((reloadRetired j s).joist j).ucodeOk = false := by
  rw [reloadRetired, joist_congr (retireUnloaded_frame .joi (by decide)), joist_setJoist, if_pos rfl]

section
variable {j : Nat} {missing : BitVec 32} {s : State} (hn : (s.joist j).needsReload = true)
  (hu : (unusable s).contains j = false)
include hn hu

theorem joistReload_loads (hm : missing &&& BitVec.ofNat 32 (allPackets s) = 0) :
    Runs (.joistReload j missing) s (fun t => (t.joist j).ucodeOk = true ∧ (t.joist j).needsReload = false ∧
      (∀ o, o ≠ j → t.joist o = s.joist o) ∧ t.mem.slice = s.mem.slice ∧ t.mem.bench = s.mem.bench ∧
      OnlyChanges [.joi, .mem] s t) := by
  refine ⟨_, exec_joistReload hn hu missing, ?_⟩
  rw [reloadReport_complete hm]
  exact ⟨by simp [loadJoist_joist], by simp [loadJoist_joist], fun o ho => by simp [loadJoist_joist, ho], rfl, rfl,
    loadJoist_frame⟩

theorem joistReload_repairs (hm : missing &&& BitVec.ofNat 32 (allPackets s) ≠ 0) (hround : (s.joist j).reloadRound < 3) :
    Runs (.joistReload j missing) s (fun t => (t.joist j).reloadRound = (s.joist j).reloadRound + 1 ∧
      (t.joist j).needsReload = true ∧ (∀ o, o ≠ j → t.joist o = s.joist o) ∧ OnlyChanges [.joi, .out] s t) := by
  refine ⟨_, exec_joistReload hn hu missing, ?_⟩
  rw [reloadReport_resends hm hround]
  simp only [joist_congr (resendUcode_frame .joi (by decide)), joist_setJoist]
  exact ⟨by simp [nextReload], by simpa [nextReload] using hn, fun o ho => if_neg ho, setJoist_frame.then resendUcode_frame⟩

theorem joistReload_retires (hm : missing &&& BitVec.ofNat 32 (allPackets s) ≠ 0) (hround : 3 ≤ (s.joist j).reloadRound) :
    Runs (.joistReload j missing) s (fun t => (t.joist j).ucodeOk = false ∧ j ∈ unusable t ∧ t.kp.fuses = s.kp.fuses ∧
      OnlyChanges [.kp, .joi, .bnt] s t) := by
  have hkp := reloadFailed_keeps (j := j) (s := s) .kp (by decide)
  refine ⟨_, exec_joistReload hn hu missing, ?_⟩
  rw [reloadReport_failed hm hround]
  refine ⟨?loaded, ?retired, ?fuses, reloadFailed_frame⟩
  case loaded =>
    rw [joist_congr (reloadFailed_keeps .joi (by decide))]
    exact reloadRetired_joist j s
  case retired =>
    rw [unusable_congr hkp]
    exact mem_unusable_retireUnloaded_self j _
  case fuses => exact (congrArg Keeper.fuses hkp).trans (retireUnloaded_fuses j _)

end

/-! ### The obligation -/

/-- Settles O34: BROADCAST and the repair rounds go through the same reports and the same end of a round, whose three outcomes
(nothing missed, a round left, none left) are those of the statement; the reload of one joist has the same three. -/
theorem microcodeIsLoaded : Obligations.MicrocodeIsLoaded := by
  unfold Obligations.MicrocodeIsLoaded
  exact ⟨fun _ hr hs ha hf => bringupBroadcast_loads hr hs ha hf,
    fun _ _ _ hr hs ha hf hl hne => bringupBroadcast_repairs hr hs ha hf hl hne,
    fun _ _ _ ht hu hb hn => ucodePacketRx_kept ht hu hb hn,
    fun _ hr hs ha => repairRoundEnd_loads hr hs ha,
    fun _ _ _ hr hs ha hround hl hne => repairRoundEnd_next hr hs ha hround hl hne,
    fun _ _ _ hr hs ha hround hl hne => repairRoundEnd_retires hr hs ha hround hl hne,
    fun _ hr hs hf => bringupReady_opens hr hs hf,
    fun _ _ _ hn hu hm => joistReload_loads hn hu hm,
    fun _ _ _ hn hu hm hround => joistReload_repairs hn hu hm hround,
    fun _ _ _ hn hu hm hround => joistReload_retires hn hu hm hround⟩

end Sys2Proof.Machine
end

section
/-! PROOFS. STATUS_READ, LOG_READ and REG_READ: two replies that fit their buffers, and registers whose latches lie in the command
interface (R549 to R552, R565, R573). -/

namespace Sys2Proof.Machine

/-! ### Replies -/

theorem exec_statusRead (cx : Cmd) (reply : Reply) (s : State) : exec (.statusRead cx reply) s =
    qci cx 0x00B0 (fun s => replied cx reply 65536 (.words (windowWords s (mailboxOf s cx))) [] s) s := rfl

/-- What LOG_READ does once it has been taken. -/
def logReadBody (cx : Cmd) (log first count : Nat) (reply : Reply) (s : State) : Ans :=
  let v := logView s log
  let rows := logSlice first count v.rows
  if 11 < log then .fail s .badDesc else replied cx reply (v.headSize + v.size * rows.length) (.rows (v.head ++ rows)) [] s

theorem exec_logRead (cx : Cmd) (log first count : Nat) (reply : Reply) (s : State) :
    exec (.logRead cx log first count reply) s = qci cx 0x00B1 (logReadBody cx log first count reply) s := rfl

/-- A command whose body is a reply that fits its buffer sends it and completes. -/
theorem reply_completes {c : Instr} {cx : Cmd} {op size p : Nat} {reply : Reply} {data : ReplyData} {s : State} {x : Session}
    {body : State → Ans} (he : exec c s = qci cx op body s) (h : Accepts cx op s)
    (hx : sessionRec (noteTaken cx op s) cx.session = some x) (hp : recordPort (noteTaken cx op s) cx.session x cx.port = some p)
    (hl : size + 24 ≤ reply.len) (hb : body (noteTaken cx op s) = replied cx reply size data [] (noteTaken cx op s)) :
    Completes c cx op [] s (fun u => Out.reply cx.session reply data false ∈ u.out ∧ OnlyChanges [.qci, .net, .out] s u) := by
  obtain ⟨u, hu, hout, hr⟩ := replied_fits hx hp hl data []
  exact completes_of he h (hb.trans hr) ⟨hout, (noteTaken_frame cx op s).then hu⟩

/-! ### Reading registers -/

/-- Latching lies in the command interface. -/
theorem readReg_frame {a off : Nat} {k : Block} {s : State} : OnlyChanges [.qci] s (readReg a k off s).2 := by
  unfold readReg
  split
  · exact onQci_frame
  · split
    · exact onQci_frame
    · exact .refl _ _

/-- Which block an address names depends on the fuses alone. -/
theorem blockOf_congr {s t : State} (h : t.kp = s.kp) : blockOf t = blockOf s := by
  have he : enginePresent t = enginePresent s := by
    funext e
    rw [enginePresent, enginePresent, h]
  have hp : portPresent t = portPresent s := by
    funext p
    rw [portPresent, portPresent, he]
  unfold blockOf
  rw [hp, he]

theorem readRegs_cons {s : State} {a off : Nat} {k : Block} (h : blockOf s a = some (k, off)) (l : List Nat) :
    readRegs s (a :: l) = ((readReg a k off s).1 :: (readRegs (readReg a k off s).2 l).1, (readRegs (readReg a k off s).2 l).2) := by
  simp only [readRegs, h]

/-- Reading registers of the variant answers one word for each and only latches. -/
theorem readRegs_all {l : List Nat} {s : State} (h : ∀ a, a ∈ l → (blockOf s a).isSome = true) :
    (readRegs s l).1.length = l.length ∧ OnlyChanges [.qci] s (readRegs s l).2 := by
  induction l generalizing s with
  | nil => exact ⟨rfl, .refl _ _⟩
  | cons a l ih =>
    obtain ⟨⟨k, off⟩, hk⟩ := Option.isSome_iff_exists.1 (h a (List.mem_cons_self ..))
    have hread := readReg_frame (a := a) (off := off) (k := k) (s := s)
    have hblock : blockOf (readReg a k off s).2 = blockOf s := blockOf_congr (hread .kp (by decide))
    obtain ⟨hlen, hframe⟩ := ih (s := (readReg a k off s).2) (fun b hb => by
      rw [hblock]
      exact h b (List.mem_cons_of_mem _ hb))
    rw [readRegs_cons hk]
    exact ⟨congrArg (· + 1) hlen, hread.trans hframe⟩

/-- The caller of a command may read the register at an address (R552). -/
def callerMayRead (s : State) (cx : Cmd) (a : Nat) : Bool :=
  match blockOf s a, callerOf s cx.session with
  | some (k, off), some c => mayRead s c k off
  | _, _ => false

/-- What REG_READ does once it has been taken. -/
def regReadBody (cx : Cmd) (addrs : List Nat) (s : State) : Ans :=
  if addrs = [] ∨ 4 < addrs.length ∨ addrs.any (fun a => (blockOf s a).isNone) then .fail s .badDesc
  else if addrs.all (callerMayRead s cx) then .ok (readRegs s addrs).2 (readRegs s addrs).1 else .fail s .auth

theorem exec_regRead (cx : Cmd) (addrs : List Nat) (s : State) :
    exec (.regRead cx addrs) s = qci cx 0x00B2 (regReadBody cx addrs) s := rfl

theorem regReadBody_reads {cx : Cmd} {addrs : List Nat} {s : State} (hne : addrs ≠ []) (hlen : addrs.length ≤ 4)
    (hblock : ∀ a, a ∈ addrs → (blockOf s a).isSome = true) (hmay : ∀ a, a ∈ addrs → callerMayRead s cx a = true) :
    regReadBody cx addrs s = .ok (readRegs s addrs).2 (readRegs s addrs).1 := by
  have hany : addrs.any (fun a => (blockOf s a).isNone) = false :=
    List.any_eq_false.2 (fun a ha => by simpa [Option.isSome_iff_ne_none] using hblock a ha)
  rw [regReadBody, if_neg (by simp [hne, hany, Nat.not_lt.2 hlen]), if_pos (List.all_eq_true.2 hmay)]

theorem regRead_completes {cx : Cmd} {addrs : List Nat} {s : State} (h : Accepts cx 0x00B2 s) (hne : addrs ≠ [])
    (hlen : addrs.length ≤ 4) (hread : ∀ a, a ∈ addrs → ∃ k off c, blockOf (noteTaken cx 0x00B2 s) a = some (k, off) ∧
      callerOf (noteTaken cx 0x00B2 s) cx.session = some c ∧ mayRead (noteTaken cx 0x00B2 s) c k off = true) :
    ∃ l, Completes (.regRead cx addrs) cx 0x00B2 l s (fun u =>
      l = (readRegs (noteTaken cx 0x00B2 s) addrs).1 ∧ l.length = addrs.length ∧ OnlyChanges [.qci] s u) := by
  have hblock : ∀ a, a ∈ addrs → (blockOf (noteTaken cx 0x00B2 s) a).isSome = true := by
    intro a ha
    obtain ⟨k, off, c, hk, -, -⟩ := hread a ha
    rw [hk]
    rfl
  have hmay : ∀ a, a ∈ addrs → callerMayRead (noteTaken cx 0x00B2 s) cx a = true := by
    intro a ha
    obtain ⟨k, off, c, hk, hc, hm⟩ := hread a ha
    simp only [callerMayRead, hk, hc, hm]
  obtain ⟨hwords, hframe⟩ := readRegs_all hblock
  exact ⟨_, completes_of (exec_regRead cx addrs s) h (regReadBody_reads hne hlen hblock hmay)
    ⟨rfl, hwords, (noteTaken_frame cx 0x00B2 s).trans hframe⟩⟩

/-! ### The obligation -/

/-- Settles O16: the replies of STATUS_READ and LOG_READ fit their buffers, and the reads of a REG_READ leave every other address where
it is. -/
theorem readCommandsComplete : Obligations.ReadCommandsComplete := by
  unfold Obligations.ReadCommandsComplete
  refine ⟨?status, ?log, ?regs⟩
  case status =>
    rintro cx reply x p s s1 rfl h hx hp hl
    exact reply_completes (exec_statusRead cx reply s) h hx hp hl rfl
  case log =>
    rintro cx log first count reply x p rows s s1 rfl h hlog hx hp rfl hl
    exact reply_completes (exec_logRead cx log first count reply s) h hx hp hl (if_neg (Nat.not_lt.2 hlog))
  case regs =>
    rintro cx addrs s s1 rfl h hne hlen hread
    exact regRead_completes h hne hlen hread

end Sys2Proof.Machine
end

section
/-! PROOFS. PROGRAM_LOAD, PROGRAM_UNLOAD and WEIGHTS_BIND: the read of an image with the errors it meets, the program that takes its
place or the fault that is found, and the windows that are bound (R219, R334 to R336, R373, R377). -/

namespace Sys2Proof.Machine

/-! ### Meeting errors leaves the random source as it is -/

@[simp] theorem logEvent_randomOk (code source : Nat) (data : List Int) (s : State) :
    (logEvent code source data s).kp.randomOk = s.kp.randomOk := by
  simp only [logEvent, State.onKp_kp]
  repeat' split
  all_goals rfl

theorem OnlyChanges.randomOk {ps : List Part} {s t : State} (h : OnlyChanges ps s t) (hk : Part.kp ∉ ps := by decide) :
    t.kp.randomOk = s.kp.randomOk := congrArg Keeper.randomOk (h .kp hk)

theorem addRemap_randomOk (f : Finding) (row sp : Nat) (hadUe : Bool) (s : State) :
    (addRemap f row sp hadUe s).kp.randomOk = s.kp.randomOk := by
  rw [addRemap, logRemap, logEvent_randomOk, eccLog_frame.randomOk]
  rfl

theorem scheduleRemap_randomOk (f : Finding) (hadUe : Bool) (syndrome : BitVec 16) (s : State) :
    (scheduleRemap f hadUe syndrome s).kp.randomOk = s.kp.randomOk := by
  unfold scheduleRemap
  split
  · rfl
  · split
    · split <;> rfl
    · split
      · exact eccLog_frame.randomOk
      · split
        · exact (onEcc_frame.trans eccLog_frame).randomOk
        · exact addRemap_randomOk ..

theorem noteCe2_randomOk (f : Finding) (syndrome : BitVec 16) (s : State) :
    (noteCe2 f syndrome s).kp.randomOk = s.kp.randomOk := by
  unfold noteCe2
  dsimp only
  split
  · exact scheduleRemap_randomOk ..
  · rfl

/-- What counts an uncorrectable error and marks its unit leaves the random source. -/
theorem noteUe_randomOk (f : Finding) (syn : BitVec 16) (code source : Nat) (data : List Int) (s : State) :
    (logEvent code source data (eccLog 2 f syn (markUnit f 1 (countUe f s)))).kp.randomOk = s.kp.randomOk := by
  rw [logEvent_randomOk, eccLog_frame.randomOk, markUnit_frame.randomOk, countUe_frame.randomOk]

theorem meet_randomOk (f : Finding) (s : State) : (meet f s).kp.randomOk = s.kp.randomOk := by
  unfold meet
  dsimp only
  split
  · rfl
  · split
    case h_1 => exact ((countCe_frame.trans eccLog_frame).trans queueWord_frame).randomOk
    case h_2 => rw [queueCe2_frame.randomOk, noteCe2_randomOk, eccLog_frame.randomOk, countCe_frame.randomOk]; rfl
    case h_3 =>
      split
      · exact (countPoison_frame.trans eccLog_frame).randomOk
      · split
        · rw [scheduleRemap_randomOk, noteUe_randomOk]; rfl
        · split
          · rw [loseLine_frame.randomOk, noteUe_randomOk]; rfl
          · rw [noteUe_randomOk]; rfl

theorem meetShared_randomOk (l : List Finding) (s : State) : (meetShared l s).kp.randomOk = s.kp.randomOk := by
  have hmet : (meetAll l s).kp.randomOk = s.kp.randomOk :=
    foldl_keeps (P := fun t : State => t.kp.randomOk = s.kp.randomOk) (fun t f => meet f t)
      (fun t f h => (meet_randomOk f t).trans h) l rfl
  exact (foldl_frame _ (fun _ _ => voidBank_frame) _ (meetAll l s)).randomOk.trans hmet

/-! ### Bays and slice windows after an update -/

theorem bayOf_putBay (s : State) (b : Nat) (v : Option Bay) (o : Nat) :
    (s.putBay b v).bayOf o = if o = b then v else s.bayOf o := mget_mset ..

theorem bayOf_congr {s t : State} (h : t.bay = s.bay) (b : Nat) : t.bayOf b = s.bayOf b := by rw [State.bayOf, State.bayOf, h]

@[simp] theorem sliceWin_putSlice_same (s : State) (t w : Nat) (v : Option SliceWin) :
    (s.putSlice t w v).sliceWin t w = v := mget_mset_same ..

/-- Retired keys change no bay. -/
theorem bayOf_buryLanding (bay : Nat) (y : Bay) (s : State) (b : Nat) : (buryLanding bay y s).bayOf b = s.bayOf b :=
  foldl_keeps (P := fun t : State => t.bayOf b = s.bayOf b)
    (fun t (e : Nat × Landing) => buryKey (landingKey y.tenancy bay e.1 e.2) t) (fun _ _ h => h) _ rfl

theorem Owns.tenancy_eq {cx : Cmd} {bay t : Nat} {y : Bay} {s : State} (h : Owns cx bay t y s) : y.tenancy = t := by
  obtain ⟨-, -, -, hty, -, -⟩ := h
  exact hty

/-! ### The read of an image (R219) -/

/-- What PROGRAM_LOAD does with the bytes that it has read. -/
def imageRead (cx : Cmd) (bay offset length : Nat) (digest : BitVec 256) (named : List Named) (reply : Reply) (y : Bay)
    (w : SliceWin) (s : State) : Ans :=
  let b := windowBytes s w offset length
  let img := decodeImage b named digest
  if bytesDigest b ≠ digest then .fail s .badDesc (badImage 0xFFFE 0 0)
  else if 2097152 < loadedBytes s + length then .fail s .noResource
  else
    match imageFault s b named img y with
    | some f => .fail s .badDesc (badImage f.1 f.2.1 f.2.2)
    | none => placeProgram cx bay y img reply s

/-- What PROGRAM_LOAD does for the bay that it names: its checks of R373 and R377, and the read. -/
def loadInto (cx : Cmd) (bay window offset : Nat) (read : HubRead) (digest : BitVec 256) (named : List Named) (reply : Reply)
    (s : State) (y : Bay) : Ans :=
  match s.sliceWin y.tenancy window with
  | none => .fail s .badDesc
  | some w =>
    if 63 < window ∨ offset % 64 ≠ 0 ∨ read.count < 64 ∨ 1048576 < read.count
        ∨ ((s.bayOf w.bay).map (fun z => (bayJoists s z).length)).getD 0 * w.extent < offset + read.count then .fail s .badDesc
    else if bayFenced s w.bay then .fail s .fenced
    else if y.program.isSome then .fail s .busy
    else if w.halted then .fail s .dmaUe
    else readingWindow y.tenancy window offset w read (imageRead cx bay offset read.count digest named reply y w) s

theorem exec_programLoad (cx : Cmd) (bay window offset : Nat) (read : HubRead) (digest : BitVec 256) (named : List Named)
    (reply : Reply) (s : State) : exec (.programLoad cx bay window offset read digest named reply) s =
      qci cx 0x0030 (fun s => withBay cx bay (loadInto cx bay window offset read digest named reply s) s) s := rfl

/-- PROGRAM_LOAD reads its image: every check before the read passes. -/
structure LoadReads (cx : Cmd) (bay window offset : Nat) (read : HubRead) (t : Nat) (y : Bay) (w : SliceWin) (s : State) : Prop where
  owns : Owns cx bay t y s
  named : s.sliceWin t window = some w
  window_le : window ≤ 63
  aligned : offset % 64 = 0
  count_ge : 64 ≤ read.count
  count_le : read.count ≤ 1048576
  inside : offset + read.count ≤ ((s.bayOf w.bay).map (fun z => (bayJoists s z).length)).getD 0 * w.extent
  free : bayFenced s w.bay = false
  empty : y.program = none
  running : w.halted = false

/-- The state after the read, with the errors that it has met. -/
def windowRead (w : SliceWin) (offset : Nat) (read : HubRead) (s : State) : State :=
  meetShared (windowMeets s w offset read.count read.found) s

theorem windowRead_frame {w : SliceWin} {offset : Nat} {read : HubRead} {s : State} :
    OnlyChanges [.clk, .kp, .jig, .joi, .mem, .ecc] s (windowRead w offset read s) := meetShared_frame

/-- A read that meets no uncorrectable unit goes on with the bytes. -/
theorem readingWindow_sound {w : SliceWin} {offset : Nat} {read : HubRead} {s : State}
    (hbad : imageBad (windowRead w offset read s) w offset read.count = false)
    (hue : (windowMeets s w offset read.count read.found).any (fun f => f.kind == .ue) = false) (t window : Nat) (k : State → Ans) :
    readingWindow t window offset w read k s = k (windowRead w offset read s) := by
  simp only [windowRead] at hbad
  simp only [readingWindow, hbad, hue, windowRead]
  rfl

/-- A read that meets one halts the window's channel. -/
theorem readingWindow_lost {w : SliceWin} {offset : Nat} {read : HubRead} {s : State}
    (h : imageBad (windowRead w offset read s) w offset read.count = true ∨
      (windowMeets s w offset read.count read.found).any (fun f => f.kind == .ue) = true) (t window : Nat) (k : State → Ans) :
    readingWindow t window offset w read k s =
      .fail ((windowRead w offset read s).putSlice t window (some { w with halted := true })) .dmaUe :=
  if_pos (Bool.or_eq_true_iff.2 h)

theorem loadInto_reads {cx : Cmd} {bay window offset t : Nat} {read : HubRead} {y : Bay} {w : SliceWin} {s : State}
    (h : LoadReads cx bay window offset read t y w s) (digest : BitVec 256) (named : List Named) (reply : Reply) :
    withBay cx bay (loadInto cx bay window offset read digest named reply s) s =
      readingWindow t window offset w read (imageRead cx bay offset read.count digest named reply y w) s := by
  have ht : y.tenancy = t := h.owns.tenancy_eq
  have hrange : ¬(63 < window ∨ offset % 64 ≠ 0 ∨ read.count < 64 ∨ 1048576 < read.count
      ∨ ((s.bayOf w.bay).map (fun z => (bayJoists s z).length)).getD 0 * w.extent < offset + read.count) := by
    have := h.window_le
    have := h.aligned
    have := h.count_ge
    have := h.count_le
    have := h.inside
    omega
  rw [withBay_owned h.owns, loadInto]
  simp only [ht, h.named, if_neg hrange, h.free, h.empty, h.running]
  rfl

/-! ### The program takes its place (R335, R373) -/

/-- An answer for which its buffer has room goes out whole, if anything carries it (R366, R370). -/
theorem writeReply_whole {cx : Cmd} {buf : Reply} {size : Nat} (hl : size + 24 ≤ buf.len) (data : ReplyData) (s : State) :
    ∃ t, OnlyChanges [.qci, .net, .out] s t ∧ writeReply cx buf size data s = (t, false) := by
  cases hx : sessionRec s cx.session with
  | none => exact ⟨s, .refl _ _, by simp only [writeReply, hx]⟩
  | some x =>
    cases hp : recordPort s cx.session x cx.port with
    | none =>
      have hroom : ∀ sealing : Bool, ¬(if sealing = true then buf.len - 24 else buf.len) < size := by
        intro sealing
        split <;> omega
      exact ⟨countLost cx.session s, setSession_frame.mono (by decide), by simp only [writeReply, hx, hp, hroom, decide_false]⟩
    | some p =>
      obtain ⟨t, ht, he⟩ := writeReply_fits hx hp hl data
      exact ⟨_, ht.trans (send_frame.mono (by decide)), he⟩

/-- A bay that holds a program. -/
def programmed (s : State) (session bay t : Nat) (img : Image) (y : Bay) : Bay :=
  { y with program := some img, unbounded := unboundedStages img y, landing := landingWindows s session bay t img }

theorem placeProgram_places {cx : Cmd} {bay t : Nat} {y : Bay} {img : Image} {reply : Reply} {s : State} (ht : y.tenancy = t)
    (hrandom : img.landing ≠ [] → s.kp.randomOk = true)
    (hnonces : img.landing.any (fun l => (landingNonce s 0 t bay l.window).isNone) = false) (hl : 88 ≤ reply.len) :
    ∃ u, placeProgram cx bay y img reply s =
        .ok u [img.stages.length, (unboundedStages img y).length, (unboundedStages img y).headD 0xFFFF, 0, 0, 0] ∧
      (∀ o, u.bayOf o = if o = bay then some (programmed s cx.session bay t img y) else s.bayOf o) ∧
      OnlyChanges [.clk, .qci, .bay, .net, .out] s u := by
  subst ht
  have hlost : ¬(img.landing ≠ [] ∧ (!s.kp.randomOk) = true) := by
    rintro ⟨hne, hr⟩
    simp [hrandom hne] at hr
  obtain ⟨u, hu, he⟩ := writeReply_whole (cx := cx) (size := 64) hl
    (.keys (landingKeys (programmed s cx.session bay y.tenancy img y) bay))
    ((spend img.landing.length s).putBay bay (some (programmed s cx.session bay y.tenancy img y)))
  refine ⟨u, ?_, fun o => ?_, (spend_frame.then putBay_frame (rs := [.clk, .bay])).then hu⟩
  · simp only [programmed] at he
    simp only [placeProgram, if_neg hlost, hnonces, he]
    rfl
  · rw [bayOf_congr (hu .bay (by decide)), bayOf_putBay]
    rfl

/-! ### PROGRAM_LOAD -/

section
variable {cx : Cmd} {bay offset t : Nat} {read : HubRead} {y : Bay} {w : SliceWin} {s : State} {digest : BitVec 256}
  {named : List Named} {reply : Reply} {b : List Byte} {img : Image}

theorem imageRead_faulty {length : Nat} {f : Nat × Nat × Nat} (hb : b = windowBytes s w offset length)
    (himg : img = decodeImage b named digest) (hd : bytesDigest b = digest) (hroom : loadedBytes s + length ≤ 2097152)
    (hf : imageFault s b named img y = some f) :
    imageRead cx bay offset length digest named reply y w s = .fail s .badDesc (badImage f.1 f.2.1 f.2.2) := by
  subst himg hb
  simp only [imageRead, hd, ne_eq, not_true_eq_false, if_false, if_neg (Nat.not_lt.2 hroom), hf]

theorem imageRead_sound {length : Nat} (hb : b = windowBytes s w offset length)
    (himg : img = decodeImage b named digest) (hd : bytesDigest b = digest) (hroom : loadedBytes s + length ≤ 2097152)
    (hf : imageFault s b named img y = none) :
    imageRead cx bay offset length digest named reply y w s = placeProgram cx bay y img reply s := by
  subst himg hb
  simp only [imageRead, hd, ne_eq, not_true_eq_false, if_false, if_neg (Nat.not_lt.2 hroom), hf]

end

section
variable {cx : Cmd} {bay window offset t : Nat} {read : HubRead} {y : Bay} {w : SliceWin} {s u : State}
  (h : Accepts cx 0x0030 s) (hl : LoadReads cx bay window offset read t y w (noteTaken cx 0x0030 s))
  (hu : u = windowRead w offset read (noteTaken cx 0x0030 s))
include h hl hu

/-- A read that meets an uncorrectable unit fails the command. -/
theorem programLoad_lost (hlost : imageBad u w offset read.count = true ∨
      (windowMeets (noteTaken cx 0x0030 s) w offset read.count read.found).any (fun f => f.kind == .ue) = true)
    (digest : BitVec 256) (named : List Named) (reply : Reply) :
    exec (.programLoad cx bay window offset read digest named reply) s =
      .next (finish cx 0x0030 { status := .dmaUe } (u.putSlice t window (some { w with halted := true }))) := by
  subst hu
  exact (exec_programLoad ..).trans (qci_fail h ((loadInto_reads hl digest named reply).trans (readingWindow_lost hlost t window _)))

section
variable {digest : BitVec 256} {named : List Named} {reply : Reply} {b : List Byte} {img : Image}
  (hue : (windowMeets (noteTaken cx 0x0030 s) w offset read.count read.found).any (fun f => f.kind == .ue) = false)
  (hbad : imageBad u w offset read.count = false) (hb : b = windowBytes u w offset read.count)
  (himg : img = decodeImage b named digest) (hd : bytesDigest b = digest) (hroom : loadedBytes u + read.count ≤ 2097152)
include hue hbad hb himg hd hroom

/-- An image with a fault is answered with its place. -/
theorem programLoad_faulty {f : Nat × Nat × Nat} (hf : imageFault u b named img y = some f) :
    exec (.programLoad cx bay window offset read digest named reply) s =
      .next (finish cx 0x0030 { status := .badDesc, result := [0, 0, 0xFFFF, f.1, f.2.1, f.2.2] } u) := by
  subst hu
  exact (exec_programLoad ..).trans (qci_fail h ((loadInto_reads hl digest named reply).trans
    ((readingWindow_sound hbad hue t window _).trans (imageRead_faulty hb himg hd hroom hf))))

/-- A faultless image becomes the program of its bay. -/
theorem programLoad_places (hf : imageFault u b named img y = none) (hrandom : img.landing ≠ [] → s.kp.randomOk = true)
    (hnonces : img.landing.any (fun l => (landingNonce u 0 t bay l.window).isNone) = false) (hreply : 88 ≤ reply.len) :
    Completes (.programLoad cx bay window offset read digest named reply) cx 0x0030
      [img.stages.length, (unboundedStages img y).length, (unboundedStages img y).headD 0xFFFF, 0, 0, 0] s (fun v =>
      v.bayOf bay = some (programmed u cx.session bay t img y) ∧ (∀ o, o ≠ bay → v.bayOf o = s.bayOf o) ∧
      OnlyChanges [.clk, .qci, .bay, .net, .out] u v) := by
  have hbays : u.bay = s.bay := by
    rw [hu]
    exact (windowRead_frame .bay (by decide)).trans (noteTaken_bay cx 0x0030 s)
  have hrandom' : img.landing ≠ [] → u.kp.randomOk = true := by
    intro hne
    rw [hu, windowRead, meetShared_randomOk, noteTaken_kp]
    exact hrandom hne
  obtain ⟨v, hv, hbay, hframe⟩ := placeProgram_places (cx := cx) hl.owns.tenancy_eq hrandom' hnonces hreply
  subst hu
  refine completes_of (exec_programLoad ..) h ((loadInto_reads hl digest named reply).trans
    ((readingWindow_sound hbad hue t window _).trans ((imageRead_sound hb himg hd hroom hf).trans hv))) ⟨?_, fun o ho => ?_, hframe⟩
  · rw [hbay, if_pos rfl]
  · rw [hbay, if_neg ho, bayOf_congr hbays]

end

end

/-! ### PROGRAM_UNLOAD, WEIGHTS_BIND -/

/-- A bay without its program. -/
def unloaded (y : Bay) : Bay := { y with program := none, unbounded := [], landing := [] }

/-- What PROGRAM_UNLOAD does for the bay that it names. -/
def unloadFrom (bay : Nat) (s : State) (y : Bay) : Ans :=
  if stepsOf s bay ≠ [] then .fail s .busy else .ok (buryLanding bay y (s.putBay bay (some (unloaded y))))

theorem exec_programUnload (cx : Cmd) (bay : Nat) (s : State) : exec (.programUnload cx bay) s =
    qci cx 0x0031 (fun s => withBay cx bay (unloadFrom bay s) s) s := rfl

theorem programUnload_completes {cx : Cmd} {bay t : Nat} {y : Bay} {s : State} (h : Accepts cx 0x0031 s)
    (ho : Owns cx bay t y (noteTaken cx 0x0031 s)) (hsteps : stepsOf (noteTaken cx 0x0031 s) bay = []) :
    Completes (.programUnload cx bay) cx 0x0031 [] s (fun u => u.bayOf bay = some (unloaded y) ∧ OnlyChanges [.qci, .bay] s u) := by
  refine completes_of (exec_programUnload cx bay s) h ((withBay_owned ho _).trans (if_neg (fun hne => hne hsteps))) ⟨?_, ?_⟩
  · rw [bayOf_buryLanding, bayOf_putBay, if_pos rfl]
  · exact (noteTaken_frame cx 0x0031 s).then (putBay_frame.trans buryLanding_frame)

/-- The key of the window that a rebind replaces is never issued again (R239). -/
def oldKeyBuried (t window : Nat) (s : State) : State :=
  match s.sliceWin t window with
  | some old => buryKey (rkey 2 t window old.nonce) s
  | none => s

theorem oldKeyBuried_frame {t window : Nat} {s : State} : OnlyChanges [.bay] s (oldKeyBuried t window s) := by
  unfold oldKeyBuried
  split
  · exact buryKey_frame
  · exact .refl _ _

theorem bayOf_oldKeyBuried (t window : Nat) (s : State) (b : Nat) : (oldKeyBuried t window s).bayOf b = s.bayOf b := by
  unfold oldKeyBuried
  split <;> rfl

/-- The window that a WEIGHTS_BIND makes. -/
def boundWindow (cx : Cmd) (bay access addr extent nonce : Nat) : SliceWin :=
  { bay := bay, canWrite := access.testBit 0, canRead := access.testBit 1, addr := addr, extent := extent, nonce := nonce
    session := cx.session, halted := false }

/-- What WEIGHTS_BIND does with the nonce drawn. -/
def bindDrawn (cx : Cmd) (window bay access addr extent t : Nat) (r : BitVec 256) (s : State) : Ans :=
  match freshNonce r.toNat (2 ^ 16) s.bay.deadKeys (rkey 2 t window) with
  | none => .fail s .noResource
  | some nonce =>
    .ok ((oldKeyBuried t window s).putSlice t window (some (boundWindow cx bay access addr extent nonce)))
      [rkey 2 t window nonce]

/-- What WEIGHTS_BIND does for the bay that it names. -/
def bindInto (cx : Cmd) (window bay access addr extent : Nat) (s : State) (y : Bay) : Ans :=
  if 63 < window ∨ 3 < access ∨ addr % 64 ≠ 0 ∨ extent % 64 ≠ 0 ∨ extent < 64 ∨ 6291456 < extent ∨ sliceBytes s < addr + extent then
    .fail s .badDesc
  else withRandom (bindDrawn cx window bay access addr extent y.tenancy) s

theorem exec_weightsBind (cx : Cmd) (window bay access addr extent : Nat) (s : State) :
    exec (.weightsBind cx window bay access addr extent) s =
      qci cx 0x0032 (fun s => withBay cx bay (bindInto cx window bay access addr extent s) s) s := rfl

theorem bindInto_binds {cx : Cmd} {window bay access addr extent t nonce : Nat} {y : Bay} {s : State} (ht : y.tenancy = t)
    (hw : window ≤ 63) (hacc : access ≤ 3) (haddr : addr % 64 = 0) (hext : extent % 64 = 0) (hlo : 64 ≤ extent)
    (hhi : extent ≤ 6291456) (hin : addr + extent ≤ sliceBytes s) (hr : s.kp.randomOk = true)
    (hn : freshNonce (Config.random (drawNo s)).toNat (2 ^ 16) s.bay.deadKeys (rkey 2 t window) = some nonce) :
    bindInto cx window bay access addr extent s y =
      .ok ((oldKeyBuried t window (spend 1 s)).putSlice t window (some (boundWindow cx bay access addr extent nonce)))
        [rkey 2 t window nonce] := by
  subst ht
  have hn' : freshNonce (Config.random (drawNo s)).toNat (2 ^ 16) (spend 1 s).bay.deadKeys (rkey 2 y.tenancy window) = some nonce := hn
  rw [bindInto, if_neg (by omega), withRandom, if_pos hr, bindDrawn]
  simp only [hn']

theorem weightsBind_completes {cx : Cmd} {window bay access addr extent t nonce : Nat} {y : Bay} {s : State}
    (h : Accepts cx 0x0032 s) (ho : Owns cx bay t y (noteTaken cx 0x0032 s)) (hw : window ≤ 63) (hacc : access ≤ 3)
    (haddr : addr % 64 = 0) (hext : extent % 64 = 0) (hlo : 64 ≤ extent) (hhi : extent ≤ 6291456)
    (hin : addr + extent ≤ sliceBytes s) (hr : s.kp.randomOk = true)
    (hn : freshNonce (Config.random (drawNo s)).toNat (2 ^ 16) s.bay.deadKeys (rkey 2 t window) = some nonce) :
    Completes (.weightsBind cx window bay access addr extent) cx 0x0032 [rkey 2 t window nonce] s (fun u =>
      u.sliceWin t window = some (boundWindow cx bay access addr extent nonce) ∧ (∀ b, u.bayOf b = s.bayOf b) ∧
      OnlyChanges [.clk, .qci, .bay] s u) := by
  have htaken := noteTaken_frame cx 0x0032 s
  have hslice : sliceBytes (noteTaken cx 0x0032 s) = sliceBytes s := by simp only [sliceBytes, lamCount, noteTaken_kp]
  have hdraw : drawNo (noteTaken cx 0x0032 s) = drawNo s := by rw [drawNo, drawNo, noteTaken_clk]
  have hbind := bindInto_binds (cx := cx) (bay := bay) (y := y) (s := noteTaken cx 0x0032 s) ho.tenancy_eq hw hacc haddr hext hlo hhi
    (by rwa [hslice]) (by rwa [noteTaken_kp]) (by rwa [hdraw, noteTaken_bay])
  refine completes_of (exec_weightsBind cx window bay access addr extent s) h ((withBay_owned ho _).trans hbind)
    ⟨sliceWin_putSlice_same .., fun b => ?_, ?_⟩
  · exact (bayOf_oldKeyBuried ..).trans (bayOf_congr (htaken .bay (by decide)) b)
  · exact htaken.then ((spend_frame.then oldKeyBuried_frame (rs := [.clk, .bay])).then putSlice_frame (rs := [.clk, .bay]))

/-! ### The obligation -/

/-- Settles O6: the load goes through its checks to the read of its window, whose errors decide between the halted channel, the
fault of the image and the placed program; the other two commands are their bodies for the bay that they name. -/
theorem programCommandsComplete : Obligations.ProgramCommandsComplete := by
  unfold Obligations.ProgramCommandsComplete
  refine ⟨?loads, ?faulty, ?lost, fun cx bay t y s => programUnload_completes,
    fun cx w bay acc addr ext t y nonce s => weightsBind_completes⟩
  case loads =>
    rintro cx bay w off rd dg named reply t y win m b img s s1 s2 rfl h ho hw hw63 hoff hlo hhi hin hfree hempty hrun rfl hue hs2
      hbad hb himg hd hroom hf hrandom hnonces hreply
    exact programLoad_places h ⟨ho, hw, hw63, hoff, hlo, hhi, hin, hfree, hempty, hrun⟩ hs2 hue hbad hb himg hd hroom hf hrandom
      hnonces hreply
  case faulty =>
    rintro cx bay w off rd dg named reply t y win m b img f s s1 s2 rfl h ho hw hw63 hoff hlo hhi hin hfree hempty hrun rfl hue hs2
      hbad hb himg hd hroom hf
    exact programLoad_faulty h ⟨ho, hw, hw63, hoff, hlo, hhi, hin, hfree, hempty, hrun⟩ hs2 hue hbad hb himg hd hroom hf
  case lost =>
    rintro cx bay w off rd dg named reply t y win m s s1 s2 rfl h ho hw hw63 hoff hlo hhi hin hfree hempty hrun rfl hs2 hlost
    exact programLoad_lost h ⟨ho, hw, hw63, hoff, hlo, hhi, hin, hfree, hempty, hrun⟩ hs2 hlost dg named reply

end Sys2Proof.Machine
end

section
/-! PROOFS. ATTEND, ATTEND_BWD and SCATTER_KV: the pages that they pin, the bytes that they leave, and the bytes that they store (R277
to R298). -/

namespace Sys2Proof.Machine

/-! ### What a stage leaves of the bytes and of the steps -/

/-- The bytes of the slices, or of the benches, stand as before, and no step loses an active stage or a page that it has pinned. -/
structure StageKeeps (inSlice : Bool) (s t : State) : Prop where
  cells : t.mem.cells inSlice = s.mem.cells inSlice
  steps : ∀ i x, stepOf s i = some x → ∃ z, stepOf t i = some z ∧ z.active = x.active ∧ x.pins ⊆ z.pins

section
variable {inSlice : Bool}

theorem StageKeeps.refl (s : State) : StageKeeps inSlice s s := ⟨rfl, fun _ x h => ⟨x, h, rfl, List.Subset.refl _⟩⟩

theorem StageKeeps.trans {s t u : State} (h : StageKeeps inSlice s t) (k : StageKeeps inSlice t u) : StageKeeps inSlice s u where
  cells := k.cells.trans h.cells
  steps i x hx := by
    obtain ⟨y, hy, hya, hyp⟩ := h.steps i x hx
    obtain ⟨z, hz, hza, hzp⟩ := k.steps i y hy
    exact ⟨z, hz, hza.trans hya, List.Subset.trans hyp hzp⟩

/-- A change that leaves the steps alone and the bytes as they were. -/
theorem OnlyChanges.stageKeepsOf {ps : List Part} {s t : State} (h : OnlyChanges ps s t)
    (hc : t.mem.cells inSlice = s.mem.cells inSlice) (hg : Part.jig ∉ ps := by decide) : StageKeeps inSlice s t :=
  ⟨hc, fun i x hx => ⟨x, (stepOf_congr (h .jig hg) i).trans hx, rfl, List.Subset.refl _⟩⟩

theorem OnlyChanges.stageKeeps {ps : List Part} {s t : State} (h : OnlyChanges ps s t) (hm : Part.mem ∉ ps := by decide)
    (hg : Part.jig ∉ ps := by decide) : StageKeeps inSlice s t :=
  h.stageKeepsOf (congrArg (fun m => Mem.cells m inSlice) (h .mem hm)) hg

theorem foldl_stageKeeps {β : Type} (f : State → β → State) (hf : ∀ s b, StageKeeps inSlice s (f s b)) (l : List β) (s : State) :
    StageKeeps inSlice s (l.foldl f s) := foldl_keeps (P := StageKeeps inSlice s) f (fun _ b h => h.trans (hf _ b)) l (.refl s)

theorem setStep_stageKeeps {f : Step → Step} (hid : ∀ x, (f x).id = x.id) (ha : ∀ x, (f x).active = x.active)
    (hp : ∀ x, x.pins ⊆ (f x).pins) (n : Nat) (s : State) : StageKeeps inSlice s (setStep n f s) := by
  refine ⟨rfl, fun i x hx => ⟨_, by rw [stepOf_setStep hid, hx]; rfl, ?_⟩⟩
  dsimp only
  split
  · exact ⟨ha x, hp x⟩
  · exact ⟨rfl, List.Subset.refl _⟩

theorem Step.voided_pins (n : Nat) (x : Step) : (x.voided n).pins = x.pins := by
  unfold Step.voided
  split <;> rfl

theorem setVoided_stageKeeps (step n : Nat) (s : State) : StageKeeps inSlice s (setStep step (Step.voided n) s) :=
  setStep_stageKeeps (Step.voided_id n) (Step.voided_active n) (fun x => by rw [Step.voided_pins]; exact List.Subset.refl _) step s

theorem MeetKeeps.cells {s t : State} (h : MeetKeeps s t) (inSlice : Bool) : t.mem.cells inSlice = s.mem.cells inSlice := by
  cases inSlice
  · exact h.bench
  · exact h.slice

theorem meetStage_stageKeeps (step : Nat) (l : List Finding) (s : State) : StageKeeps inSlice s (meetStage step l s) := by
  have hall : StageKeeps inSlice s (meetAll l s) := meetAll_frame.stageKeepsOf ((meetAll_meetKeeps l s).cells inSlice)
  unfold meetStage
  dsimp only
  split
  · exact hall.trans (setVoided_stageKeeps ..)
  · exact hall

theorem stageMet_stageKeeps (r : Run) (s : State) : StageKeeps inSlice s (stageMet r s) :=
  startCapture_frame.stageKeeps.trans (meetStage_stageKeeps ..)

theorem pinStage_stageKeeps (r : Run) (pages : List (Nat × Nat)) (s : State) : StageKeeps inSlice s (pinStage r pages s) :=
  pinPages_frame.stageKeeps.trans
    (setStep_stageKeeps (f := fun z => { z with pins := z.pins ++ pages.map (fun e => (r.ix, e.1, e.2)) }) (fun _ => rfl)
      (fun _ => rfl) (fun _ => List.subset_append_left ..) ..)

end

/-- The pages that a stage pins stand among those of its step (R246). -/
theorem pinStage_pins {r : Run} {s : State} {x : Step} (h : stepOf s r.x.id = some x) (pages : List (Nat × Nat)) :
    ∃ z, stepOf (pinStage r pages s) r.x.id = some z ∧ z.active = x.active ∧
      ∀ e, e ∈ pages → (r.ix, e.1, e.2) ∈ z.pins := by
  have hp : stepOf (pinPages r.bay (pages.map (fun e => e.2)) s) r.x.id = some x :=
    (stepOf_congr (pinPages_frame .jig (by decide)) _).trans h
  exact ⟨_, stepOf_setStep_same (f := fun z => { z with pins := z.pins ++ pages.map (fun e => (r.ix, e.1, e.2)) })
    (fun _ => rfl) hp, rfl, fun e he => List.mem_append_right _ (List.mem_map_of_mem he)⟩

/-! ### A stage that meets no error -/

theorem runOf_found {s : State} {ref : StageRef} {r : Run} (h : runOf s ref = some r) (hf : ref.found = []) : r.found = [] := by
  unfold runOf at h
  split at h
  case h_2 => cases h
  case h_1 =>
    obtain ⟨img, -, h⟩ := Option.bind_eq_some_iff.1 h
    obtain ⟨g, -, h⟩ := Option.bind_eq_some_iff.1 h
    split at h
    · cases h
      exact congrArg (List.map _) hf
    · cases h

theorem stageMet_quiet {r : Run} (h : r.found = []) (s : State) : stageMet r s = startCapture r s := by
  rw [stageMet, mine, h]
  rfl

/-- No unit of a bench or a slice is marked. -/
def Unmarked (m : Mem) : Prop := m.benchMark = [] ∧ m.sliceMark = []

theorem Unmarked.marks {m : Mem} (h : Unmarked m) (inSlice : Bool) : m.marks inSlice = [] := by
  cases inSlice
  · exact h.1
  · exact h.2

theorem Unmarked.badMem {m : Mem} (h : Unmarked m) (inSlice : Bool) (j a n : Nat) : badMem m inSlice j a n = false := by
  simp [Machine.badMem, h.marks]

theorem Unmarked.poisonReads {s : State} (h : Unmarked s.mem) (inSlice : Bool) (j a n src : Nat) :
    poisonReads s inSlice j a n src = [] := by simp [Machine.poisonReads, h.marks]

theorem Unmarked.poisonOf {s : State} (h : Unmarked s.mem) (r : Run) (src : Bool → Nat) (l : List ShareRead) :
    poisonOf r s src l = [] := by simp [Machine.poisonOf, h.poisonReads]

/-- The reads of a list that meet a bad unit. -/
def badReads (l : List ShareRead) (s : State) : List ShareRead := l.filter (fun e => badMem s.mem e.2.inSlice e.1 e.2.base e.2.len)

theorem Unmarked.badReads {s : State} (h : Unmarked s.mem) (l : List ShareRead) : badReads l s = [] := by
  simp [Machine.badReads, h.badMem]

/-- The poison that control words meet as the narrow path fetches them (R158). -/
def fetchPoison (r : Run) (l : List ShareRead) (s : State) : List Finding := poisonOf r s (fun b => if b then 1 else 6) (fetched l)

/-! ### Replays (R54, R55) -/

section
variable {r : Run} {may : Int → Bool} {go : Int → State → State × Summary} {s : State}

/-- The state is that of the last run, whichever it is. -/
theorem runReplays_state (n : Nat) (raise : Int) : ∃ k, (runReplays r may go s n raise).1 = (go k s).1 := by
  induction n generalizing raise with
  | zero => exact ⟨raise, rfl⟩
  | succ n ih =>
    unfold runReplays
    dsimp only
    split
    · exact ih _
    · exact ⟨raise, rfl⟩

theorem runReplays_active (n : Nat) (raise : Int) :
    (runReplays r may go s n raise).2.ix = r.ix ∧ (runReplays r may go s n raise).2.finished = true := by
  induction n generalizing raise with
  | zero => exact ⟨rfl, rfl⟩
  | succ n ih =>
    unfold runReplays
    dsimp only
    split
    · exact ih _
    · exact ⟨rfl, rfl⟩

theorem replayed_active : (replayed r may go s).2.ix = r.ix ∧ (replayed r may go s).2.finished = true := by
  unfold replayed noteReplays
  split <;> exact runReplays_active ..

theorem replayed_frame (hgo : ∀ k, OnlyChanges [.mem] s (go k s).1) : OnlyChanges [.jig, .mem] s (replayed r may go s).1 := by
  obtain ⟨k, hk⟩ := runReplays_state (r := r) (may := may) (go := go) (s := s) 2 0
  have h := hk ▸ (hgo k).mono (qs := [.jig, .mem]) (by decide)
  unfold replayed noteReplays
  split
  · exact h.then setStep_frame
  · exact h

theorem replayed_stageKeeps {inSlice : Bool} (hgo : ∀ k, StageKeeps inSlice s (go k s).1) :
    StageKeeps inSlice s (replayed r may go s).1 := by
  obtain ⟨k, hk⟩ := runReplays_state (r := r) (may := may) (go := go) (s := s) 2 0
  have h := hk ▸ hgo k
  unfold replayed noteReplays
  split
  · exact h.trans (setVoided_stageKeeps ..)
  · exact h

theorem replayed_once (h : r.g.num.replay = false) : (replayed r may go s).1 = (go 0 s).1 := by
  simp [replayed, noteReplays, runReplays, h]

end

/-! ### Writing and reading benches -/

theorem getD_of_lt {l : List Byte} {i : Nat} (h : i < l.length) : l.getD i 0 = l[i] := by
  rw [List.getD_eq_getElem?_getD, List.getElem?_eq_getElem h, Option.getD_some]

theorem readMem_congr {m m' : Mem} {b c : Bool} {j a j' a' n : Nat}
    (h : ∀ i, i < n → mget 0 (m.cells b) (memKey b j a + i) = mget 0 (m'.cells c) (memKey c j' a' + i)) :
    readMem m b j a n = readMem m' c j' a' n := List.map_congr_left (fun i hi => h i (List.mem_range.1 hi))

theorem storeBench_outside {j a k : Nat} {data : List Byte} (h : k < memKey false j a ∨ memKey false j a + data.length ≤ k)
    (poison : Bool) (s : State) : mget 0 (storeBench j a data poison s).mem.bench k = mget 0 s.mem.bench k :=
  mget_writeBytes_outside h

theorem readMem_storeBench (j a : Nat) (data : List Byte) (poison : Bool) (s : State) :
    readMem (storeBench j a data poison s).mem false j a data.length = data := by
  refine List.ext_getElem (by simp [readMem, readBytes]) (fun i _ hi => ?_)
  have hb : mget 0 (storeBench j a data poison s).mem.bench (memKey false j a + i) =
      data.getD (memKey false j a + i - memKey false j a) 0 := (mget_writeBytes ..).trans (if_pos (by omega))
  rw [Nat.add_sub_cancel_left, getD_of_lt hi] at hb
  simpa [readMem, readBytes, Mem.cells] using hb

theorem storeParts_outside {j k : Nat} {l : List (Nat × List Byte)}
    (h : ∀ w, w ∈ l → k < memKey false j w.1 ∨ memKey false j w.1 + w.2.length ≤ k) (s : State) :
    mget 0 (storeParts j l s).mem.bench k = mget 0 s.mem.bench k :=
  List.foldlRecOn l _ (motive := fun t : State => mget 0 t.mem.bench k = mget 0 s.mem.bench k) rfl
    (fun _ ht w hw => (storeBench_outside (h w hw) ..).trans ht)

/-- Of parts that do not overlap each reads as it was written. -/
theorem readMem_storeParts {j : Nat} {l : List (Nat × List Byte)}
    (hl : l.Pairwise (fun a b => a.1 + a.2.length ≤ b.1 ∨ b.1 + b.2.length ≤ a.1)) {w : Nat × List Byte} (hw : w ∈ l) (s : State) :
    readMem (storeParts j l s).mem false j w.1 w.2.length = w.2 := by
  induction l generalizing s with
  | nil => cases hw
  | cons v l ih =>
    obtain ⟨hv, hl⟩ := List.pairwise_cons.1 hl
    rcases List.mem_cons.1 hw with rfl | hw
    · refine (readMem_congr (b := false) (c := false) (m' := (storeBench j w.1 w.2 false s).mem)
        (fun i hi => storeParts_outside (fun u hu => ?_) _)).trans (readMem_storeBench j w.1 w.2 false s)
      have := hv u hu
      simp only [memKey, Bool.false_eq_true, if_false]
      omega
    · exact ih hl hw _

theorem storeParts_slice (j : Nat) (l : List (Nat × List Byte)) (s : State) : (storeParts j l s).mem.slice = s.mem.slice :=
  foldl_keeps (P := fun t : State => t.mem.slice = s.mem.slice) _ (by intro _ _ h; exact h) l rfl

/-! ### The working state of a stripe -/

/-- How many bytes of each joist's bench the working state takes. -/
def stateBytes (d : AttDesc) : Nat := d.maxRows * d.heads * (4 * d.latent + 8)

theorem scrambleState_slice (js : List Nat) (d : AttDesc) (s : State) : (scrambleState js d s).mem.slice = s.mem.slice :=
  foldl_keeps (P := fun t : State => t.mem.slice = s.mem.slice) _ (by intro _ _ h; exact h) js rfl

theorem scrambleState_outside {js : List Nat} {d : AttDesc} {k : Nat}
    (h : ∀ j, j ∈ js → k < memKey false j d.stateOff ∨ memKey false j d.stateOff + stateBytes d ≤ k) (s : State) :
    mget 0 (scrambleState js d s).mem.bench k = mget 0 s.mem.bench k := by
  refine List.foldlRecOn js _ (motive := fun t : State => mget 0 t.mem.bench k = mget 0 s.mem.bench k) rfl (fun t ht j hj => ?_)
  exact (storeBench_outside (by simpa [stateBytes] using h j hj) false t).trans ht

/-! ### An attention stage, step by step (R277, R291) -/

/-- The control words that the joists of an attention stage read. -/
def attControl (r : Run) (l : List AttEnt) : List ShareRead := r.js.flatMap (fun j => controlReads r l j)

/-- The state in which control words and operands have been read. -/
def attRead (r : Run) (d : AttDesc) (bwd : Bool) (l : List AttEnt) (s : State) : State :=
  let reads := (r.js.mapIdx (fun k j => dataReads s.mem r d bwd l j k)).flatMap id
  throughLines .normal false reads (throughLines .narrow false (attControl r l)
    (meetStage r.x.id ((fetchPoison r (attControl r l) s ++ poisonOf r s stageSrc reads).eraseDups) s))

/-- What the microcode leaves of the joists after the stage's final run. -/
def attLeft (r : Run) (d : AttDesc) (bwd : Bool) (l : List AttEnt) (t : State × Active) : State × Active :=
  let m := t.2.summary
  let kexp := if d.expand || bwd then [d.kexpDatum + (m.datumFinal - r.g.num.datum)] else []
  let u := captureFree r r.js m (holdTrusses r.js (useVectors r.js
    (freeGroups (microShape d l) (m.datumFinal :: kexp) m r.js (scrambleState r.js d t.1))))
  (spend 1 u, { t.2 with summary := freeOvf (drawNo u) t.2.summary })

/-- An attention stage whose pages are pinned. -/
def attPinned (r : Run) (d : AttDesc) (bwd : Bool) (go : List AttEnt → Int → State → State × Summary) (l : List AttEnt) (s : State) :
    State × Active :=
  if badReads (attControl r l) s ≠ [] then
    (meetStage r.x.id (fetchPoison r (badReads (attControl r l) s) s) s, r.failed .uncorrectable)
  else attLeft r d bwd l (replayed r (attMayRaise r d) (go l) (attRead r d bwd l s))

section
variable {r : Run} {d : AttDesc} {bwd : Bool} {go : List AttEnt → Int → State → State × Summary} {l : List AttEnt}

theorem attStage_eq (s : State) :
    attStage r d bwd go s = attPinned r d bwd go (attEnts s r d) (pinStage r (readPages s r d) s) := rfl

theorem attRead_frame {s : State} : OnlyChanges [.clk, .kp, .jig, .joi, .mem, .ecc, .bnt] s (attRead r d bwd l s) :=
  meetStage_frame.then (throughLines_frame.trans throughLines_frame)

theorem attRead_stageKeeps {inSlice : Bool} (s : State) : StageKeeps inSlice s (attRead r d bwd l s) :=
  (meetStage_stageKeeps ..).trans (throughLines_frame.trans throughLines_frame).stageKeeps

theorem attRead_mem {s : State} (h : Unmarked s.mem) : (attRead r d bwd l s).mem = s.mem := by
  have hm : (attRead r d bwd l s).mem = (meetStage r.x.id [] s).mem := by
    simp only [attRead, fetchPoison, h.poisonOf]
    rfl
  exact hm

/-- Behind the working state the microcode reaches no memory. -/
theorem attLeft_quiet (t : State × Active) : OnlyChanges [.clk, .joi] (scrambleState r.js d t.1) (attLeft r d bwd l t).1 :=
  (((freeGroups_frame.trans useVectors_frame).trans holdTrusses_frame).trans captureFree_frame).then spend_frame

theorem attLeft_frame (t : State × Active) : OnlyChanges [.clk, .joi, .mem] t.1 (attLeft r d bwd l t).1 :=
  scrambleState_frame.then (attLeft_quiet t)

theorem attLeft_stageKeeps (t : State × Active) : StageKeeps true t.1 (attLeft r d bwd l t).1 :=
  (scrambleState_frame.stageKeepsOf (inSlice := true) (scrambleState_slice ..)).trans (attLeft_quiet t).stageKeeps

theorem attPinned_active (s : State) :
    (attPinned r d bwd go l s).2.ix = r.ix ∧ (attPinned r d bwd go l s).2.finished = true := by
  unfold attPinned
  split
  · exact ⟨rfl, rfl⟩
  · exact replayed_active

/-- The runs of an attention stage write to benches alone. -/
structure BenchOnly (go : List AttEnt → Int → State → State × Summary) : Prop where
  frame : ∀ l raise s, OnlyChanges [.mem] s (go l raise s).1
  slice : ∀ l raise s, (go l raise s).1.mem.slice = s.mem.slice

theorem attPinned_frame (hgo : BenchOnly go) (s : State) :
    OnlyChanges [.clk, .kp, .jig, .joi, .mem, .ecc, .bnt] s (attPinned r d bwd go l s).1 := by
  unfold attPinned
  split
  · exact meetStage_frame
  · exact (attRead_frame.then (replayed_frame (fun k => hgo.frame l k _)) (rs := [.clk, .kp, .jig, .joi, .mem, .ecc, .bnt])).then
      (attLeft_frame _)

theorem attPinned_stageKeeps (hgo : BenchOnly go) (s : State) : StageKeeps true s (attPinned r d bwd go l s).1 := by
  unfold attPinned
  split
  · exact meetStage_stageKeeps ..
  · exact ((attRead_stageKeeps s).trans
      (replayed_stageKeeps (fun k => (hgo.frame l k _).stageKeepsOf (inSlice := true) (hgo.slice l k _)))).trans (attLeft_stageKeeps _)

/-- With no unit marked and no replay, memory is as one run leaves it, but for the working state. -/
theorem attPinned_mem {s : State} (h : Unmarked s.mem) (hr : r.g.num.replay = false) :
    (attPinned r d bwd go l s).1.mem = (scrambleState r.js d (go l 0 (attRead r d bwd l s)).1).mem := by
  rw [attPinned, if_neg (by simp [h.badReads]), (attLeft_quiet _) .mem (by decide), replayed_once hr]

end

/-! ### An attention stage enters the step's record -/

/-- The state in which an attention stage has met its errors and pinned the pages that it reads. -/
def pagesPinned (r : Run) (d : AttDesc) (s : State) : State := pinStage r (readPages (stageMet r s) r d) (stageMet r s)

/-- What an attention stage gives that starts in a state. -/
def attWork (r : Run) (d : AttDesc) (bwd : Bool) (go : List AttEnt → Int → State → State × Summary) (s : State) : State × Active :=
  attPinned r d bwd go (attEnts (stageMet r s) r d) (pagesPinned r d s)

/-- The state behind the event of an attention stage. -/
def attEntered (r : Run) (d : AttDesc) (bwd : Bool) (go : List AttEnt → Int → State → State × Summary) (s : State) : State :=
  enterStage r (attWork r d bwd go s).2 (attWork r d bwd go s).1

theorem stageEvent_attention {ref : StageRef} {r : Run} {s : State} {work : Run → Option (State → State × Active)} {d : AttDesc}
    {bwd : Bool} {go : List AttEnt → Int → State → State × Summary} (h : StageReady ref r s)
    (hw : work r = some (attStage r d bwd go)) : stageEvent ref work s = .next (attEntered r d bwd go s) := by
  rw [stageEvent_ready h hw, attStage_eq]
  rfl

theorem attEnts_congr {s t : State} (h : t.rack = s.rack) (r : Run) (d : AttDesc) : attEnts t r d = attEnts s r d := by
  simp only [attEnts, State.seqRec, h]

theorem pagesPinned_frame {r : Run} {d : AttDesc} {s : State} :
    OnlyChanges [.clk, .kp, .rack, .jig, .joi, .mem, .ecc, .bnt] s (pagesPinned r d s) := stageMet_frame.then pinStage_frame

theorem pagesPinned_slice (r : Run) (d : AttDesc) (s : State) : (pagesPinned r d s).mem.slice = s.mem.slice :=
  ((stageMet_stageKeeps (inSlice := true) r s).trans (pinStage_stageKeeps ..)).cells

section
variable {ref : StageRef} {r : Run} {s : State} (h : StageReady ref r s) {d : AttDesc} {bwd : Bool}
  {go : List AttEnt → Int → State → State × Summary}
include h

theorem pagesPinned_pins : ∃ x, stepOf (pagesPinned r d s) r.x.id = some x ∧ x.active = r.x.active ∧
    ∀ e, e ∈ readPages (stageMet r s) r d → (r.ix, e.1, e.2) ∈ x.pins := by
  obtain ⟨-, hx, -⟩ := h
  obtain ⟨y, hy, hya⟩ := (stageMet_meetKeeps r s).active _ _ hx
  obtain ⟨z, hz, hza, hzp⟩ := pinStage_pins hy (readPages (stageMet r s) r d)
  exact ⟨z, hz, hza.trans hya, hzp⟩

theorem pagesPinned_mem (hf : ref.found = []) : (pagesPinned r d s).mem = s.mem := by
  obtain ⟨hrun, -⟩ := h
  have hmet : (stageMet r s).mem = s.mem := stageMet_quiet (runOf_found hrun hf) s ▸ startCapture_frame .mem (by decide)
  exact (pinStage_frame .mem (by decide)).trans hmet

/-- An attention stage stands in the record with the pages that it reads pinned, and leaves every slice as it was. -/
theorem attEntered_pins (hgo : BenchOnly go) :
    (∃ a x, a.ix = r.ix ∧ a.finished = true ∧ stepOf (attEntered r d bwd go s) r.x.id = some x ∧ x.nextIx = r.ix + 1 ∧
      x.active = r.x.active ++ [a] ∧ ∀ e, e ∈ readPages (stageMet r s) r d → (r.ix, e.1, e.2) ∈ x.pins) ∧
    (attEntered r d bwd go s).mem.slice = s.mem.slice ∧
    OnlyChanges [.clk, .kp, .bay, .rack, .jig, .joi, .mem, .ecc, .bnt] s (attEntered r d bwd go s) := by
  have hwork : StageKeeps true (pagesPinned r d s) (attWork r d bwd go s).1 := attPinned_stageKeeps hgo _
  obtain ⟨y, hy, hya, hyp⟩ := pagesPinned_pins (d := d) h
  obtain ⟨z, hz, hza, hzp⟩ := hwork.steps _ _ hy
  obtain ⟨hix, hfin⟩ : (attWork r d bwd go s).2.ix = r.ix ∧ (attWork r d bwd go s).2.finished = true := attPinned_active _
  have he : OnlyChanges _ (attWork r d bwd go s).1 (attEntered r d bwd go s) := enterStage_frame
  refine ⟨⟨_, _, hix, hfin, stepOf_enterStage hz _, rfl, ?_, fun e hm => hzp (hyp e hm)⟩, ?_, ?_⟩
  · rw [hza, hya]
  · exact (congrArg Mem.slice (he .mem (by decide))).trans (hwork.cells.trans (pagesPinned_slice r d s))
  · exact (pagesPinned_frame.then (attPinned_frame hgo _) (rs := [.clk, .kp, .rack, .jig, .joi, .mem, .ecc, .bnt])).then he

/-- With nothing found, no unit marked and no replay, memory is as one run leaves it, but for the working state. -/
theorem attEntered_mem (hf : ref.found = []) (hm : Unmarked s.mem) (hr : r.g.num.replay = false) :
    ∃ u, u.mem = s.mem ∧ (attEntered r d bwd go s).mem = (scrambleState r.js d (go (attEnts s r d) 0 u).1).mem := by
  have hmem := pagesPinned_mem (d := d) h hf
  have hun : Unmarked (pagesPinned r d s).mem := hmem.symm ▸ hm
  have hents : attEnts (stageMet r s) r d = attEnts s r d := attEnts_congr (stageMet_frame .rack (by decide)) r d
  refine ⟨attRead r d bwd (attEnts s r d) (pagesPinned r d s), (attRead_mem hun).trans hmem, ?_⟩
  rw [attEntered, enterStage_frame .mem (by decide), attWork, attPinned_mem hun hr, hents]

end

/-! ### ATTEND -/

/-- Stripe joist 0 stores the output of one row and head, and its statistics where the stage saves them. -/
def outStored (r : Run) (d : AttDesc) (root : Nat) (s : State) (e : Nat × HeadOut) : State :=
  let s := storeParts root (partWrites r.g d 4 d.outDst e.1 e.2.out) s
  if d.saveStats then storeBench root (d.statsOff + 8 * e.1) e.2.stats false s else s

theorem attendRun_state (r : Run) (d : AttDesc) (l : List AttEnt) (raise : Int) (s : State) :
    (attendRun r d l raise s).1 = ((attendOuts s.mem r d raise l).1.mapIdx (fun n x => (n, x))).foldl
      (outStored r d ((r.js.head?).getD 0)) s := rfl

theorem outStored_frame {r : Run} {d : AttDesc} {root : Nat} {s : State} {e : Nat × HeadOut} :
    OnlyChanges [.mem] s (outStored r d root s e) := by
  unfold outStored
  dsimp only
  split
  · exact storeParts_frame.trans storeBench_frame
  · exact storeParts_frame

theorem outStored_slice (r : Run) (d : AttDesc) (root : Nat) (s : State) (e : Nat × HeadOut) :
    (outStored r d root s e).mem.slice = s.mem.slice := by
  unfold outStored
  dsimp only
  split <;> exact storeParts_slice ..

theorem attendRun_benchOnly (r : Run) (d : AttDesc) : BenchOnly (attendRun r d) where
  frame l raise s := attendRun_state r d l raise s ▸ foldl_frame _ (fun _ _ => outStored_frame) _ _
  slice l raise s := attendRun_state r d l raise s ▸
    foldl_keeps (P := fun t : State => t.mem.slice = s.mem.slice) _ (fun t e h => (outStored_slice _ _ _ t e).trans h) _ rfl

/-- A key lies outside what is stored for one row and head. -/
def OutsideOut (r : Run) (d : AttDesc) (root k n : Nat) (x : HeadOut) : Prop :=
  (∀ w, w ∈ partWrites r.g d 4 d.outDst n x.out → k < memKey false root w.1 ∨ memKey false root w.1 + w.2.length ≤ k) ∧
    (d.saveStats = true → k < memKey false root (d.statsOff + 8 * n) ∨ memKey false root (d.statsOff + 8 * n) + x.stats.length ≤ k)

theorem outStored_outside {r : Run} {d : AttDesc} {root k n : Nat} {x : HeadOut} (h : OutsideOut r d root k n x) (s : State) :
    mget 0 (outStored r d root s (n, x)).mem.bench k = mget 0 s.mem.bench k := by
  obtain ⟨hparts, hstats⟩ := h
  unfold outStored
  dsimp only
  split
  case isTrue hs => exact (storeBench_outside (hstats hs) ..).trans (storeParts_outside hparts s)
  case isFalse => exact storeParts_outside hparts s

theorem attendRun_outside {r : Run} {d : AttDesc} {l : List AttEnt} {raise : Int} {s : State} {k : Nat}
    (h : ∀ n x, (attendOuts s.mem r d raise l).1[n]? = some x → OutsideOut r d ((r.js.head?).getD 0) k n x) :
    mget 0 (attendRun r d l raise s).1.mem.bench k = mget 0 s.mem.bench k := by
  rw [attendRun_state]
  refine List.foldlRecOn _ _ (motive := fun t : State => mget 0 t.mem.bench k = mget 0 s.mem.bench k) rfl (fun t ht e he => ?_)
  obtain ⟨n, hn, rfl⟩ := List.mem_mapIdx.1 he
  exact (outStored_outside (h n _ (List.getElem?_eq_getElem hn)) t).trans ht

theorem attendRun_single {r : Run} {d : AttDesc} {l : List AttEnt} {raise : Int} {s : State} {x : HeadOut}
    (h : (attendOuts s.mem r d raise l).1 = [x]) (hs : d.saveStats = false) :
    (attendRun r d l raise s).1 = storeParts ((r.js.head?).getD 0) (partWrites r.g d 4 d.outDst 0 x.out) s := by
  rw [attendRun_state, h]
  simp [outStored, hs]

/-- What an ATTEND does. -/
def attendWork (r : Run) : Option (State → State × Active) :=
  match r.g.work with
  | .attend d => some (attStage r d false (attendRun r d))
  | _ => none

theorem exec_attend {ref : StageRef} {r : Run} {d : AttDesc} {s : State} (h : StageReady ref r s) (hd : r.g.work = .attend d) :
    exec (.attend ref) s = .next (attEntered r d false (attendRun r d) s) := by
  have he : exec (.attend ref) s = stageEvent ref attendWork s := rfl
  exact he.trans (stageEvent_attention h (by simp [attendWork, hd]))

/-- The working state of every joist lies behind the parts that end before it. -/
theorem outside_state {root j a n i off len : Nat} (hi : i < n) (ha : a + n ≤ off) (hlen : off + len ≤ 262144) :
    memKey false root a + i < memKey false j off ∨ memKey false j off + len ≤ memKey false root a + i := by
  simp only [memKey, Bool.false_eq_true, if_false]
  rcases Nat.lt_trichotomy j root with h | h | h <;> omega

section
variable {ref : StageRef} {r : Run} {d : AttDesc} {s : State} (h : StageReady ref r s) (hf : ref.found = [])
  (hd : r.g.work = .attend d) (hr : r.g.num.replay = false) (hm : Unmarked s.mem)
include h hf hd hr hm

theorem attend_outside {k : Nat}
    (hout : ∀ n x, (attendOuts s.mem r d 0 (attEnts s r d)).1[n]? = some x → OutsideOut r d ((r.js.head?).getD 0) k n x)
    (hstate : ∀ j, j ∈ r.js → k < memKey false j d.stateOff ∨ memKey false j d.stateOff + stateBytes d ≤ k) :
    Runs (.attend ref) s (fun t => mget 0 t.mem.bench k = mget 0 s.mem.bench k) := by
  obtain ⟨u, hu, hmem⟩ := attEntered_mem (d := d) (bwd := false) (go := attendRun r d) h hf hm hr
  refine ⟨_, exec_attend h hd, ?_⟩
  rw [← hu] at hout
  rw [hmem, scrambleState_outside hstate, attendRun_outside hout, hu]

theorem attend_stores {x : HeadOut} {ws : List (Nat × List Byte)} (hx : (attendOuts s.mem r d 0 (attEnts s r d)).1 = [x])
    (hs : d.saveStats = false) (hws : ws = partWrites r.g d 4 d.outDst 0 x.out)
    (hdis : ws.Pairwise (fun a b => a.1 + a.2.length ≤ b.1 ∨ b.1 + b.2.length ≤ a.1))
    (hlo : ∀ w, w ∈ ws → w.1 + w.2.length ≤ d.stateOff) (hhi : d.stateOff + stateBytes d ≤ 262144) :
    Runs (.attend ref) s (fun t => ∀ w, w ∈ ws → readMem t.mem false ((r.js.head?).getD 0) w.1 w.2.length = w.2) := by
  obtain ⟨u, hu, hmem⟩ := attEntered_mem (d := d) (bwd := false) (go := attendRun r d) h hf hm hr
  refine ⟨_, exec_attend h hd, fun w hw => ?_⟩
  rw [← hu] at hx
  rw [hmem, attendRun_single hx hs, ← hws]
  exact (readMem_congr (b := false) (c := false)
    (fun i hi => scrambleState_outside (fun j _ => outside_state hi (hlo w hw) hhi) _)).trans (readMem_storeParts hdis hw u)

end

/-! ### ATTEND_BWD -/

/-- What the joists of a stripe hold for ATTEND_BWD. -/
def bwdJoists (m : Mem) (r : Run) (d : AttDesc) (raise : Int) (l : List AttEnt) : List BwdJoist :=
  (r.js.mapIdx (fun k j => (k, j))).map (fun e => bwdJoist m r d raise l e.1 e.2)

/-- Everything that one run of ATTEND_BWD stores. -/
def bwdWrites (m : Mem) (r : Run) (d : AttDesc) (raise : Int) (xs : List BwdJoist) : List BenchWrite :=
  (dqWrites m r d raise xs).1 ++ xs.flatMap (fun x => (dcWrites m r d raise x).1)

theorem bwdRun_state (r : Run) (d : AttDesc) (l : List AttEnt) (raise : Int) (s : State) :
    (bwdRun r d l raise s).1 = (bwdWrites s.mem r d raise (bwdJoists s.mem r d raise l)).foldl
      (fun s w => storeParts w.j w.parts s) s := by
  rw [bwdWrites, ← List.flatMap_map]
  rfl

theorem bwdRun_benchOnly (r : Run) (d : AttDesc) : BenchOnly (bwdRun r d) where
  frame l raise s := bwdRun_state r d l raise s ▸ foldl_frame _ (fun _ _ => storeParts_frame) _ _
  slice l raise s := bwdRun_state r d l raise s ▸
    foldl_keeps (P := fun t : State => t.mem.slice = s.mem.slice) _ (fun t w h => (storeParts_slice w.j w.parts t).trans h) _ rfl

theorem bwdRun_outside {r : Run} {d : AttDesc} {l : List AttEnt} {raise : Int} {s : State} {k : Nat}
    (h : ∀ w p, w ∈ bwdWrites s.mem r d raise (bwdJoists s.mem r d raise l) → p ∈ w.parts →
      k < memKey false w.j p.1 ∨ memKey false w.j p.1 + p.2.length ≤ k) :
    mget 0 (bwdRun r d l raise s).1.mem.bench k = mget 0 s.mem.bench k := by
  rw [bwdRun_state]
  exact List.foldlRecOn _ _ (motive := fun t : State => mget 0 t.mem.bench k = mget 0 s.mem.bench k) rfl
    (fun t ht w hw => (storeParts_outside (fun p => h w p hw) t).trans ht)

/-- What an ATTEND_BWD does. -/
def attendBwdWork (r : Run) : Option (State → State × Active) :=
  match r.g.work with
  | .attendBwd d => some (attStage r d true (bwdRun r d))
  | _ => none

theorem exec_attendBwd {ref : StageRef} {r : Run} {d : AttDesc} {s : State} (h : StageReady ref r s)
    (hd : r.g.work = .attendBwd d) : exec (.attendBwd ref) s = .next (attEntered r d true (bwdRun r d) s) := by
  have he : exec (.attendBwd ref) s = stageEvent ref attendBwdWork s := rfl
  exact he.trans (stageEvent_attention h (by simp [attendBwdWork, hd]))

theorem attendBwd_outside {ref : StageRef} {r : Run} {d : AttDesc} {s : State} (h : StageReady ref r s) (hf : ref.found = [])
    (hd : r.g.work = .attendBwd d) (hr : r.g.num.replay = false) (hm : Unmarked s.mem) {k : Nat}
    (hout : ∀ w p, w ∈ bwdWrites s.mem r d 0 (bwdJoists s.mem r d 0 (attEnts s r d)) → p ∈ w.parts →
      k < memKey false w.j p.1 ∨ memKey false w.j p.1 + p.2.length ≤ k)
    (hstate : ∀ j, j ∈ r.js → k < memKey false j d.stateOff ∨ memKey false j d.stateOff + stateBytes d ≤ k) :
    Runs (.attendBwd ref) s (fun t => mget 0 t.mem.bench k = mget 0 s.mem.bench k) := by
  obtain ⟨u, hu, hmem⟩ := attEntered_mem (d := d) (bwd := true) (go := bwdRun r d) h hf hm hr
  refine ⟨_, exec_attendBwd h hd, ?_⟩
  rw [← hu] at hout
  rw [hmem, scrambleState_outside hstate, bwdRun_outside hout, hu]

/-! ### The bytes that SCATTER_KV copies (R206, R295) -/

theorem memKey_add (inSlice : Bool) (j a i : Nat) : memKey inSlice j (a + i) = memKey inSlice j a + i := by
  cases inSlice <;> simp [memKey, Nat.add_assoc]

/-- A byte of a slice of which n bytes of a bench have taken the place. -/
def copiedByte (j src a n : Nat) (m : Mem) (k : Nat) : Byte :=
  if memKey true j a ≤ k ∧ k < memKey true j a + n then mget 0 m.bench (memKey false j src + (k - memKey true j a))
  else mget 0 m.slice k

theorem copiedByte_zero (j src a : Nat) (m : Mem) (k : Nat) : copiedByte j src a 0 m k = mget 0 m.slice k := if_neg (by omega)

/-- A write to a slice of what a bench holds. -/
theorem writeMem_copies (j src a n : Nat) (poison : Bool) (m : Mem) (k : Nat) :
    mget 0 (writeMem true j a (readMem m false j src n) poison m).slice k = copiedByte j src a n m k := by
  have hlen : (readMem m false j src n).length = n := by simp [readMem, readBytes]
  refine (mget_writeBytes ..).trans ?_
  rw [hlen, copiedByte]
  refine ite_congr rfl (fun hk => ?_) (fun _ => rfl)
  rw [getD_of_lt (by omega)]
  simp [readMem, readBytes, Mem.cells]

/-- A copy that goes on behind another one. -/
theorem copiedByte_append {j src a m n : Nat} {mem mem' : Mem} (hb : mem'.bench = mem.bench)
    (hs : ∀ k, mget 0 mem'.slice k = copiedByte j src a m mem k) (k : Nat) :
    copiedByte j (src + m) (a + m) n mem' k = copiedByte j src a (m + n) mem k := by
  have hnew : copiedByte j (src + m) (a + m) n mem' k =
      if memKey true j a + m ≤ k ∧ k < memKey true j a + m + n then
        mget 0 mem.bench (memKey false j src + m + (k - (memKey true j a + m)))
      else copiedByte j src a m mem k := by rw [copiedByte, hs, hb, memKey_add, memKey_add]
  rw [hnew]
  by_cases hbehind : memKey true j a + m ≤ k ∧ k < memKey true j a + m + n
  · rw [if_pos hbehind, copiedByte, if_pos (by omega)]
    exact congrArg (mget 0 mem.bench) (by omega)
  · rw [if_neg hbehind, copiedByte, copiedByte]
    by_cases hfirst : memKey true j a ≤ k ∧ k < memKey true j a + m
    · rw [if_pos hfirst, if_pos (by omega)]
    · rw [if_neg hfirst, if_neg (by omega)]

/-- One codeword of a copy. -/
def wordCopied (j : Nat) (fromSlice : Bool) (src a n : Nat) (s : State) (i : Nat) : State :=
  let k := min 8 (n - 8 * i)
  s.onMem (fun m => writeMem true j (a + 8 * i) (readMem m fromSlice j (src + 8 * i) k) (badMem m fromSlice j (src + 8 * i) k) m)

theorem copyWords_eq (j : Nat) (fromSlice : Bool) (src a n : Nat) (s : State) :
    copyWords j fromSlice src a n s = (List.range ((n + 7) / 8)).foldl (wordCopied j fromSlice src a n) s := rfl

theorem copyWords_bench (j : Nat) (fromSlice : Bool) (src a n : Nat) (s : State) :
    (copyWords j fromSlice src a n s).mem.bench = s.mem.bench :=
  foldl_keeps (P := fun t : State => t.mem.bench = s.mem.bench) _ (by intro _ _ h; exact h) _ rfl

theorem copyWords_slice (j src a n : Nat) (s : State) (k : Nat) :
    mget 0 (copyWords j false src a n s).mem.slice k = copiedByte j src a n s.mem k := by
  have words : ∀ m k, mget 0 ((List.range m).foldl (wordCopied j false src a n) s).mem.slice k =
      copiedByte j src a (min n (8 * m)) s.mem k := by
    intro m
    induction m with
    | zero =>
      intro k
      rw [Nat.mul_zero, Nat.min_zero]
      exact (copiedByte_zero ..).symm
    | succ m ih =>
      intro k
      have hb : ((List.range m).foldl (wordCopied j false src a n) s).mem.bench = s.mem.bench :=
        foldl_keeps (P := fun t : State => t.mem.bench = s.mem.bench) _ (by intro _ _ h; exact h) _ rfl
      rw [List.range_succ, List.foldl_append, List.foldl_cons, List.foldl_nil]
      refine (writeMem_copies ..).trans ?_
      by_cases hm : 8 * m ≤ n
      · rw [Nat.min_eq_right hm] at ih
        rw [copiedByte_append hb ih, show 8 * m + min 8 (n - 8 * m) = min n (8 * (m + 1)) by omega]
      · rw [show min 8 (n - 8 * m) = 0 by omega, show min n (8 * (m + 1)) = min n (8 * m) by omega, ← ih k]
        exact copiedByte_zero ..
  rw [copyWords_eq, words, Nat.min_eq_left (by omega)]

theorem copyWords_stageKeeps (j : Nat) (fromSlice : Bool) (src a n : Nat) (s : State) :
    StageKeeps false s (copyWords j fromSlice src a n s) := copyWords_frame.stageKeepsOf (copyWords_bench ..)

/-! ### One piece of a record (R295, R296) -/

theorem stagingFound_stageKeeps (found : List Finding) (j b n : Nat) (s : State) :
    StageKeeps false s (stagingFound found j b n s) :=
  foldl_stageKeeps _ (fun s f => markUnit_frame.stageKeepsOf ((markUnit_meetKeeps f 1 s).cells false)) _ s

theorem scatterPiece_stageKeeps (r : Run) (j row src a n : Nat) (s : State) :
    StageKeeps false s (scatterPiece r j row src a n s).1 := by
  unfold scatterPiece
  dsimp only
  refine StageKeeps.trans ?_ stampJoist_frame.stageKeeps
  split
  case h_1 b _ =>
    have hport := throughLines_frame.stageKeeps.trans (copyWords_stageKeeps j false src b n
      (throughLines .stream true [(j, ⟨true, b, n⟩)] s))
    exact (((hport.trans (stagingFound_stageKeeps ..)).trans (meetStage_stageKeeps ..)).trans
      (dropRow_frame.trans dropRow_frame).stageKeeps).trans (copyWords_stageKeeps ..)
  case h_2 => exact dropRow_frame.stageKeeps.trans (copyWords_stageKeeps ..)

theorem scatterPiece_frame {r : Run} {j row src a n : Nat} {s : State} :
    OnlyChanges [.clk, .kp, .jig, .joi, .mem, .ecc, .bnt] s (scatterPiece r j row src a n s).1 := by
  unfold scatterPiece
  dsimp only
  refine OnlyChanges.step stampJoist_frame (by decide) ?_
  split
  case h_1 =>
    exact .step copyWords_frame (by decide) (.step dropRow_frame (by decide) (.step dropRow_frame (by decide)
      (.step meetStage_frame (by decide) (.step stagingFound_frame (by decide) (.step copyWords_frame (by decide)
        (throughLines_frame.mono (by decide)))))))
  case h_2 => exact dropRow_frame.then copyWords_frame

/-- Without a staging page set a piece goes to its row at once. -/
theorem scatterPiece_slice {r : Run} (h : r.x.grant.staging = []) (j row src a n : Nat) (s : State) (k : Nat) :
    mget 0 (scatterPiece r j row src a n s).1.mem.slice k = copiedByte j src a n s.mem k := by
  have hnone : stagingAddr r.x.grant.staging a row = none := by rw [h]; rfl
  have hstamp (t : State) : (stampJoist r.y.tenancy true j t).mem = t.mem := stampJoist_frame .mem (by decide)
  simp only [scatterPiece, hnone, hstamp, copyWords_slice]
  rfl

/-! ### One record of a joist -/

/-- One piece of a record that lies at base of the slice and, as a new record, at src of the bench. -/
def pieceDone (r : Run) (j base src : Nat) (a : ScatAcc) (p : Nat × Nat) : ScatAcc :=
  let row := nextRow a.used p.1 p.2
  let used := if row.isNone then [] else a.used
  let t := scatterPiece r j (row.getD 0) (src + (p.1 - base)) p.1 p.2 a.s
  { s := t.1, used := used ++ [((decodeSA p.1).bankIx, row.getD 0, p.1 % 512, p.2)], bad := a.bad || t.2 }

/-- The place of the record of position t (R271). -/
def newRecordAddr (y : Bay) (p : Stripe) (q : SeqRec) (t : Nat) : Nat :=
  q.entries.getD (t / y.pageTokens) 0 * 16384 + p.regionOff + t % y.pageTokens / p.s * p.recBytes

/-- New record n of a joist, of an entry, a position and the sequence if it is open. -/
def recordDone (r : Run) (d : ScatDesc) (j : Nat) (a : ScatAcc) (e : Nat × LtEntry × Nat × Option SeqRec) : ScatAcc :=
  match e.2.2.2 with
  | none => a
  | some q =>
    let base := newRecordAddr r.y d.stripe q e.2.2.1
    (rowPieces 64 base d.stripe.recBytes).foldl (pieceDone r j base (d.src + e.1 * d.stripe.recBytes)) a

theorem scatterJoist_state (r : Run) (d : ScatDesc) (k j : Nat) (s : State) :
    (scatterJoist r d k j s).1 =
      (((newRecords s r d.stripe k).mapIdx (fun n e => (n, e))).foldl (recordDone r d j) { s := s }).s := rfl

/-- What holds from the state of an accumulator on and is kept by every piece holds behind every record. -/
theorem scatterJoist_keeps {P : State → Prop} {r : Run} {j : Nat} (hp : ∀ row src a n s, P s → P (scatterPiece r j row src a n s).1)
    (d : ScatDesc) (k : Nat) {s : State} (h : P s) : P (scatterJoist r d k j s).1 := by
  rw [scatterJoist_state]
  refine foldl_keeps (P := fun a : ScatAcc => P a.s) _ (fun a e ha => ?_) _ h
  unfold recordDone
  split
  · exact ha
  · exact foldl_keeps (P := fun a : ScatAcc => P a.s) _ (fun a p ha => hp _ _ _ _ _ ha) _ ha

theorem scatterJoist_stageKeeps (r : Run) (d : ScatDesc) (k j : Nat) (s : State) :
    StageKeeps false s (scatterJoist r d k j s).1 :=
  scatterJoist_keeps (fun _ _ _ _ _ h => h.trans (scatterPiece_stageKeeps ..)) d k (.refl s)

theorem scatterJoist_frame {r : Run} {d : ScatDesc} {k j : Nat} {s : State} :
    OnlyChanges [.clk, .kp, .jig, .joi, .mem, .ecc, .bnt] s (scatterJoist r d k j s).1 :=
  scatterJoist_keeps (P := OnlyChanges _ s) (fun _ _ _ _ _ h => h.trans scatterPiece_frame) d k (.refl _ s)

/-- Bytes up to the end of the first row take one piece, and the rest goes on behind it. -/
theorem rowPieces_succ {n : Nat} (h : n ≠ 0) (fuel a : Nat) :
    rowPieces (fuel + 1) a n =
      (a, min n (512 - a % 512)) :: rowPieces fuel (a + min n (512 - a % 512)) (n - min n (512 - a % 512)) := if_neg h

/-- The pieces of the bytes from place m of a record on, each in its row, copy them all. -/
theorem pieces_slice {r : Run} (h : r.x.grant.staging = []) (j base src : Nat) {fuel m n : Nat}
    (hn : n ≤ 512 * fuel - (base + m) % 512) (acc : ScatAcc) (k : Nat) :
    mget 0 ((rowPieces fuel (base + m) n).foldl (pieceDone r j base src) acc).s.mem.slice k =
      copiedByte j (src + m) (base + m) n acc.s.mem k := by
  induction fuel generalizing m n acc k with
  | zero =>
    obtain rfl : n = 0 := by omega
    exact (copiedByte_zero ..).symm
  | succ fuel ih =>
    by_cases h0 : n = 0
    · subst h0
      exact (copiedByte_zero ..).symm
    · rw [rowPieces_succ h0]
      generalize hw : min n (512 - (base + m) % 512) = w
      have hbench : (pieceDone r j base src acc (base + m, w)).s.mem.bench = acc.s.mem.bench := (scatterPiece_stageKeeps ..).cells
      have hslice (k : Nat) : mget 0 (pieceDone r j base src acc (base + m, w)).s.mem.slice k =
          copiedByte j (src + m) (base + m) w acc.s.mem k := by
        refine (scatterPiece_slice h ..).trans ?_
        rw [Nat.add_sub_cancel_left]
      rw [List.foldl_cons, Nat.add_assoc, ih (by omega), ← Nat.add_assoc, ← Nat.add_assoc, copiedByte_append hbench hslice,
        show w + (n - w) = n by omega]

/-- A record that is new on a joist alone reads in its place as it stood at SRC. -/
theorem scatterJoist_record {r : Run} {d : ScatDesc} {k j t : Nat} {e : LtEntry} {q : SeqRec} {s : State}
    (h : r.x.grant.staging = []) (hrec : d.stripe.recBytes ≤ 16384) (hnew : newRecords s r d.stripe k = [(e, t, some q)]) :
    readMem (scatterJoist r d k j s).1.mem true j (newRecordAddr r.y d.stripe q t) d.stripe.recBytes =
      readMem s.mem false j d.src d.stripe.recBytes := by
  have hstate : (scatterJoist r d k j s).1 = ((rowPieces 64 (newRecordAddr r.y d.stripe q t + 0) d.stripe.recBytes).foldl
      (pieceDone r j (newRecordAddr r.y d.stripe q t) d.src) { s := s }).s := by
    rw [scatterJoist_state, hnew]
    simp [recordDone]
  refine readMem_congr (b := true) (c := false) (fun i hi => ?_)
  rw [hstate]
  refine (pieces_slice h j _ _ (by omega) _ _).trans ?_
  rw [Nat.add_zero, Nat.add_zero, copiedByte, if_pos (by omega), Nat.add_sub_cancel_left]
  rfl

/-! ### SCATTER_KV up to its appends (R219, R246) -/

/-- The control words that the joists of a SCATTER_KV read. -/
def scatterWords (r : Run) (s : State) : List ShareRead := r.js.flatMap (scatterControl s r)

/-- The state in which control words and new records have been read. -/
def scatterRead (r : Run) (d : ScatDesc) (s : State) : State :=
  let reads := (r.js.mapIdx (fun k j => (k, j))).flatMap (fun e =>
    [(e.2, (⟨false, d.src, (newRecords s r d.stripe e.1).length * d.stripe.recBytes⟩ : Region))])
  throughLines .narrow false (scatterWords r s)
    (meetStage r.x.id ((fetchPoison r (scatterWords r s) s ++ poisonOf r s stageSrc reads).eraseDups) s)

/-- Every joist of the stripe takes its new records. -/
def scatterJoists (r : Run) (d : ScatDesc) (s : State) : State × Bool :=
  (r.js.mapIdx (fun k j => (k, j))).foldl
    (fun a e => let u := scatterJoist r d e.1 e.2 a.1; (u.1, a.2 || u.2)) (s, false)

/-- What a SCATTER_KV reports. -/
def scatterSummary (r : Run) (bad : Bool) : Summary := ({ datumFinal := r.g.num.datum } : Summary).withPoison bad

/-- A SCATTER_KV whose pages are pinned. -/
def scatterPinned (r : Run) (d : ScatDesc) (s : State) : State × Active :=
  if badReads (scatterWords r s) s ≠ [] then
    (meetStage r.x.id (fetchPoison r (badReads (scatterWords r s) s) s) s, r.failed .uncorrectable)
  else
    let t := scatterJoists r d (scatterRead r d s)
    (t.1, { ix := r.ix, status := (scatterSummary r t.2).status, summary := scatterSummary r t.2 })

section
variable {r : Run} {d : ScatDesc}

theorem scatterStage_eq (s : State) : scatterStage r d s = scatterPinned r d (pinStage r (scatterPages s r) s) := rfl

theorem scatterRead_frame {s : State} : OnlyChanges [.clk, .kp, .jig, .joi, .mem, .ecc, .bnt] s (scatterRead r d s) :=
  meetStage_frame.then throughLines_frame

theorem scatterRead_mem {s : State} (h : Unmarked s.mem) : (scatterRead r d s).mem = s.mem := by
  have hm : (scatterRead r d s).mem = (meetStage r.x.id [] s).mem := by
    simp only [scatterRead, fetchPoison, h.poisonOf]
    rfl
  exact hm

theorem scatterJoists_frame {s : State} :
    OnlyChanges [.clk, .kp, .jig, .joi, .mem, .ecc, .bnt] s (scatterJoists r d s).1 :=
  OnlyChanges.foldPair (.refl _ s) (fun _ _ => scatterJoist_frame)

theorem scatterJoists_stageKeeps (s : State) : StageKeeps false s (scatterJoists r d s).1 := by
  unfold scatterJoists
  exact foldl_keeps (P := fun a : State × Bool => StageKeeps false s a.1) _
    (fun a e h => h.trans (scatterJoist_stageKeeps r d e.1 e.2 a.1)) _ (.refl s)

theorem scatterPinned_frame {s : State} :
    OnlyChanges [.clk, .kp, .jig, .joi, .mem, .ecc, .bnt] s (scatterPinned r d s).1 := by
  unfold scatterPinned
  split
  · exact meetStage_frame
  · exact scatterRead_frame.trans scatterJoists_frame

theorem scatterPinned_stageKeeps (s : State) : StageKeeps false s (scatterPinned r d s).1 := by
  unfold scatterPinned
  split
  · exact meetStage_stageKeeps ..
  · exact ((meetStage_stageKeeps ..).trans throughLines_frame.stageKeeps).trans (scatterJoists_stageKeeps _)

/-- What SCATTER_KV reports is its summary's, or that a control word is lost. -/
theorem scatterPinned_active (s : State) :
    (scatterPinned r d s).2.ix = r.ix ∧ (scatterPinned r d s).2.finished = true ∧
      ((scatterPinned r d s).2.status = (scatterPinned r d s).2.summary.status ∨
        (scatterPinned r d s).2 = r.failed .uncorrectable) := by
  unfold scatterPinned
  split
  · exact ⟨rfl, rfl, .inr rfl⟩
  · exact ⟨rfl, rfl, .inl rfl⟩

theorem newRecords_congr {s t : State} (h : t.rack.seqs = s.rack.seqs) (p : Stripe) (k : Nat) :
    newRecords t r p k = newRecords s r p k := by simp only [newRecords, State.seqRec, h]

/-- One append of an unstriped stage is the one new record of its joist. -/
theorem newRecords_single {s : State} {p : Stripe} {e : LtEntry} {q : SeqRec} (hs : p.s = 1) (ht : r.x.table = [e])
    (ha : e.append = 1) (hq : s.seqRec e.seqId = some q) (ho : q.isOpen = true) :
    newRecords s r p 0 = [(e, q.length, some q)] := by
  simp [newRecords, ht, hq, ha, hs, ho, Nat.mod_one]

end

/-! ### SCATTER_KV at its turn (R201, R209) -/

theorem pinPages_seqs (bay : Nat) (ps : List Nat) (s : State) : (pinPages bay ps s).rack.seqs = s.rack.seqs :=
  foldl_keeps (P := fun t : State => t.rack.seqs = s.rack.seqs) _ (by intro _ _ h; exact h) ps rfl

theorem pinStage_seqs (r : Run) (pages : List (Nat × Nat)) (s : State) : (pinStage r pages s).rack.seqs = s.rack.seqs :=
  pinPages_seqs r.bay (pages.map (fun e : Nat × Nat => e.2)) s

theorem endBanks_cells (inSlice : Bool) (l : List (Nat × Nat)) (s : State) :
    (endBanks l s).mem.cells inSlice = s.mem.cells inSlice :=
  foldl_keeps (P := fun t : State => t.mem.cells inSlice = s.mem.cells inSlice) _ (by intro _ _ h; exact h) l rfl

/-- A sequence of the device's own runs when every bank takes it. -/
theorem ownSequence_taken {l : List (Nat × Nat)} {s : State} (h : ∀ e, e ∈ l → pegTurn s e.1 e.2 = true) (f : State → State) :
    ownSequence l f s = freeBanks l (endBanks l (f (readyBanks l s))) := if_pos (List.all_eq_true.2 h)

/-- A stage that is ready runs from whatever state its work starts in. -/
theorem runStage_ready {ref : StageRef} {r : Run} {s : State} (h : StageReady ref r s) (f : State → State × Active) (u : State) :
    runStage r f u = enterStage r (f (stageMet r u)).2 (f (stageMet r u)).1 := by
  obtain ⟨-, -, hfetch, hhub⟩ := h
  simp only [runStage, hfetch, hhub, Bool.false_eq_true, if_false]
  rfl

/-- The state in which a SCATTER_KV has its banks, has met its errors and pinned the pages that its appends write. -/
def appendsPinned (r : Run) (s : State) : State :=
  let u := stageMet r (readyBanks (scatterBanks s r) s)
  pinStage r (scatterPages u r) u

/-- The state behind the event of a SCATTER_KV. -/
def scattered (r : Run) (d : ScatDesc) (s : State) : State :=
  let t := scatterPinned r d (appendsPinned r s)
  freeBanks (scatterBanks s r) (endBanks (scatterBanks s r) (enterStage r t.2 t.1))

theorem appendsPinned_frame {r : Run} {s : State} :
    OnlyChanges [.clk, .kp, .rack, .jig, .joi, .mem, .rfr, .ecc, .bnt] s (appendsPinned r s) :=
  (readyBanks_frame.then stageMet_frame (rs := [.clk, .kp, .jig, .joi, .mem, .rfr, .ecc, .bnt])).then pinStage_frame

theorem appendsPinned_stageKeeps (r : Run) (s : State) : StageKeeps false s (appendsPinned r s) :=
  (readyBanks_frame.stageKeeps.trans (stageMet_stageKeeps ..)).trans (pinStage_stageKeeps ..)

theorem appendsPinned_seqs (r : Run) (s : State) : (appendsPinned r s).rack.seqs = s.rack.seqs :=
  (pinStage_seqs ..).trans (congrArg Rack.seqs ((readyBanks_frame.then stageMet_frame
    (rs := [.clk, .kp, .jig, .joi, .mem, .rfr, .ecc, .bnt])) .rack (by decide)))

theorem appendsPinned_mem {r : Run} (h : r.found = []) (s : State) : (appendsPinned r s).mem = s.mem := by
  refine (pinStage_frame .mem (by decide)).trans ?_
  rw [stageMet_quiet h]
  exact (startCapture_frame .mem (by decide)).trans (readyBanks_frame .mem (by decide))

/-- What follows a SCATTER_KV's work leaves every byte. -/
theorem scattered_cells (inSlice : Bool) (r : Run) (d : ScatDesc) (s : State) :
    (scattered r d s).mem.cells inSlice = (scatterPinned r d (appendsPinned r s)).1.mem.cells inSlice := by
  rw [scattered, freeBanks_frame .mem (by decide), endBanks_cells, enterStage_frame .mem (by decide)]

theorem scattered_frame {r : Run} {d : ScatDesc} {s : State} :
    OnlyChanges [.clk, .kp, .bay, .rack, .jig, .joi, .mem, .rfr, .ecc, .bnt] s (scattered r d s) :=
  .step freeBanks_frame (by decide) (.step endBanks_frame (by decide) (.step enterStage_frame (by decide)
    (.step scatterPinned_frame (by decide) (appendsPinned_frame.mono (by decide)))))

section
variable {ref : StageRef} {r : Run} {d : ScatDesc} {s : State} (h : StageReady ref r s)
include h

theorem exec_scatterKv (hd : r.g.work = .scatterKv d) (hturn : ∀ e, e ∈ scatterBanks s r → pegTurn s e.1 e.2 = true) :
    exec (.scatterKv ref) s = .next (scattered r d s) := by
  have he : exec (.scatterKv ref) s = execScatterKv ref s := rfl
  have ⟨hrun, _⟩ := h
  simp only [he, execScatterKv, hrun, hd, ownSequence_taken hturn, runStage_ready h, scatterStage_eq]
  rfl

theorem scatterKv_enters (hd : r.g.work = .scatterKv d) (hturn : ∀ e, e ∈ scatterBanks s r → pegTurn s e.1 e.2 = true) :
    Runs (.scatterKv ref) s (fun t => (∃ a, a.ix = r.ix ∧ a.finished = true ∧
        (a.status = a.summary.status ∨ a = r.failed .uncorrectable) ∧
        ∃ x, stepOf t r.x.id = some x ∧ x.nextIx = r.ix + 1 ∧ x.active = r.x.active ++ [a]) ∧
      t.mem.bench = s.mem.bench ∧ OnlyChanges [.clk, .kp, .bay, .rack, .jig, .joi, .mem, .rfr, .ecc, .bnt] s t) := by
  have ⟨_, hx, _⟩ := h
  have hwork : StageKeeps false s (scatterPinned r d (appendsPinned r s)).1 :=
    (appendsPinned_stageKeeps r s).trans (scatterPinned_stageKeeps _)
  obtain ⟨hix, hfin, hst⟩ := scatterPinned_active (r := r) (d := d) (appendsPinned r s)
  obtain ⟨z, hz, hza, -⟩ := hwork.steps _ _ hx
  have hstep : stepOf (scattered r d s) r.x.id = _ :=
    (stepOf_congr ((endBanks_frame.then freeBanks_frame (rs := [.joi, .mem, .rfr, .bnt])) .jig (by decide)) _).trans
      (stepOf_enterStage hz (scatterPinned r d (appendsPinned r s)).2)
  exact ⟨_, exec_scatterKv h hd hturn, ⟨_, hix, hfin, hst, _, hstep, rfl, by rw [hza]⟩,
    (scattered_cells false r d s).trans hwork.cells, scattered_frame⟩

theorem scatterKv_stores {j : Nat} {e : LtEntry} {q : SeqRec} (hf : ref.found = []) (hd : r.g.work = .scatterKv d)
    (hs : d.stripe.s = 1) (hj : r.js = [j]) (ht : r.x.table = [e]) (ha : e.append = 1) (hq : s.seqRec e.seqId = some q)
    (ho : q.isOpen = true) (hturn : ∀ e, e ∈ scatterBanks s r → pegTurn s e.1 e.2 = true) (hg : r.x.grant.staging = [])
    (hm : Unmarked s.mem) (hrec : d.stripe.recBytes ≤ 16384) :
    Runs (.scatterKv ref) s (fun t => readMem t.mem true j (newRecordAddr r.y d.stripe q q.length) d.stripe.recBytes =
      readMem s.mem false j d.src d.stripe.recBytes) := by
  have ⟨hrun, _⟩ := h
  have hmem := appendsPinned_mem (runOf_found hrun hf) s
  have hun : Unmarked (appendsPinned r s).mem := hmem.symm ▸ hm
  have hread := scatterRead_mem (r := r) (d := d) hun
  have hseqs : (scatterRead r d (appendsPinned r s)).rack.seqs = s.rack.seqs :=
    (congrArg Rack.seqs (scatterRead_frame .rack (by decide))).trans (appendsPinned_seqs r s)
  have hnew : newRecords (scatterRead r d (appendsPinned r s)) r d.stripe 0 = [(e, q.length, some q)] :=
    (newRecords_congr hseqs ..).trans (newRecords_single hs ht ha hq ho)
  have hcells : (scattered r d s).mem.cells true = (scatterJoist r d 0 j (scatterRead r d (appendsPinned r s))).1.mem.cells true := by
    rw [scattered_cells, scatterPinned, if_neg (by simp [hun.badReads]), scatterJoists, hj]
    rfl
  have hpiece := scatterJoist_record hg hrec hnew (j := j)
  rw [hread, hmem] at hpiece
  exact ⟨_, exec_scatterKv h hd hturn,
    (congrArg (fun m => readBytes m (memKey true j (newRecordAddr r.y d.stripe q q.length)) d.stripe.recBytes) hcells).trans hpiece⟩

end

/-! ### The obligation -/

/-- Settles O23: ATTEND and ATTEND_BWD are one attention stage with different runs, whose pins outlive the work and whose stores go
through the rules for benches; SCATTER_KV copies a record piece by piece, each piece word by word. -/
theorem attentionStagesRun : Obligations.AttentionStagesRun := by
  unfold Obligations.AttentionStagesRun
  refine ⟨?attend, ?attendFrame, ?attendStores, ?bwd, ?bwdFrame, fun _ _ _ _ => scatterKv_enters, ?scatter⟩
  case attend =>
    intro ref r d s h hd
    exact ⟨_, exec_attend h hd, attEntered_pins h (attendRun_benchOnly r d)⟩
  case attendFrame =>
    rintro ref r d l root k s h hf hd hr hb hs rfl rfl hout hstate
    exact attend_outside h hf hd hr ⟨hb, hs⟩ hout hstate
  case attendStores =>
    rintro ref r d l root x ws s h hf hd hr hb hs rfl rfl hx hstats hws hdis hlo hhi
    exact attend_stores h hf hd hr ⟨hb, hs⟩ hx hstats hws hdis hlo hhi
  case bwd =>
    intro ref r d s h hd
    exact ⟨_, exec_attendBwd h hd, attEntered_pins h (bwdRun_benchOnly r d)⟩
  case bwdFrame =>
    rintro ref r d xs k s h hf hd hr hb hs rfl hout hstate
    exact attendBwd_outside h hf hd hr ⟨hb, hs⟩ hout hstate
  case scatter =>
    rintro ref r d j e q page base s h hf hd hone hj ht ha hq ho hturn hg hb hs hrec rfl rfl
    have hplace : newRecordAddr r.y d.stripe q q.length = q.entries.getD (q.length / r.y.pageTokens) 0 * 16384 + d.stripe.regionOff +
        q.length % r.y.pageTokens * d.stripe.recBytes := by rw [newRecordAddr, hone, Nat.div_one]
    exact hplace ▸ scatterKv_stores h hf hd hone hj ht ha hq ho hturn hg ⟨hb, hs⟩ hrec

end Sys2Proof.Machine
end
